-- ==== Sys2Proof/Word.lean ====
section
/-!
DEFINITION. The word types of the machine (`spec/00_scope.md` R9, `spec/20_memory.md` R130).
-/
namespace Sys2Proof

/-- A byte. -/
abbrev Byte := BitVec 8
/-- A word: 16 bits. -/
abbrev W16 := BitVec 16
/-- A doubleword: 32 bits. -/
abbrev W32 := BitVec 32
/-- A quadword: 64 bits. -/
abbrev W64 := BitVec 64

end Sys2Proof
end

