-- ==== Sys2Proof/Config.lean ====
section
/-!
DEFINITION. What an implementation fixes (`spec/00_scope.md` R7, `spec/93_implementation_defined.md`), the
platform's devices, and the free values: constants without a body, of which nothing can be proved.
-/
namespace Sys2Proof.Config

/-- A free value: the n-th value that the spec leaves open. Nothing constrains it. -/
opaque freeWord : Nat → W32

/-- What a read of a physical address where nothing resides gives: any value, which may differ from access to access
(UNPOPULATED_READ, `spec/00_scope.md` R7, `spec/20_memory.md` R134, D82; log 2). -/
opaque openByte : Nat → Nat → Byte

/-- What an I/O read answers, given the I/O accesses so far (port, bytes, value written or `none`), the port and
the number of bytes (`spec/20_memory.md` R133, D83; log 20). -/
opaque ioRead : List (W16 × Nat × Option W32) → W16 → Nat → W32

/-- What the CPUID cache and TLB descriptor leaf (EAX = 2) returns in EAX, EBX, ECX, EDX (log 4). -/
opaque cpuidLeaf2 : Nat → W32

/-- CPUID signature: family 6, model 7, stepping 3 (`spec/70_reset_and_hazards.md` R1306, U51; log 4). -/
def cpuidSignature : W32 := 0x00000673#32

/-- CPUID feature flags of the model target (`spec/00_scope.md` R6; log 4). -/
def cpuidFeatures : W32 := 0x0383FBFF#32

/-- The largest CPUID leaf (log 4). -/
def cpuidMaxLeaf : W32 := 2#32

/-- The local APIC's ID (`spec/62_apic_and_mp.md` R1030, D50; log 4). -/
def apicId : BitVec 4 := 0#4

/-- The local APIC version register: version 11H, highest LVT entry 4 (`spec/62_apic_and_mp.md` R1062, U43; log 4). -/
def apicVersion : W32 := 0x00040011#32

/-- The processor is used with an I/O APIC. Without one, Fixed interrupts from LINT0 and LINT1 are always level-triggered
(`spec/62_apic_and_mp.md` R1037; log 17). -/
def usesIoApic : Bool := true

/-- MTRRcap: eight variable ranges, fixed ranges and WC supported (`spec/24_caches_mtrr.md` R401; log 4). -/
def mtrrCap : W64 := 0x508#64

/-- MCG_CAP: five banks, no MCG_CTL (`spec/64_machine_check.md` R1173; log 4). -/
def mcgCap : W64 := 5#64

/-- The machine-check bank that reports external bus errors, a parameter: P5_MC_TYPE and P5_MC_ADDR show its registers
(`spec/64_machine_check.md` R1172; log 41). -/
opaque busErrorBank : Fin 5

/-- The SMM revision identifier: I/O restart and SMBASE relocation present (`spec/63_smm.md` R1141; log 22). -/
def smmRevision : W32 := 0x00030000#32

/-- Clocks that one step of the model takes (`spec/71_timing_and_optimization.md` R1350, D95; log 18). -/
def clocksPerStep : Nat := 1

/-- Events a performance counter sees in one step, by event code, unit mask and step (`spec/65_debug_and_perfmon.md`
R1265; log 18). -/
opaque perfEvents : Byte → Byte → Nat → Nat

/-- The layout of the FXSAVE image, a parameter: the offset of byte k of the saved state
(`spec/44_fpu_mmx_sse_system.md` R760, `spec/91_not_in_source.md` N20; log 21). -/
opaque fxLayout : Nat → Nat

/-- The offset of byte k of the saved state: what the parameter says if its 512 offsets are all different, so that it is
a layout, and k otherwise (log 21). -/
def fxPlace (k : Nat) : Nat :=
  if ((List.range 512).map fun i => fxLayout i % 512).Pairwise (· ≠ ·) then fxLayout k % 512 else k

/-- The bytes of an FXSAVE image that hold no state: free values, by use and by offset (log 21). -/
opaque fxOther : Nat → Nat → Byte

end Sys2Proof.Config
end

