-- ==== Sys2Proof/Syntax.lean ====
section
/-!
DEFINITION. The abstract syntax: operands, and one constructor of `Instr` for each row of
`spec/opcode_table.json`, in the table's order (`spec/30_encoding.md` R464 to R471).
-/
namespace Sys2Proof

/-- General registers (R466). The same number names the 16-bit half at a 16-bit operand size. -/
inductive Gpr where
  | eax | ecx | edx | ebx | esp | ebp | esi | edi
  deriving DecidableEq, Repr

/-- The byte registers (R466). -/
inductive Gpr8 where
  | al | cl | dl | bl | ah | ch | dh | bh
  deriving DecidableEq, Repr

/-- Segment registers (R466), named in segment-override prefixes (R465) and instructions. -/
inductive Seg where
  | es | cs | ss | ds | fs | gs
  deriving DecidableEq, Repr

/-- Operand size 16 or 32 (R457). -/
inductive OpSize where
  | w16 | w32
  deriving DecidableEq, Repr

/-- Bits of an operand size. -/
@[reducible] def OpSize.bits : OpSize → Nat
  | .w16 => 16
  | .w32 => 32

/-- Bytes of an operand size. -/
@[reducible] def OpSize.bytes : OpSize → Nat
  | .w16 => 2
  | .w32 => 4

/-- The sixteen conditions of the conditional jumps (R597). -/
inductive Cond where
  | o | no | b | ae | e | ne | be | a | s | ns | p | np | l | ge | le | g
  deriving DecidableEq, Repr

/-- The register part of a 16-bit address (R468), by `r/m`. -/
inductive Base16 where
  | bxsi | bxdi | bpsi | bpdi | si | di | bp | bx
  deriving DecidableEq, Repr

/-- The displacement after a 16-bit form: absent, 8 or 16 bits (R468). -/
inductive Disp16 where
  | none
  | d8 (d : Byte)
  | d16 (d : W16)
  deriving DecidableEq, Repr

/-- The displacement after a 32-bit form: absent, 8 or 32 bits (R467). -/
inductive Disp32 where
  | none
  | d8 (d : Byte)
  | d32 (d : W32)
  deriving DecidableEq, Repr

/-- The addressing forms of R467 and R468. The form fixes the address size. -/
inductive Ea where
  /-- 16-bit, displacement alone (`mod` 0, `r/m` 6). -/
  | abs16 (disp : W16)
  /-- 16-bit, registers with an optional displacement. -/
  | base16 (b : Base16) (disp : Disp16)
  /-- 32-bit, displacement alone (`mod` 0, `r/m` 5). -/
  | abs32 (disp : W32)
  /-- 32-bit, one register without a SIB byte. -/
  | base32 (r : Gpr) (disp : Disp32)
  /-- 32-bit with a SIB byte and a base register; index 4 is no index. -/
  | sib (scale : BitVec 2) (index : Option Gpr) (base : Gpr) (disp : Disp32)
  /-- 32-bit with a SIB byte and no base (`mod` 0, base 5): a 32-bit displacement follows. -/
  | sibNoBase (scale : BitVec 2) (index : Option Gpr) (disp : W32)
  deriving DecidableEq, Repr

/-- A memory operand: the segment override, if any, and the address. -/
structure MemOp where
  seg : Option Seg
  ea : Ea
  deriving DecidableEq, Repr

/-- An `r/m` operand: a register (`mod` 3) or memory. -/
inductive RegMem (ρ : Type) where
  | reg (r : ρ)
  | mem (m : MemOp)
  deriving DecidableEq, Repr

/-- An `r/m16` or `r/m32` operand. -/
abbrev Rm := RegMem Gpr
/-- An `r/m8` operand. -/
abbrev Rm8 := RegMem Gpr8

/-- An immediate of the operand size; it carries that size (R464, R469). -/
inductive ImmV where
  | i16 (v : W16)
  | i32 (v : W32)
  deriving DecidableEq, Repr

/-- The operand size an immediate stands for. -/
@[reducible] def ImmV.size : ImmV → OpSize
  | .i16 _ => .w16
  | .i32 _ => .w32

/-- The immediate's value. -/
def ImmV.val : (i : ImmV) → BitVec i.size.bits
  | .i16 v => v
  | .i32 v => v

/-- A far pointer in the instruction (`cp`, R469): offset, then selector; it carries the operand size. -/
inductive FarPtr where
  | p16 (off sel : W16)
  | p32 (off : W32) (sel : W16)
  deriving DecidableEq, Repr

/-- The instructions: one constructor for each row of the opcode table. -/
inductive Instr where
  /-- SGDT: `0F 01 /0 m16&32` (R483). -/
  | sgdt (osz : OpSize) (m : MemOp)
  /-- SIDT: `0F 01 /1 m16&32` (R485). -/
  | sidt (osz : OpSize) (m : MemOp)
  /-- LGDT: `0F 01 /2 m16&32` (R482). -/
  | lgdt (osz : OpSize) (m : MemOp)
  /-- LIDT: `0F 01 /3 m16&32` (R484). -/
  | lidt (osz : OpSize) (m : MemOp)
  /-- SMSW: `0F 01 /4 r/m16 (r32 with 32-bit operand size and mod=3)` (R507). -/
  | smsw (osz : OpSize) (rm : Rm)
  /-- LMSW: `0F 01 /6 r/m16` (R506). -/
  | lmsw (rm : Rm)
  /-- INVLPG: `0F 01 /7 m` (R512). -/
  | invlpg (m : MemOp)
  /-- SLDT: `0F 00 /0 r/m16` (R487). -/
  | sldt (osz : OpSize) (rm : Rm)
  /-- STR: `0F 00 /1 r/m16` (R489). -/
  | str (osz : OpSize) (rm : Rm)
  /-- LLDT: `0F 00 /2 r/m16` (R486). -/
  | lldt (rm : Rm)
  /-- LTR: `0F 00 /3 r/m16` (R488). -/
  | ltr (rm : Rm)
  /-- VERR: `0F 00 /4 r/m16` (R572). -/
  | verr (rm : Rm)
  /-- VERW: `0F 00 /5 r/m16` (R573). -/
  | verw (rm : Rm)
  /-- LAR: `0F 02 /r r16/r32, r/m16` (R570). -/
  | lar (osz : OpSize) (r : Gpr) (rm : Rm)
  /-- LSL: `0F 03 /r r16/r32, r/m16` (R571). -/
  | lsl (osz : OpSize) (r : Gpr) (rm : Rm)
  /-- CLTS: `0F 06` (R508). -/
  | clts
  /-- INVD: `0F 08` (R392). -/
  | invd
  /-- WBINVD: `0F 09` (R393). -/
  | wbinvd
  /-- UD2: `0F 0B` (R966). -/
  | ud2
  /-- MOV_r32__CRn: `0F 20 /r reg = n (control register), r/m = general register; mod ignored (treated as 3)` (R490). -/
  | movRCr (n : BitVec 3) (r : Gpr)
  /-- MOV_r32__DRn: `0F 21 /r reg = n (debug register), r/m = general register` (R1222). -/
  | movRDr (n : BitVec 3) (r : Gpr)
  /-- MOV_CRn__r32: `0F 22 /r reg = n, r/m = general register` (R490). -/
  | movCrR (n : BitVec 3) (r : Gpr)
  /-- MOV_DRn__r32: `0F 23 /r reg = n, r/m = general register` (R1222). -/
  | movDrR (n : BitVec 3) (r : Gpr)
  /-- WRMSR: `0F 30` (R521). -/
  | wrmsr
  /-- RDTSC: `0F 31` (R1262). -/
  | rdtsc
  /-- RDMSR: `0F 32` (R520). -/
  | rdmsr
  /-- RDPMC: `0F 33` (R1270). -/
  | rdpmc
  /-- EMMS: `0F 77` (R775). -/
  | emms
  /-- Jcc_rel16_32: `0F 80+cc cw/cd` (R597). -/
  | jccRel (cc : Cond) (rel : ImmV)
  /-- PUSH_FS: `0F A0` (R564). -/
  | pushFs (osz : OpSize)
  /-- POP_FS: `0F A1` (R563). -/
  | popFs (osz : OpSize)
  /-- CPUID: `0F A2` (R533). -/
  | cpuid
  /-- PUSH_GS: `0F A8` (R564). -/
  | pushGs (osz : OpSize)
  /-- POP_GS: `0F A9` (R563). -/
  | popGs (osz : OpSize)
  /-- RSM: `0F AA` (R1115). -/
  | rsm
  /-- FXSAVE: `0F AE /0 m512byte` (R760). -/
  | fxsave (m : MemOp)
  /-- FXRSTOR: `0F AE /1 m512byte` (R760). -/
  | fxrstor (m : MemOp)
  /-- LDMXCSR: `0F AE /2 m32` (R772). -/
  | ldmxcsr (m : MemOp)
  /-- STMXCSR: `0F AE /3 m32` (R772). -/
  | stmxcsr (m : MemOp)
  /-- SFENCE: `0F AE F8 (/7 with mod = 3, r/m = 0)` (R350). -/
  | sfence
  /-- LSS: `0F B2 /r r16/r32, m16:16/m16:32` (R566). -/
  | lss (osz : OpSize) (r : Gpr) (m : MemOp)
  /-- LFS: `0F B4 /r r16/r32, m16:16/m16:32` (R565). -/
  | lfs (osz : OpSize) (r : Gpr) (m : MemOp)
  /-- LGS: `0F B5 /r r16/r32, m16:16/m16:32` (R565). -/
  | lgs (osz : OpSize) (r : Gpr) (m : MemOp)
  /-- ADD: `00 /r r/m8, r8` (R585). -/
  | addRm8R8 (lock : Bool) (rm : Rm8) (r : Gpr8)
  /-- ADD: `01 /r r/m16/32, r16/32` (R585). -/
  | addRmR (lock : Bool) (osz : OpSize) (rm : Rm) (r : Gpr)
  /-- ADD: `02 /r r8, r/m8` (R585). -/
  | addR8Rm8 (r : Gpr8) (rm : Rm8)
  /-- ADD: `03 /r r16/32, r/m16/32` (R585). -/
  | addRRm (osz : OpSize) (r : Gpr) (rm : Rm)
  /-- ADD: `04 ib AL, imm8` (R585). -/
  | addAlImm8 (imm : Byte)
  /-- ADD: `05 iw/id eAX, imm16/32` (R585). -/
  | addEaxImm (imm : ImmV)
  /-- ADD: `80 /0 ib r/m8, imm8` (R585). -/
  | addRm8Imm8 (lock : Bool) (rm : Rm8) (imm : Byte)
  /-- ADD: `81 /0 iw/id r/m16/32, imm16/32` (R585). -/
  | addRmImm (lock : Bool) (rm : Rm) (imm : ImmV)
  /-- ADD: `83 /0 ib r/m16/32, sign-extended imm8` (R585). -/
  | addRmImm8 (lock : Bool) (osz : OpSize) (rm : Rm) (imm : Byte)
  /-- PUSH_ES: `06` (R564). -/
  | pushEs (osz : OpSize)
  /-- POP_ES: `07` (R563). -/
  | popEs (osz : OpSize)
  /-- OR: `08 /r r/m8, r8` (R589). -/
  | orRm8R8 (lock : Bool) (rm : Rm8) (r : Gpr8)
  /-- OR: `09 /r r/m16/32, r16/32` (R589). -/
  | orRmR (lock : Bool) (osz : OpSize) (rm : Rm) (r : Gpr)
  /-- OR: `0A /r r8, r/m8` (R589). -/
  | orR8Rm8 (r : Gpr8) (rm : Rm8)
  /-- OR: `0B /r r16/32, r/m16/32` (R589). -/
  | orRRm (osz : OpSize) (r : Gpr) (rm : Rm)
  /-- OR: `0C ib AL, imm8` (R589). -/
  | orAlImm8 (imm : Byte)
  /-- OR: `0D iw/id eAX, imm16/32` (R589). -/
  | orEaxImm (imm : ImmV)
  /-- OR: `80 /1 ib r/m8, imm8` (R589). -/
  | orRm8Imm8 (lock : Bool) (rm : Rm8) (imm : Byte)
  /-- OR: `81 /1 iw/id r/m16/32, imm16/32` (R589). -/
  | orRmImm (lock : Bool) (rm : Rm) (imm : ImmV)
  /-- OR: `83 /1 ib r/m16/32, sign-extended imm8` (R589). -/
  | orRmImm8 (lock : Bool) (osz : OpSize) (rm : Rm) (imm : Byte)
  /-- PUSH_CS: `0E` (R564). -/
  | pushCs (osz : OpSize)
  /-- PUSH_SS: `16` (R564). -/
  | pushSs (osz : OpSize)
  /-- POP_SS: `17` (R563). -/
  | popSs (osz : OpSize)
  /-- PUSH_DS: `1E` (R564). -/
  | pushDs (osz : OpSize)
  /-- POP_DS: `1F` (R563). -/
  | popDs (osz : OpSize)
  /-- AND: `20 /r r/m8, r8` (R588). -/
  | andRm8R8 (lock : Bool) (rm : Rm8) (r : Gpr8)
  /-- AND: `21 /r r/m16/32, r16/32` (R588). -/
  | andRmR (lock : Bool) (osz : OpSize) (rm : Rm) (r : Gpr)
  /-- AND: `22 /r r8, r/m8` (R588). -/
  | andR8Rm8 (r : Gpr8) (rm : Rm8)
  /-- AND: `23 /r r16/32, r/m16/32` (R588). -/
  | andRRm (osz : OpSize) (r : Gpr) (rm : Rm)
  /-- AND: `24 ib AL, imm8` (R588). -/
  | andAlImm8 (imm : Byte)
  /-- AND: `25 iw/id eAX, imm16/32` (R588). -/
  | andEaxImm (imm : ImmV)
  /-- AND: `80 /4 ib r/m8, imm8` (R588). -/
  | andRm8Imm8 (lock : Bool) (rm : Rm8) (imm : Byte)
  /-- AND: `81 /4 iw/id r/m16/32, imm16/32` (R588). -/
  | andRmImm (lock : Bool) (rm : Rm) (imm : ImmV)
  /-- AND: `83 /4 ib r/m16/32, sign-extended imm8` (R588). -/
  | andRmImm8 (lock : Bool) (osz : OpSize) (rm : Rm) (imm : Byte)
  /-- SUB: `28 /r r/m8, r8` (R586). -/
  | subRm8R8 (lock : Bool) (rm : Rm8) (r : Gpr8)
  /-- SUB: `29 /r r/m16/32, r16/32` (R586). -/
  | subRmR (lock : Bool) (osz : OpSize) (rm : Rm) (r : Gpr)
  /-- SUB: `2A /r r8, r/m8` (R586). -/
  | subR8Rm8 (r : Gpr8) (rm : Rm8)
  /-- SUB: `2B /r r16/32, r/m16/32` (R586). -/
  | subRRm (osz : OpSize) (r : Gpr) (rm : Rm)
  /-- SUB: `2C ib AL, imm8` (R586). -/
  | subAlImm8 (imm : Byte)
  /-- SUB: `2D iw/id eAX, imm16/32` (R586). -/
  | subEaxImm (imm : ImmV)
  /-- SUB: `80 /5 ib r/m8, imm8` (R586). -/
  | subRm8Imm8 (lock : Bool) (rm : Rm8) (imm : Byte)
  /-- SUB: `81 /5 iw/id r/m16/32, imm16/32` (R586). -/
  | subRmImm (lock : Bool) (rm : Rm) (imm : ImmV)
  /-- SUB: `83 /5 ib r/m16/32, sign-extended imm8` (R586). -/
  | subRmImm8 (lock : Bool) (osz : OpSize) (rm : Rm) (imm : Byte)
  /-- XOR: `30 /r r/m8, r8` (R590). -/
  | xorRm8R8 (lock : Bool) (rm : Rm8) (r : Gpr8)
  /-- XOR: `31 /r r/m16/32, r16/32` (R590). -/
  | xorRmR (lock : Bool) (osz : OpSize) (rm : Rm) (r : Gpr)
  /-- XOR: `32 /r r8, r/m8` (R590). -/
  | xorR8Rm8 (r : Gpr8) (rm : Rm8)
  /-- XOR: `33 /r r16/32, r/m16/32` (R590). -/
  | xorRRm (osz : OpSize) (r : Gpr) (rm : Rm)
  /-- XOR: `34 ib AL, imm8` (R590). -/
  | xorAlImm8 (imm : Byte)
  /-- XOR: `35 iw/id eAX, imm16/32` (R590). -/
  | xorEaxImm (imm : ImmV)
  /-- XOR: `80 /6 ib r/m8, imm8` (R590). -/
  | xorRm8Imm8 (lock : Bool) (rm : Rm8) (imm : Byte)
  /-- XOR: `81 /6 iw/id r/m16/32, imm16/32` (R590). -/
  | xorRmImm (lock : Bool) (rm : Rm) (imm : ImmV)
  /-- XOR: `83 /6 ib r/m16/32, sign-extended imm8` (R590). -/
  | xorRmImm8 (lock : Bool) (osz : OpSize) (rm : Rm) (imm : Byte)
  /-- CMP: `38 /r r/m8, r8` (R587). -/
  | cmpRm8R8 (rm : Rm8) (r : Gpr8)
  /-- CMP: `39 /r r/m16/32, r16/32` (R587). -/
  | cmpRmR (osz : OpSize) (rm : Rm) (r : Gpr)
  /-- CMP: `3A /r r8, r/m8` (R587). -/
  | cmpR8Rm8 (r : Gpr8) (rm : Rm8)
  /-- CMP: `3B /r r16/32, r/m16/32` (R587). -/
  | cmpRRm (osz : OpSize) (r : Gpr) (rm : Rm)
  /-- CMP: `3C ib AL, imm8` (R587). -/
  | cmpAlImm8 (imm : Byte)
  /-- CMP: `3D iw/id eAX, imm16/32` (R587). -/
  | cmpEaxImm (imm : ImmV)
  /-- CMP: `80 /7 ib r/m8, imm8` (R587). -/
  | cmpRm8Imm8 (rm : Rm8) (imm : Byte)
  /-- CMP: `81 /7 iw/id r/m16/32, imm16/32` (R587). -/
  | cmpRmImm (rm : Rm) (imm : ImmV)
  /-- CMP: `83 /7 ib r/m16/32, sign-extended imm8` (R587). -/
  | cmpRmImm8 (osz : OpSize) (rm : Rm) (imm : Byte)
  /-- INC: `40+rw/rd r16/32` (R592). -/
  | incR (osz : OpSize) (r : Gpr)
  /-- DEC: `48+rw/rd r16/32` (R593). -/
  | decR (osz : OpSize) (r : Gpr)
  /-- PUSH: `50+rw/rd r16/32` (R594). -/
  | pushR (osz : OpSize) (r : Gpr)
  /-- POP: `58+rw/rd r16/32` (R595). -/
  | popR (osz : OpSize) (r : Gpr)
  /-- BOUND: `62 /r r16/32, m16&16/m32&32` (R637). -/
  | bound (osz : OpSize) (r : Gpr) (m : MemOp)
  /-- ARPL: `63 /r r/m16, r16` (R574). -/
  | arpl (rm : Rm) (r : Gpr)
  /-- PUSH: `68 iw/id imm16/32` (R594). -/
  | pushImm (imm : ImmV)
  /-- PUSH: `6A ib sign-extended imm8` (R594). -/
  | pushImm8 (osz : OpSize) (imm : Byte)
  /-- Jcc_rel8: `70+cc cb` (R597). -/
  | jccRel8 (osz : OpSize) (cc : Cond) (imm : Byte)
  /-- TEST: `84 /r r/m8, r8` (R591). -/
  | testRm8R8 (rm : Rm8) (r : Gpr8)
  /-- TEST: `85 /r r/m16/32, r16/32` (R591). -/
  | testRmR (osz : OpSize) (rm : Rm) (r : Gpr)
  /-- XCHG: `86 /r r/m8, r8` (R598). -/
  | xchgRm8R8 (lock : Bool) (rm : Rm8) (r : Gpr8)
  /-- XCHG: `87 /r r/m16/32, r16/32` (R598). -/
  | xchgRmR (lock : Bool) (osz : OpSize) (rm : Rm) (r : Gpr)
  /-- MOV: `88 /r r/m8, r8` (R582). -/
  | movRm8R8 (rm : Rm8) (r : Gpr8)
  /-- MOV: `89 /r r/m16/32, r16/32` (R582). -/
  | movRmR (osz : OpSize) (rm : Rm) (r : Gpr)
  /-- MOV: `8A /r r8, r/m8` (R582). -/
  | movR8Rm8 (r : Gpr8) (rm : Rm8)
  /-- MOV: `8B /r r16/32, r/m16/32` (R582). -/
  | movRRm (osz : OpSize) (r : Gpr) (rm : Rm)
  /-- MOV_r_m16__Sreg: `8C /r reg = segment register number (ES 0, CS 1, SS 2, DS 3, FS 4, GS 5; 6, 7: #UD)` (R562). -/
  | movRmSreg (osz : OpSize) (rm : Rm) (sr : BitVec 3)
  /-- LEA: `8D /r r16/32, m` (R584). -/
  | lea (osz : OpSize) (r : Gpr) (m : MemOp)
  /-- MOV_Sreg__r_m16: `8E /r reg = segment register number (CS = 1 and 6, 7: #UD)` (R561). -/
  | movSregRm (sr : BitVec 3) (rm : Rm)
  /-- POP: `8F /0 r/m16/32` (R595). -/
  | popRm (osz : OpSize) (rm : Rm)
  /-- NOP: `90` (R596). -/
  | nop
  /-- XCHG: `90+rw/rd eAX, r16/32` (R598). -/
  | xchgEaxR (osz : OpSize) (r : Gpr)
  /-- CALL_far: `9A cp ptr16:16/ptr16:32` (R616). -/
  | callFarPtr (p : FarPtr)
  /-- WAIT: `9B` (R774). -/
  | wait
  /-- PUSHF: `9C` (R543). -/
  | pushf (osz : OpSize)
  /-- POPF: `9D` (R542). -/
  | popf (osz : OpSize)
  /-- TEST: `A8 ib AL, imm8` (R591). -/
  | testAlImm8 (imm : Byte)
  /-- TEST: `A9 iw/id eAX, imm16/32` (R591). -/
  | testEaxImm (imm : ImmV)
  /-- MOV: `B0+rb ib r8, imm8` (R583). -/
  | movR8Imm8 (r : Gpr8) (imm : Byte)
  /-- MOV: `B8+rw/rd iw/id r16/32, imm16/32` (R583). -/
  | movRImm (r : Gpr) (imm : ImmV)
  /-- RET_near: `C2 iw` (R613). -/
  | retNearImm (osz : OpSize) (imm : W16)
  /-- RET_near: `C3` (R613). -/
  | retNear (osz : OpSize)
  /-- LES: `C4 /r r16/r32, m16:16/m16:32` (R565). -/
  | les (osz : OpSize) (r : Gpr) (m : MemOp)
  /-- LDS: `C5 /r r16/r32, m16:16/m16:32` (R565). -/
  | lds (osz : OpSize) (r : Gpr) (m : MemOp)
  /-- MOV: `C6 /0 ib r/m8, imm8` (R583). -/
  | movRm8Imm8 (rm : Rm8) (imm : Byte)
  /-- MOV: `C7 /0 iw/id r/m16/32, imm16/32` (R583). -/
  | movRmImm (rm : Rm) (imm : ImmV)
  /-- RET_far: `CA iw` (R618). -/
  | retFarImm (osz : OpSize) (imm : W16)
  /-- RET_far: `CB` (R618). -/
  | retFar (osz : OpSize)
  /-- INT_3: `CC` (R635). -/
  | int3
  /-- INT_n: `CD ib` (R634). -/
  | intN (imm : Byte)
  /-- INTO: `CE` (R636). -/
  | into
  /-- IRET: `CF` (R640). -/
  | iret (osz : OpSize)
  /-- FNINIT: `DB E3 (escape DBH, ModR/M E3H: mod 3, reg 4, r/m 3)` (R773). -/
  | fninit
  /-- IN: `E4 ib AL, imm8` (R600). -/
  | inAlImm8 (imm : Byte)
  /-- IN: `E5 ib eAX, imm8` (R600). -/
  | inEaxImm8 (osz : OpSize) (imm : Byte)
  /-- OUT: `E6 ib imm8, AL` (R601). -/
  | outImm8Al (imm : Byte)
  /-- OUT: `E7 ib imm8, eAX` (R601). -/
  | outImm8Eax (osz : OpSize) (imm : Byte)
  /-- CALL_near: `E8 cw/cd rel16/32` (R612). -/
  | callRel (imm : ImmV)
  /-- JMP_near: `E9 cw/cd rel16/32` (R614). -/
  | jmpRel (imm : ImmV)
  /-- JMP_far: `EA cp ptr16:16/ptr16:32` (R617). -/
  | jmpFarPtr (p : FarPtr)
  /-- JMP_short: `EB cb rel8` (R614). -/
  | jmpRel8 (osz : OpSize) (imm : Byte)
  /-- IN: `EC AL, DX` (R600). -/
  | inAlDx
  /-- IN: `ED eAX, DX` (R600). -/
  | inEaxDx (osz : OpSize)
  /-- OUT: `EE DX, AL` (R601). -/
  | outDxAl
  /-- OUT: `EF DX, eAX` (R601). -/
  | outDxEax (osz : OpSize)
  /-- HLT: `F4` (R530). -/
  | hlt
  /-- TEST: `F6 /0 ib r/m8, imm8` (R591). -/
  | testRm8Imm8 (rm : Rm8) (imm : Byte)
  /-- DIV: `F6 /6 r/m8` (R599). -/
  | divRm8 (rm : Rm8)
  /-- IDIV: `F6 /7 r/m8` (R602). -/
  | idivRm8 (rm : Rm8)
  /-- TEST: `F7 /0 iw/id r/m16/32, imm16/32` (R591). -/
  | testRmImm (rm : Rm) (imm : ImmV)
  /-- DIV: `F7 /6 r/m16/32` (R599). -/
  | divRm (osz : OpSize) (rm : Rm)
  /-- IDIV: `F7 /7 r/m16/32` (R602). -/
  | idivRm (osz : OpSize) (rm : Rm)
  /-- CLI: `FA` (R541). -/
  | cli
  /-- STI: `FB` (R540). -/
  | sti
  /-- INC: `FE /0 r/m8` (R592). -/
  | incRm8 (lock : Bool) (rm : Rm8)
  /-- DEC: `FE /1 r/m8` (R593). -/
  | decRm8 (lock : Bool) (rm : Rm8)
  /-- INC: `FF /0 r/m16/32` (R592). -/
  | incRm (lock : Bool) (osz : OpSize) (rm : Rm)
  /-- DEC: `FF /1 r/m16/32` (R593). -/
  | decRm (lock : Bool) (osz : OpSize) (rm : Rm)
  /-- CALL_near: `FF /2 r/m16/32` (R612). -/
  | callRm (osz : OpSize) (rm : Rm)
  /-- CALL_far: `FF /3 m16:16/m16:32` (R616). -/
  | callFarMem (osz : OpSize) (m : MemOp)
  /-- JMP_near: `FF /4 r/m16/32` (R614). -/
  | jmpRm (osz : OpSize) (rm : Rm)
  /-- JMP_far: `FF /5 m16:16/m16:32` (R617). -/
  | jmpFarMem (osz : OpSize) (m : MemOp)
  /-- PUSH: `FF /6 r/m16/32` (R594). -/
  | pushRm (osz : OpSize) (rm : Rm)
  deriving DecidableEq, Repr

end Sys2Proof
end

