-- ==== Sys2Proof/Machine/State.lean ====
section
/-!
DEFINITION. The state of the machine (`spec/10_state.md` R30), as plain data, in two halves: `Cpu`, the
registers and hidden state that a fault gives back, and `Bus`, memory and everything an access can change.
-/
namespace Sys2Proof.Machine

/-- The eight general registers (`spec/10_state.md` R31). -/
structure Gprs where
  eax : W32
  ecx : W32
  edx : W32
  ebx : W32
  esp : W32
  ebp : W32
  esi : W32
  edi : W32
  deriving DecidableEq, Repr

/-- EFLAGS without its fixed bits: bit 1 reads 1, bits 3, 5, 15 and 31:22 read 0 (`spec/10_state.md` R33). -/
structure Eflags where
  cf : Bool
  pf : Bool
  af : Bool
  zf : Bool
  sf : Bool
  tf : Bool
  if_ : Bool
  df : Bool
  of : Bool
  iopl : BitVec 2
  nt : Bool
  rf : Bool
  vm : Bool
  ac : Bool
  vif : Bool
  vip : Bool
  id : Bool
  deriving DecidableEq, Repr

/-- A segment register, LDTR or TR: the selector, and the hidden part with the effective byte limit
(`spec/10_state.md` R50, R63). `unusable` marks a register loaded with a null selector (`spec/20_memory.md` R143). -/
structure SegReg where
  sel : W16
  base : W32
  limit : W32
  typ : BitVec 4
  s : Bool
  dpl : BitVec 2
  p : Bool
  avl : Bool
  db : Bool
  g : Bool
  unusable : Bool
  deriving DecidableEq, Repr

/-- The six segment registers. -/
structure SegRegs where
  es : SegReg
  cs : SegReg
  ss : SegReg
  ds : SegReg
  fs : SegReg
  gs : SegReg
  deriving DecidableEq, Repr

/-- GDTR or IDTR (`spec/10_state.md` R60, R62). -/
structure TableReg where
  base : W32
  limit : W16
  deriving DecidableEq, Repr

/-- Control registers, and the page-directory-pointer entries held inside the processor
(`spec/10_state.md` R66 to R80, `spec/21_paging.md` R226). -/
structure Ctl where
  cr0 : W32
  cr2 : W32
  cr3 : W32
  cr4 : W32
  pdpte0 : W64
  pdpte1 : W64
  pdpte2 : W64
  pdpte3 : W64
  deriving DecidableEq, Repr

/-- Debug registers (`spec/65_debug_and_perfmon.md` R1221). -/
structure Dbg where
  dr0 : W32
  dr1 : W32
  dr2 : W32
  dr3 : W32
  dr6 : W32
  dr7 : W32
  deriving DecidableEq, Repr

/-- x87 state, physical registers R0 to R7; MMi is bits 63:0 of Ri (`spec/10_state.md` R95 to R101). -/
structure Fpu where
  r0 : BitVec 80
  r1 : BitVec 80
  r2 : BitVec 80
  r3 : BitVec 80
  r4 : BitVec 80
  r5 : BitVec 80
  r6 : BitVec 80
  r7 : BitVec 80
  cw : W16
  sw : W16
  tw : W16
  ipSel : W16
  ipOff : W32
  dpSel : W16
  dpOff : W32
  opcode : BitVec 11
  deriving DecidableEq, Repr

/-- SSE state (`spec/10_state.md` R100, R102). -/
structure Sse where
  xmm0 : BitVec 128
  xmm1 : BitVec 128
  xmm2 : BitVec 128
  xmm3 : BitVec 128
  xmm4 : BitVec 128
  xmm5 : BitVec 128
  xmm6 : BitVec 128
  xmm7 : BitVec 128
  mxcsr : W32
  deriving DecidableEq, Repr

/-- Model-specific registers (`spec/10_state.md` R86). -/
structure Msrs where
  tsc : W64
  bblCrOvrd : W64
  apicBase : W64
  mcuSignature : W64
  mcuRevision : W32
  perfCtr0 : BitVec 40
  perfCtr1 : BitVec 40
  perfEvtSel0 : W32
  perfEvtSel1 : W32
  mtrrDefType : W64
  mtrrFix : Vector W64 11
  mtrrPhysBase : Vector W64 8
  mtrrPhysMask : Vector W64 8
  pat : W64
  mcgStatus : W64
  mcCtl : Vector W64 5
  mcStatus : Vector W64 5
  mcAddr : Vector W64 5
  debugCtl : W64
  lastBranchFrom : W32
  lastBranchTo : W32
  lastExcFrom : W32
  lastExcTo : W32
  deriving DecidableEq, Repr

/-- run_state (`spec/10_state.md` R114). -/
inductive RunState where
  | running
  | halted
  | shutdown
  | waitForSipi
  deriving DecidableEq, Repr

/-- What SMM entry saves outside the readable map (`spec/63_smm.md` R1122, D91), with copies of the images and of the
reserved bytes that the handler must not modify (R1121). -/
structure SmmSaved where
  cr0 : W32
  cr3 : W32
  cr4 : W32
  dr6 : W32
  dr7 : W32
  segs : SegRegs
  ldtrSel : W16
  trSel : W16
  halted : Bool
  /-- The EIP of the HLT, if the processor was halted (`spec/63_smm.md` R1115). -/
  haltEip : W32
  cpl : BitVec 2
  /-- The reserved bytes of the map. -/
  reserved : List Byte
  deriving DecidableEq, Repr

/-- SMM state (`spec/10_state.md` R91, R118). -/
structure Smm where
  smbase : W32
  inSmm : Bool
  smiBlocked : Bool
  nmiBlockedBySmm : Bool
  saved : Option SmmSaved
  /-- The I/O instruction after which the SMI was taken (`spec/63_smm.md` R1145). -/
  ioRestartEip : Option W32
  /-- LIDT has been executed since SMM was entered (`spec/63_smm.md` R1138). -/
  lidtDone : Bool
  deriving DecidableEq, Repr

/-- The debug traps pending at an instruction boundary: DR6 bits B3:B0, BS and BT (`spec/10_state.md` R117). -/
structure PendingDb where
  b : BitVec 4
  bs : Bool
  bt : Bool
  deriving DecidableEq, Repr

/-- A frame that a call through a 16-bit call gate has pushed: the linear address of its lowest byte, and the pointer that it
returns to. -/
structure GateFrame where
  la : W32
  cs : W16
  ip : W16
  deriving DecidableEq, Repr

/-- The rest of the hidden state (`spec/10_state.md` R112 to R117, `spec/40_system_instructions.md` R540). -/
structure Hidden where
  run : RunState
  nmiBlocked : Bool
  ssShadow : Bool
  stiShadow : Bool
  pendingDb : Option PendingDb
  /-- The EIP of the HLT that was executed last (`spec/63_smm.md` R1115). -/
  haltEip : W32
  /-- MODEL field (log 11): the frames that calls from 32-bit code through 16-bit call gates have pushed and no far return has
  popped; after such a return ESP[31:16] is open (`spec/45_v86_and_16bit.md` R866). -/
  gate16 : List GateFrame
  deriving DecidableEq, Repr

/-- MODEL field (log 8): what the current step has done so far that the end of the step looks at. -/
structure Notes where
  /-- The EIP of the instruction. -/
  start : W32
  /-- A branch was taken, or an interrupt or exception delivered (`spec/65_debug_and_perfmon.md` R1251). -/
  branched : Bool
  /-- RF is not cleared at the end of this instruction (`spec/65_debug_and_perfmon.md` R1232). -/
  keepRf : Bool
  /-- The instruction did not complete: an exception was delivered in its place. -/
  faulted : Bool
  /-- This instruction set ss_shadow or the STI delay. -/
  newShadow : Bool
  /-- The EIP of the instruction, if it did I/O (`spec/63_smm.md` R1145). -/
  ioEip : Option W32
  deriving DecidableEq, Repr

/-- The processor's registers and hidden state. -/
structure Cpu where
  gpr : Gprs
  eip : W32
  fl : Eflags
  seg : SegRegs
  cpl : BitVec 2
  gdtr : TableReg
  idtr : TableReg
  ldtr : SegReg
  tr : SegReg
  ctl : Ctl
  dbg : Dbg
  fpu : Fpu
  sse : Sse
  msr : Msrs
  smm : Smm
  hid : Hidden
  /-- MODEL field (log 8): the offset of the instruction after the one being executed. -/
  nextEip : W32
  /-- MODEL field (log 8). -/
  notes : Notes
  deriving DecidableEq, Repr

/-- Local APIC registers (`spec/62_apic_and_mp.md` R1024); bit v of `isr`, `tmr`, `irr` is vector v (R1046). -/
structure Apic where
  id : BitVec 4
  arb : BitVec 4
  tpr : Byte
  ldr : Byte
  dfr : BitVec 4
  svr : BitVec 10
  isr : BitVec 256
  tmr : BitVec 256
  irr : BitVec 256
  esr : Byte
  /-- Errors detected since the last write of the ESR (R1060). -/
  esrNew : Byte
  icr : W64
  lvtTimer : W32
  lvtPerf : W32
  lvtLint0 : W32
  lvtLint1 : W32
  lvtError : W32
  initCount : W32
  curCount : W32
  divConf : BitVec 4
  /-- Clocks counted by the divider since the last decrement (R1061). -/
  divPhase : BitVec 8
  /-- The `INTR` signal to the core is asserted (R1049). -/
  intrUp : Bool
  deriving DecidableEq, Repr

/-- An interrupt message on the APIC bus (`spec/62_apic_and_mp.md` R1040, R1064). -/
structure ApicMsg where
  vector : Byte
  mode : BitVec 3
  logical : Bool
  level : Bool
  trigger : Bool
  dest : Byte
  deriving DecidableEq, Repr

/-- What the APIC has sent on the bus. -/
inductive ApicOut where
  | ipi (m : ApicMsg)
  | eoi (vector : Byte)
  deriving DecidableEq, Repr

/-- A machine-check event as the hardware reports it (`spec/64_machine_check.md` R1182). -/
structure McEvent where
  bank : Fin 5
  /-- MCA and model-specific codes and other information, bits 56:0 of the status. -/
  code : BitVec 57
  pcc : Bool
  uc : Bool
  addr : Option (BitVec 36)
  /-- The EEj bit that enables the error. -/
  enable : Fin 64
  ripv : Bool
  eipv : Bool
  deriving DecidableEq, Repr

/-- Pins and pending events (`spec/10_state.md` R117, `spec/00_scope.md` R4; log 26). -/
structure Events where
  reset : Bool
  init : Bool
  /-- BINIT# has been received (`spec/64_machine_check.md` R1185). -/
  binit : Bool
  mc : Option McEvent
  smi : Bool
  nmi : Bool
  /-- INTR (LINT0) level. -/
  intr : Bool
  /-- The vector that the external controller answers in the next INTA cycle. -/
  inta : Byte
  /-- LINT1 level. -/
  lint1 : Bool
  /-- Levels of LINT0 and LINT1 when last sampled, for edges. -/
  lint0Last : Bool
  lint1Last : Bool
  flush : Bool
  stpclk : Bool
  /-- A20M# asserted (`spec/20_memory.md` R135). -/
  a20m : Bool
  /-- IGNNE# asserted (`spec/44_fpu_mmx_sse_system.md` R745). -/
  ignne : Bool
  apicIn : List ApicMsg
  /-- Vectors of self-interrupts that must be retried (`spec/62_apic_and_mp.md` R1047, D51). -/
  selfIn : List Byte
  /-- An ExtINT message has been accepted (`spec/62_apic_and_mp.md` R1047). -/
  extMsg : Bool
  sipi : Option Byte
  /-- FLUSH# has been de-asserted (`spec/24_caches_mtrr.md` R399). -/
  flushEnd : Bool
  deriving DecidableEq, Repr

/-- Sizes of a page (`spec/21_paging.md` R201). -/
inductive PageSize where
  | k4
  | m2
  | m4
  deriving DecidableEq, Repr

/-- Memory types (`spec/24_caches_mtrr.md` R386). -/
inductive MemType where
  | uc
  | wc
  | wt
  | wp
  | wb
  /-- UC-, of the page attribute table only. -/
  | ucMinus
  deriving DecidableEq, Repr

/-- A page-directory or page-table entry in memory: where it is, and the memory type of an access to it. -/
structure EntryRef where
  addr : Nat
  typ : MemType
  deriving DecidableEq, Repr

/-- A cached translation (`spec/10_state.md` R115, `spec/21_paging.md` R235). `page` is the linear page base,
`frame` the physical one, `pageType` the type field that the page selects in the page attribute table
(`spec/24_caches_mtrr.md` R423, R431), `leaf` the entry that maps the page. -/
structure TlbEntry where
  page : W32
  size : PageSize
  frame : BitVec 36
  us : Bool
  rw : Bool
  dirty : Bool
  global : Bool
  pageType : Byte
  leaf : EntryRef
  deriving DecidableEq, Repr

/-- One access to the I/O space: port, bytes, the value written or `none` for a read. -/
abbrev IoAccess := W16 × Nat × Option W32

/-- Physical memory: the bytes that differ from 00H, by rising address (`spec/20_memory.md` R132; log 1). -/
abbrev Memory := List Host.Cell

/-- A range of physical addresses that is not read-write memory (`spec/20_memory.md` R132, R134): read-only memory, or
nothing. -/
structure Region where
  base : Nat
  size : Nat
  rom : Bool
  deriving DecidableEq, Repr

/-- The old value of a byte that was overwritten, and where (`spec/23_ordering.md` R352, `spec/24_caches_mtrr.md` R396). -/
structure StaleByte where
  /-- The physical address. -/
  addr : Nat
  old : Byte
  /-- The linear address of the store. -/
  la : W32
  /-- A jump has been executed since the store. -/
  jumped : Bool
  deriving DecidableEq, Repr

/-- Memory, devices, events, and what an access leaves behind. -/
structure Bus where
  mem : Memory
  /-- The platform's memory map, where it is not read-write memory: a parameter (`spec/20_memory.md` R134; log 2). -/
  map : List Region
  io : List IoAccess
  tlb : List TlbEntry
  apic : Apic
  ev : Events
  /-- Messages the APIC has sent (log 19). -/
  out : List ApicOut
  /-- The caches may hold valid lines (`spec/24_caches_mtrr.md` R388). -/
  lines : Bool
  /-- Old values of write-back bytes overwritten since the last write-back (`spec/24_caches_mtrr.md` R392; log 14). -/
  lossy : List Host.Cell
  /-- Old values of bytes overwritten since the last serializing instruction (`spec/23_ordering.md` R352). -/
  stale : List StaleByte
  /-- CR0.PG has changed and no jump or serializing instruction has followed: instructions may still be fetched with the
  old PG (`spec/40_system_instructions.md` R497, `spec/70_reset_and_hazards.md` R1330; log 52). -/
  oldPg : Bool
  /-- Which breakpoints the current instruction's accesses have matched (`spec/65_debug_and_perfmon.md` R1233). -/
  hits : BitVec 4
  /-- MODEL field (log 8): how many free values have been used. -/
  freeCtr : Nat
  deriving DecidableEq, Repr

/-- The state of the machine. -/
structure State where
  cpu : Cpu
  bus : Bus
  deriving DecidableEq, Repr

/-- The stops that are faults of the model, not exceptions of the architecture. -/
inductive Fault where
  /-- A physical address of 2^36 or more. Raised by `physical` in Machine/Paging.lean; no translation gives one
  (`spec/20_memory.md` R132). Safe. -/
  | outsideAddressSpace
  deriving DecidableEq, Repr

/-- The stops where the spec does not say what the machine does. Each is safe: nothing is claimed beyond it. -/
inductive Refusal where
  /-- The instruction has no meaning in the model. Raised by `exec`. -/
  | notModelled (mnemonic : String)
  /-- The bytes at the program counter are no row of the opcode table (R462, D128). Raised by `step`. -/
  | noTableRow
  /-- Opcode D6H or F1H (R462, U14). Raised by `step`. -/
  | reservedOpcode
  /-- CR0.CD = CR0.NW = 1 with lines in the caches: no coherency (`spec/24_caches_mtrr.md` R385, D70). Raised by
  accesses. -/
  | cacheIncoherent
  /-- An APIC register access that is not an aligned doubleword (U40). Raised by memory accesses. -/
  | apicAccessWidth
  /-- DFR model field neither 0 nor 15 (U41). Raised when a logical destination is compared. -/
  | apicDestinationModel
  /-- An invalid ICR combination or a reserved delivery mode (U42). Raised by memory writes to the APIC. -/
  | apicIcr
  /-- A memory-type range register with a reserved type or an undefined overlap (U60, U61). Raised by accesses. -/
  | memoryType
  /-- A large page over ranges of different memory types (U63). Raised by accesses. -/
  | memoryTypeLargePage
  /-- An image that RSM must not find modified, or a control field with an undescribed value (U71). Raised by RSM. -/
  | smmMapModified
  /-- An exception or a software interrupt in SMM before the handler has loaded an interrupt table (U72). Raised by
  delivery. -/
  | smmNoTable
  /-- A breakpoint set up with an undefined length or type (U101). Raised by accesses and instruction starts. -/
  | breakpointSetup
  /-- A page boundary inside the part of a TSS that a task switch uses, with a second page that is not present or not
  contiguous (D30). Raised by task switches. -/
  | tssPageBoundary
  deriving DecidableEq, Repr

/-- A real-mode segment register with the given selector and base (`spec/10_state.md` R53). DPL, AVL and G are the model's
choice (log 34). -/
def SegReg.realMode (sel : W16) (base : W32) : SegReg :=
  { sel, base, limit := 0xFFFF#32, typ := 3#4, s := true, dpl := 0#2, p := true, avl := false, db := false,
    g := false, unusable := false }

/-- LDTR or TR after reset (`spec/70_reset_and_hazards.md` R1305); the type, DPL, AVL, G and bit 22 are the model's choice
(log 3). -/
def SegReg.systemReset (typ : BitVec 4) : SegReg :=
  { sel := 0#16, base := 0#32, limit := 0xFFFF#32, typ, s := false, dpl := 0#2, p := true, avl := false,
    db := false, g := false, unusable := false }

/-- LDTR after reset: its selector is null, so the LDT is unusable (`spec/10_state.md` R61). -/
def SegReg.ldtrReset : SegReg := { SegReg.systemReset 2#4 with unusable := true }

/-- EFLAGS = 00000002H (`spec/70_reset_and_hazards.md` R1305). -/
def Eflags.reset : Eflags :=
  { cf := false, pf := false, af := false, zf := false, sf := false, tf := false, if_ := false, df := false,
    of := false, iopl := 0#2, nt := false, rf := false, vm := false, ac := false, vif := false, vip := false,
    id := false }

/-- The general registers after reset: EDX holds the signature, EAX the BIST result 0 (R1303, R1306). -/
def Gprs.reset : Gprs :=
  { eax := 0#32, ecx := 0#32, edx := Config.cpuidSignature, ebx := 0#32, esp := 0#32, ebp := 0#32,
    esi := 0#32, edi := 0#32 }

/-- The segment registers after reset (`spec/10_state.md` R53). -/
def SegRegs.reset : SegRegs :=
  { es := .realMode 0#16 0#32, cs := .realMode 0xF000#16 0xFFFF0000#32, ss := .realMode 0#16 0#32,
    ds := .realMode 0#16 0#32, fs := .realMode 0#16 0#32, gs := .realMode 0#16 0#32 }

/-- The control registers after reset (`spec/10_state.md` R67, R73 to R75); the PDPT entries: log 3. -/
def Ctl.reset : Ctl :=
  { cr0 := 0x60000010#32, cr2 := 0#32, cr3 := 0#32, cr4 := 0#32, pdpte0 := 0#64, pdpte1 := 0#64,
    pdpte2 := 0#64, pdpte3 := 0#64 }

/-- The debug registers after reset (`spec/65_debug_and_perfmon.md` R1221). -/
def Dbg.reset : Dbg :=
  { dr0 := 0#32, dr1 := 0#32, dr2 := 0#32, dr3 := 0#32, dr6 := 0xFFFF0FF0#32, dr7 := 0x00000400#32 }

/-- The x87 state after reset (`spec/70_reset_and_hazards.md` R1305); the opcode register: log 3. -/
def Fpu.reset : Fpu :=
  { r0 := 0#80, r1 := 0#80, r2 := 0#80, r3 := 0#80, r4 := 0#80, r5 := 0#80, r6 := 0#80, r7 := 0#80,
    cw := 0x0040#16, sw := 0#16, tw := 0x5555#16, ipSel := 0#16, ipOff := 0#32, dpSel := 0#16, dpOff := 0#32,
    opcode := 0#11 }

/-- The SSE state after reset (`spec/70_reset_and_hazards.md` R1305). -/
def Sse.reset : Sse :=
  { xmm0 := 0#128, xmm1 := 0#128, xmm2 := 0#128, xmm3 := 0#128, xmm4 := 0#128, xmm5 := 0#128, xmm6 := 0#128,
    xmm7 := 0#128, mxcsr := 0x00001F80#32 }

/-- The MSRs after reset; those the spec leaves undefined are 0 (log 3). -/
def Msrs.reset : Msrs :=
  { tsc := 0#64, bblCrOvrd := 0#64, apicBase := 0xFEE00900#64, mcuSignature := 0#64, mcuRevision := 0#32,
    perfCtr0 := 0#40, perfCtr1 := 0#40, perfEvtSel0 := 0#32, perfEvtSel1 := 0#32, mtrrDefType := 0#64,
    mtrrFix := Vector.replicate 11 0#64, mtrrPhysBase := Vector.replicate 8 0#64,
    mtrrPhysMask := Vector.replicate 8 0#64, pat := 0x0007040600070406#64, mcgStatus := 0#64,
    mcCtl := Vector.replicate 5 0#64, mcStatus := Vector.replicate 5 0#64, mcAddr := Vector.replicate 5 0#64,
    debugCtl := 0#64, lastBranchFrom := 0#32, lastBranchTo := 0#32, lastExcFrom := 0#32, lastExcTo := 0#32 }

/-- SMM state after reset (`spec/63_smm.md` R1120). -/
def Smm.reset : Smm :=
  { smbase := 0x30000#32, inSmm := false, smiBlocked := false, nmiBlockedBySmm := false, saved := none,
    ioRestartEip := none, lidtDone := false }

/-- Hidden state after reset, on the bootstrap processor (`spec/70_reset_and_hazards.md` R1305). -/
def Hidden.reset : Hidden :=
  { run := .running, nmiBlocked := false, ssShadow := false, stiShadow := false, pendingDb := none,
    haltEip := 0#32, gate16 := [] }

/-- No notes. -/
def Notes.clear : Notes :=
  { start := 0#32, branched := false, keepRf := false, faulted := false, newShadow := false, ioEip := none }

/-- The processor after a hardware reset (`spec/70_reset_and_hazards.md` R1305). -/
def Cpu.reset : Cpu :=
  { gpr := .reset, eip := 0x0000FFF0#32, fl := .reset, seg := .reset, cpl := 0#2,
    gdtr := { base := 0#32, limit := 0xFFFF#16 }, idtr := { base := 0#32, limit := 0xFFFF#16 },
    ldtr := .ldtrReset, tr := .systemReset 11#4, ctl := .reset, dbg := .reset, fpu := .reset, sse := .reset,
    msr := .reset, smm := .reset, hid := .reset, nextEip := 0#32, notes := .clear }

/-- The local APIC after power-up reset (`spec/62_apic_and_mp.md` R1056). -/
def Apic.reset : Apic :=
  { id := Config.apicId, arb := Config.apicId, tpr := 0#8, ldr := 0#8, dfr := 15#4, svr := 0x0FF#10,
    isr := 0#256, tmr := 0#256, irr := 0#256, esr := 0#8, esrNew := 0#8, icr := 0#64,
    lvtTimer := 0x00010000#32, lvtPerf := 0x00010000#32, lvtLint0 := 0x00010000#32,
    lvtLint1 := 0x00010000#32, lvtError := 0x00010000#32, initCount := 0#32, curCount := 0#32, divConf := 0#4,
    divPhase := 0#8, intrUp := false }

/-- No event pending, every pin deasserted. -/
def Events.quiet : Events :=
  { reset := false, init := false, binit := false, mc := none, smi := false, nmi := false, intr := false,
    inta := 0#8, lint1 := false, lint0Last := false, lint1Last := false, flush := false, stpclk := false,
    a20m := false, ignne := false, apicIn := [], selfIn := [], extMsg := false, sipi := none, flushEnd := false }

/-- The bus after reset: memory lists nothing, and all of the address space is memory (log 2). -/
def Bus.reset : Bus :=
  { mem := [], map := [], io := [], tlb := [], apic := .reset, ev := .quiet, out := [], lines := false, lossy := [],
    stale := [], oldPg := false, hits := 0#4, freeCtr := 0 }

/-- The machine right after a hardware reset (`spec/70_reset_and_hazards.md` R1304, R1305). -/
def State.reset : State := { cpu := .reset, bus := .reset }

end Sys2Proof.Machine
end

