-- ==== Sys2Proof/Machine/Monad.lean ====
section
/-!
DEFINITION. How a meaning runs: a computation over the state that ends in a value or a stop. A stop carries an
exception of the architecture (`spec/00_scope.md` R13, R14), a fault or a refusal.
-/
namespace Sys2Proof.Machine

/-- An exception that an instruction raises (`spec/60_exceptions.md` R895). -/
structure Exc where
  /-- The vector. -/
  vec : Byte
  /-- The error code, for the vectors that push one. -/
  code : Option W32
  /-- The value CR2 takes, for #PF. -/
  cr2 : Option W32
  /-- The bits DR6 takes, for #DB. -/
  dr6 : W32
  /-- The effects so far are kept: an exception in the context of a new task (`spec/43_task_management.md` R700). -/
  commit : Bool
  deriving DecidableEq, Repr

/-- Why a computation stops. -/
inductive Stop where
  | exc (e : Exc)
  /-- The instruction is not executed yet: execution stops before it (`spec/44_fpu_mmx_sse_system.md` R745). -/
  | wait
  | fault (f : Fault)
  | refuse (r : Refusal)
  deriving DecidableEq, Repr

/-- A computation over the whole state. -/
abbrev M := EStateM Stop State

/-- A computation that reads the registers and may change memory and devices, but no register. -/
abbrev B := ReaderT Cpu (EStateM Stop Bus)

/-- An access made by an instruction. -/
def onBus {α : Type} (x : B α) : M α := fun s =>
  match x s.cpu s.bus with
  | .ok a b => .ok a { s with bus := b }
  | .error e b => .error e { s with bus := b }

/-- The registers. -/
def getCpu : M Cpu := fun s => .ok s.cpu s

/-- Change the registers. -/
def modCpu (f : Cpu → Cpu) : M Unit := fun s => .ok () { s with cpu := f s.cpu }

/-- Change memory and devices without reading the registers. -/
def modBus (f : Bus → Bus) : B Unit := fun _ b => .ok () (f b)

/-- Memory and devices. -/
def getBus : B Bus := fun _ b => .ok b b

/-- The registers, inside an access. -/
def regs : B Cpu := fun c b => .ok c b

/-- An exception without an error code. -/
def Exc.plain (vec : Byte) : Exc := { vec, code := none, cr2 := none, dr6 := 0#32, commit := false }

/-- An exception with an error code. -/
def Exc.coded (vec : Byte) (code : W32) : Exc := { vec, code := some code, cr2 := none, dr6 := 0#32, commit := false }

/-- #DE, divide error. -/
def Exc.de : Exc := .plain 0#8
/-- #BR, BOUND range exceeded. -/
def Exc.br : Exc := .plain 5#8
/-- #UD, invalid opcode. -/
def Exc.ud : Exc := .plain 6#8
/-- #NM, device not available. -/
def Exc.nm : Exc := .plain 7#8
/-- #TS, invalid TSS. -/
def Exc.ts (code : W32) : Exc := .coded 10#8 code
/-- #NP, segment not present. -/
def Exc.np (code : W32) : Exc := .coded 11#8 code
/-- #SS, stack fault. -/
def Exc.ss (code : W32) : Exc := .coded 12#8 code
/-- #GP, general protection. -/
def Exc.gp (code : W32) : Exc := .coded 13#8 code
/-- #PF, page fault. -/
def Exc.pf (code cr2 : W32) : Exc := { Exc.coded 14#8 code with cr2 := some cr2 }
/-- #MF, x87 error. -/
def Exc.mf : Exc := .plain 16#8
/-- #AC, alignment check. -/
def Exc.ac : Exc := .coded 17#8 0#32
/-- #DB as a fault, with the bits of DR6 it reports. -/
def Exc.db (dr6 : W32) : Exc := { Exc.plain 1#8 with dr6 := dr6 }

/-- Raise an exception in an instruction. -/
def raise {α : Type} (e : Exc) : M α := throw (.exc e)

/-- Raise an exception in an access. -/
def raiseB {α : Type} (e : Exc) : B α := throw (.exc e)

/-- Refuse, in an access. -/
def refuseB {α : Type} (r : Refusal) : B α := throw (.refuse r)

/-- The next free value (log 8). -/
def free : B W32 := fun _ b => .ok (Config.freeWord b.freeCtr) { b with freeCtr := b.freeCtr + 1 }

/-- A free bit. -/
def freeBit : B Bool := do return (← free).getLsbD 0

/-- One of `n` choices, freely; `n` is not 0. -/
def freeChoice (n : Nat) : B Nat := do return (← free).toNat % n

/-- A field of a control word. -/
abbrev bit (v : W32) (n : Nat) : Bool := v.getLsbD n

/-- Protected mode or virtual-8086 mode (`spec/00_scope.md` R5). -/
def Cpu.pe (c : Cpu) : Bool := bit c.ctl.cr0 0
/-- Paging is enabled (`spec/21_paging.md` R200): PG has no effect if PE is not set (`spec/10_state.md` R70). -/
def Cpu.pg (c : Cpu) : Bool := bit c.ctl.cr0 31 && c.pe
/-- Protected mode and not virtual-8086 mode. -/
def Cpu.prot (c : Cpu) : Bool := c.pe && !c.fl.vm
/-- Virtual-8086 mode. -/
def Cpu.v86 (c : Cpu) : Bool := c.pe && c.fl.vm
/-- The default size D of the code segment (`spec/30_encoding.md` R457). -/
def Cpu.d (c : Cpu) : Bool := !c.v86 && c.seg.cs.db

end Sys2Proof.Machine
end

