-- ==== Sys2Proof/Machine/Apic.lean ====
section
/-!
DEFINITION. The local APIC (`spec/62_apic_and_mp.md`): registers, acceptance, priority, sending, the timer.
Messages are delivered atomically at the ICR write (D53; log 17).
-/
namespace Sys2Proof.Machine.Apic

/-- The APIC is enabled by APIC_BASE_MSR.E (R1021). -/
def enabled (c : Cpu) : Bool := c.msr.apicBase.getLsbD 11

/-- The page of the APIC registers (R1021). -/
def page (c : Cpu) : Nat := (c.msr.apicBase.extractLsb' 12 24).toNat

/-- Software enabled (R1048). -/
def swEnabled (a : Apic) : Bool := a.svr.getLsbD 8

/-- Bit v of a vector register. -/
def hasVec (r : BitVec 256) (v : Nat) : Bool := r.getLsbD v

/-- Set bit v. -/
def setVec (r : BitVec 256) (v : Nat) : BitVec 256 := r ||| (1#256 <<< v)

/-- Clear bit v. -/
def clearVec (r : BitVec 256) (v : Nat) : BitVec 256 := r &&& ~~~(1#256 <<< v)

/-- The highest of the vectors n-1 to 0 that is set, or 0. -/
def highestBelow (r : BitVec 256) : Nat → Nat
  | 0 => 0
  | n + 1 => if r.getLsbD n then n else highestBelow r n

/-- The highest vector set, or 0 if none (R1051). -/
def highest (r : BitVec 256) : Nat := if r = 0#256 then 0 else highestBelow r 256

/-- Processor priority (R1051). -/
def ppr (a : Apic) : Byte :=
  let isrv := BitVec.ofNat 8 (highest a.isr)
  if a.tpr.extractLsb' 4 4 ≥ isrv.extractLsb' 4 4 then a.tpr else isrv.extractLsb' 4 4 ++ 0#4

/-- Arbitration priority (R1052), "AND" as printed. -/
def apr (a : Apic) : Byte :=
  let isrv := (BitVec.ofNat 8 (highest a.isr)).extractLsb' 4 4
  let irrv := (BitVec.ofNat 8 (highest a.irr)).extractLsb' 4 4
  let tprv := a.tpr.extractLsb' 4 4
  if tprv ≥ irrv ∧ tprv > isrv then a.tpr
  else (if tprv &&& isrv ≥ irrv then tprv &&& isrv else irrv) ++ 0#4

/-- The mask bit of an LVT entry. -/
def masked (lvt : W32) : Bool := bit lvt 16

/-- Record a request for vector v of 16 or more (R1046). -/
def request (a : Apic) (v : Byte) (level : Bool) : Apic :=
  { a with
    irr := setVec a.irr v.toNat
    tmr := if level then setVec a.tmr v.toNat else clearVec a.tmr v.toNat }

/-- Log errors, and post the error interrupt if its LVT entry is not masked (R1060). -/
def error (a : Apic) (bits : Byte) : Apic :=
  let a := { a with esrNew := a.esrNew ||| bits }
  let v := a.lvtError.extractLsb' 0 8
  if masked a.lvtError then a
  else if v < 16#8 then { a with esrNew := a.esrNew ||| 0x40#8 }
  else request a v false

/-- Accept a Fixed interrupt from a local source or from itself; a vector below 16 is an error (R1025, R1060). -/
def accept (a : Apic) (v : Byte) (level : Bool) : Apic :=
  if v < 16#8 then error a 0x40#8 else request a v level

/-- The APIC is a destination of the message (R1030 to R1032). -/
def isDestination (a : Apic) (logical : Bool) (dest : Byte) : B Bool :=
  if logical then
    if a.dfr = 15#4 then return (dest &&& a.ldr) ≠ 0#8
    else if a.dfr = 0#4 then
      return dest = 0xFF#8 ∨ (dest.extractLsb' 4 4 = a.ldr.extractLsb' 4 4
        ∧ (dest.extractLsb' 0 4 &&& a.ldr.extractLsb' 0 4) ≠ 0#4)
    else refuseB .apicDestinationModel
  else return dest.extractLsb' 0 4 = a.id ∨ dest.extractLsb' 0 4 = 15#4

/-- A message that is for this APIC and needs no slot: NMI, SMI, INIT, ExtINT, Start-up (R1041, R1047). A software
disabled APIC does not respond to ExtINT (R1058). -/
def special (m : ApicMsg) (b : Bus) : Bus :=
  if m.mode = 2#3 then { b with ev.smi := true }
  else if m.mode = 4#3 then { b with ev.nmi := true }
  else if m.mode = 5#3 then { b with ev.init := true }
  else if m.mode = 6#3 then { b with ev.sipi := some m.vector }
  else if m.mode = 7#3 ∧ swEnabled b.apic then { b with ev.extMsg := true }
  else b

/-- A message with a vector: Fixed (0) or Lowest Priority (1). -/
def vectored (m : ApicMsg) : Bool := m.mode = 0#3 ∨ m.mode = 1#3

/-- INIT level de-assert (R1041). -/
def isDeassert (m : ApicMsg) : Bool := m.mode = 5#3 ∧ m.trigger ∧ !m.level

/-- This processor is the focus of a lowest-priority interrupt: it services it, or has a request for it, and focus
checking is enabled (R1034, R1048). -/
def isFocus (a : Apic) (m : ApicMsg) : Bool :=
  m.mode = 1#3 && !a.svr.getLsbD 9 && (hasVec a.irr m.vector.toNat || hasVec a.isr m.vector.toNat)

/-- Accept a vectored message for this APIC; false if there is no slot for it (R1047, D51). The focus processor
accepts the interrupt in any case. -/
def acceptMsg (m : ApicMsg) : B Bool := do
  let a := (← getBus).apic
  if m.vector < 16#8 then
    modBus fun b => { b with apic := error b.apic 0x40#8 }
    return true
  if hasVec a.irr m.vector.toNat && !isFocus a m then return false
  modBus fun b => { b with apic := request b.apic m.vector (m.trigger && m.level) }
  return true

/-- Take a bus message (R1047, R1058). Answers false if it must be retried: no slot (D51). -/
def receive (m : ApicMsg) : B Bool := do
  let a := (← getBus).apic
  if isDeassert m then
    modBus fun b => { b with apic.arb := b.apic.id }
    return true
  if !(← isDestination a m.logical m.dest) then return true
  if vectored m then
    if swEnabled a then acceptMsg m else return true
  else
    modBus (special m)
    return true

/-- Is the ICR combination one of the invalid rows of Table 7-2, or a reserved delivery mode (R1040, R1042)? INIT level
de-assert to all including self is not: it is the form that R1041 tells software to use (log 17). -/
def icrInvalid (m : ApicMsg) (sh : BitVec 2) : Bool :=
  m.mode = 3#3 ∨ m.mode = 7#3
    ∨ (sh = 1#2 ∧ m.mode ≠ 0#3)
    ∨ (sh = 2#2 ∧ m.mode ≠ 0#3 ∧ !isDeassert m)
    ∨ (m.trigger ∧ (m.mode = 2#3 ∨ m.mode = 6#3))

/-- A self-interrupt: an illegal vector is a receive error (R1060), and one that finds no slot is retried (D51). -/
def selfInterrupt (v : Byte) : B Unit :=
  modBus fun b =>
    if v < 16#8 then { b with apic := error b.apic 0x40#8 }
    else if hasVec b.apic.irr v.toNat then { b with ev.selfIn := b.ev.selfIn ++ [v] }
    else { b with apic := request b.apic v false }

/-- Send what the ICR says (R1040 to R1043). IPIs have edge meaning, except INIT level de-assert. -/
def send : B Unit := do
  let a := (← getBus).apic
  let lo := a.icr.extractLsb' 0 32
  let mode := lo.extractLsb' 8 3
  let sh := lo.extractLsb' 18 2
  let m : ApicMsg :=
    { vector := lo.extractLsb' 0 8, mode, logical := bit lo 11 && sh = 0#2, level := bit lo 14,
      trigger := bit lo 15, dest := if sh = 0#2 then a.icr.extractLsb' 56 8 else 0xFF#8 }
  if icrInvalid m sh then refuseB .apicIcr
  if isDeassert m then
    modBus fun b => { b with apic.arb := b.apic.id, out := b.out ++ [.ipi m] }
  else if m.trigger && !m.level then return ()
  else if sh = 1#2 then selfInterrupt m.vector
  else if vectored m && m.vector < 16#8 then
    modBus fun b => { b with apic := error b.apic 0x20#8 }
  else
    modBus fun b => { b with out := b.out ++ [.ipi m] }
    if sh ≠ 3#2 then
      let own := { m with trigger := false }
      if !(← receive own) then modBus fun b => { b with ev.apicIn := b.ev.apicIn ++ [own] }

/-- End of interrupt (R1046, R1054): clear the highest ISR bit; a level-triggered one is announced. R1036 says only that an
EOI resets Remote IRR: that it does so in the entries whose vector is that of the level-triggered interrupt it ends is the
model's choice (log 62). -/
def eoi (b : Bus) : Bus :=
  if b.apic.isr = 0#256 then b
  else
    let v := highest b.apic.isr
    let level := hasVec b.apic.tmr v
    let clr (lvt : W32) : W32 :=
      if level && lvt.extractLsb' 0 8 = BitVec.ofNat 8 v then lvt &&& ~~~0x4000#32 else lvt
    { b with
      apic.isr := clearVec b.apic.isr v
      apic.lvtLint0 := clr b.apic.lvtLint0
      apic.lvtLint1 := clr b.apic.lvtLint1
      out := if level then b.out ++ [.eoi (BitVec.ofNat 8 v)] else b.out }

/-- The 32 bits of a 256-bit register at index i (R1024). -/
def part (r : BitVec 256) (i : Nat) : W32 := r.extractLsb' (32 * i) 32

/-- The value of the register at an offset that is a multiple of 16, if there is one that can be read (R1024). -/
def regValue (a : Apic) (off : Nat) : Option W32 :=
  if off = 0x020 then some ((a.id.setWidth 32) <<< 24)
  else if off = 0x030 then some Config.apicVersion
  else if off = 0x080 then some (a.tpr.setWidth 32)
  else if off = 0x090 then some ((apr a).setWidth 32)
  else if off = 0x0A0 then some ((ppr a).setWidth 32)
  else if off = 0x0D0 then some ((a.ldr.setWidth 32) <<< 24)
  else if off = 0x0E0 then some (a.dfr ++ 0xFFFFFFF#28)
  else if off = 0x0F0 then some (a.svr.setWidth 32)
  else if 0x100 ≤ off ∧ off < 0x180 then some (part a.isr ((off - 0x100) / 16))
  else if 0x180 ≤ off ∧ off < 0x200 then some (part a.tmr ((off - 0x180) / 16))
  else if 0x200 ≤ off ∧ off < 0x280 then some (part a.irr ((off - 0x200) / 16))
  else if off = 0x280 then some (a.esr.setWidth 32)
  else if off = 0x300 then some (a.icr.extractLsb' 0 32)
  else if off = 0x310 then some (a.icr.extractLsb' 32 32)
  else if off = 0x320 then some a.lvtTimer
  else if off = 0x340 then some a.lvtPerf
  else if off = 0x350 then some a.lvtLint0
  else if off = 0x360 then some a.lvtLint1
  else if off = 0x370 then some a.lvtError
  else if off = 0x380 then some a.initCount
  else if off = 0x390 then some a.curCount
  else if off = 0x3E0 then some (a.divConf.setWidth 32)
  else none

/-- The reserved bits of a LINT entry; Remote IRR of an edge-triggered one is undefined (R1036). -/
def lintReserved (lvt : W32) : W32 := if bit lvt 15 then 0xFFFE0800#32 else 0xFFFE4800#32

/-- The reserved bits of a register, which read as any value (`spec/00_scope.md` R17, U1; log 17): those for which the
register's rule gives no value. -/
def reservedBits (a : Apic) (off : Nat) : W32 :=
  if off = 0x020 then 0xF0FFFFFF#32
  else if off = 0x080 ∨ off = 0x090 ∨ off = 0x0A0 then 0xFFFFFF00#32
  else if off = 0x0D0 then 0x00FFFFFF#32
  else if off = 0x0F0 then 0xFFFFFC00#32
  else if off = 0x100 ∨ off = 0x180 ∨ off = 0x200 then 0x0000FFFF#32
  else if off = 0x280 then 0xFFFFFF10#32
  else if off = 0x300 then 0xFFF32000#32
  else if off = 0x310 then 0x00FFFFFF#32
  else if off = 0x320 then 0xFFFCEF00#32
  else if off = 0x340 then 0xFFFEE800#32
  else if off = 0x350 then lintReserved a.lvtLint0
  else if off = 0x360 then lintReserved a.lvtLint1
  else if off = 0x370 then 0xFFFEEF00#32
  else if off = 0x3E0 then 0xFFFFFFF0#32
  else 0#32

/-- Read the register at an offset that is a multiple of 16 (R1024); an unimplemented one is an error (R1060)
and its value, like that of the write-only EOI, is free (log 17). -/
def readReg (off : Nat) : B W32 := do
  let a := (← getBus).apic
  match regValue a off with
  | some v =>
    if reservedBits a off = 0#32 then return v
    else return (v &&& ~~~(reservedBits a off)) ||| ((← free) &&& reservedBits a off)
  | none =>
    if off ≠ 0x0B0 then modBus fun b => { b with apic := error b.apic 0x80#8 }
    free

/-- A new LVT value: writable bits by mask, the others kept, and the mask bit held at 1 while the APIC is software
disabled (R1036, R1038). -/
def lvtWrite (a : Apic) (old v wmask : W32) : W32 :=
  let n := (old &&& ~~~wmask) ||| (v &&& wmask)
  if swEnabled a then n else n ||| 0x10000#32

/-- Set the mask bits of all LVT entries (R1038). -/
def maskAll (a : Apic) : Apic :=
  { a with
    lvtTimer := a.lvtTimer ||| 0x10000#32, lvtPerf := a.lvtPerf ||| 0x10000#32,
    lvtLint0 := a.lvtLint0 ||| 0x10000#32, lvtLint1 := a.lvtLint1 ||| 0x10000#32,
    lvtError := a.lvtError ||| 0x10000#32 }

/-- Registers that a write leaves unchanged: version, APR, PPR, ISR, TMR, IRR, current count (R1024). -/
def readOnly (off : Nat) : Bool :=
  off = 0x030 ∨ off = 0x090 ∨ off = 0x0A0 ∨ (0x100 ≤ off ∧ off < 0x280) ∨ off = 0x390

/-- Write the register at an offset that is a multiple of 16 (R1024). -/
def writeReg (off : Nat) (v : W32) : B Unit := do
  let a := (← getBus).apic
  let put (f : Apic → Apic) : B Unit := modBus fun b => { b with apic := f b.apic }
  if off = 0x020 then put fun a => { a with id := v.extractLsb' 24 4 }
  else if off = 0x080 then put fun a => { a with tpr := v.extractLsb' 0 8 }
  else if off = 0x0B0 then modBus eoi
  else if off = 0x0D0 then put fun a => { a with ldr := v.extractLsb' 24 8 }
  else if off = 0x0E0 then put fun a => { a with dfr := v.extractLsb' 28 4 }
  else if off = 0x0F0 then
    let svr := v.extractLsb' 4 6 ++ 15#4
    put fun a => if bit v 8 then { a with svr } else maskAll { a with svr }
  else if off = 0x280 then put fun a => { a with esr := a.esrNew, esrNew := 0#8 }
  else if off = 0x300 then
    put fun a => { a with icr := a.icr.extractLsb' 32 32 ++ (v &&& 0x000CCFFF#32) }
    send
  else if off = 0x310 then put fun a => { a with icr := (v &&& 0xFF000000#32) ++ a.icr.extractLsb' 0 32 }
  else if off = 0x320 then put fun _ => { a with lvtTimer := lvtWrite a a.lvtTimer v 0x000300FF#32 }
  else if off = 0x340 then put fun _ => { a with lvtPerf := lvtWrite a a.lvtPerf v 0x000107FF#32 }
  else if off = 0x350 then put fun _ => { a with lvtLint0 := lvtWrite a a.lvtLint0 v 0x0001A7FF#32 }
  else if off = 0x360 then put fun _ => { a with lvtLint1 := lvtWrite a a.lvtLint1 v 0x0001A7FF#32 }
  else if off = 0x370 then put fun _ => { a with lvtError := lvtWrite a a.lvtError v 0x000100FF#32 }
  else if off = 0x380 then put fun a => { a with initCount := v, curCount := v, divPhase := 0#8 }
  else if off = 0x3E0 then put fun a => { a with divConf := v.extractLsb' 0 4 &&& 0xB#4 }
  else if readOnly off then return ()
  else put fun a => error a 0x80#8

/-- An aligned doubleword (R1023); other accesses are refused (U40). -/
def aligned (off n : Nat) : Bool := n = 4 ∧ off % 16 = 0

/-- Read n bytes at an offset of the APIC page. -/
def load (off n : Nat) : B W32 := if aligned off n then readReg off else refuseB .apicAccessWidth

/-- Write n bytes at an offset of the APIC page. -/
def store (off n : Nat) (v : W32) : B Unit := if aligned off n then writeReg off v else refuseB .apicAccessWidth

/-- The timer's divide value (R1061). -/
def divide (a : Apic) : Nat :=
  let k := (a.divConf.extractLsb' 3 1 ++ a.divConf.extractLsb' 0 2).toNat
  if k = 7 then 1 else 2 ^ (k + 1)

/-- The timer's interrupt, if its LVT entry is not masked. -/
def timerFire (a : Apic) : Apic := if masked a.lvtTimer then a else accept a (a.lvtTimer.extractLsb' 0 8) false

/-- One bus clock of the timer (R1061). -/
def tick (a : Apic) : Apic :=
  if a.curCount = 0#32 then a
  else if a.divPhase.toNat + 1 < divide a then { a with divPhase := a.divPhase + 1#8 }
  else if a.curCount = 1#32 then
    let a := { a with divPhase := 0#8, curCount := if bit a.lvtTimer 17 then a.initCount else 0#32 }
    timerFire a
  else { a with divPhase := 0#8, curCount := a.curCount - 1#32 }

/-- An overflow of a performance counter: Fixed or NMI by the LVT entry (`spec/65_debug_and_perfmon.md` R1275). -/
def perfOverflow (b : Bus) : Bus :=
  let lvt := b.apic.lvtPerf
  if masked lvt then b
  else if lvt.extractLsb' 8 3 = 4#3 then { b with ev.nmi := true }
  else if lvt.extractLsb' 8 3 = 0#3 then { b with apic := accept b.apic (lvt.extractLsb' 0 8) false }
  else b

/-- Is a Fixed interrupt from a LINT pin level-triggered (R1036, R1037)? -/
def levelTriggered (lvt : W32) : Bool := bit lvt 15 || !Config.usesIoApic

/-- One LINT pin (R1036, R1037): NMI and edge-triggered Fixed on the rising edge, level-triggered Fixed while
asserted; ExtINT is looked at when an interrupt is taken. Answers the new LVT entry too: Remote IRR is set when a
level-triggered interrupt is accepted. -/
def lint (lvt : W32) (now last : Bool) (b : Bus) : Bus × W32 :=
  let mode := lvt.extractLsb' 8 3
  let edge := now && !last
  if masked lvt then (b, lvt)
  else if mode = 4#3 then (if edge then { b with ev.nmi := true } else b, lvt)
  else if mode = 0#3 then
    let v := lvt.extractLsb' 0 8
    if levelTriggered lvt then
      if now && !bit lvt 14 then
        ({ b with apic := accept b.apic v true }, if v < 16#8 then lvt else lvt ||| 0x4000#32)
      else (b, lvt)
    else (if edge then { b with apic := accept b.apic v false } else b, lvt)
  else (b, lvt)

/-- The level of a pin, by the polarity bit of its LVT entry (R1036). -/
def level (lvt : W32) (pin : Bool) : Bool := pin ^^ bit lvt 13

/-- Sample LINT0 and LINT1. With the APIC disabled, LINT1 is NMI and LINT0 is INTR (R1021). -/
def samplePins (c : Cpu) (b : Bus) : Bus :=
  let p0 := b.ev.intr
  let p1 := b.ev.lint1
  if enabled c then
    let n0 := level b.apic.lvtLint0 p0
    let n1 := level b.apic.lvtLint1 p1
    let (b, l0) := lint b.apic.lvtLint0 n0 b.ev.lint0Last b
    let (b, l1) := lint b.apic.lvtLint1 n1 b.ev.lint1Last b
    { b with apic.lvtLint0 := l0, apic.lvtLint1 := l1, ev.lint0Last := n0, ev.lint1Last := n1 }
  else
    { b with ev.nmi := b.ev.nmi || (p1 && !b.ev.lint1Last), ev.lint0Last := p0, ev.lint1Last := p1 }

/-- Take the messages that have arrived; one that must be retried stays (R1047). -/
def receiveAll : List ApicMsg → B (List ApicMsg)
  | [] => return []
  | m :: t => do
    let taken ← receive m
    let rest ← receiveAll t
    return if taken then rest else m :: rest

/-- Retry the self-interrupts that found no slot. -/
def retrySelf : List Byte → B Unit
  | [] => return ()
  | v :: t => do
    selfInterrupt v
    retrySelf t

/-- The vector the APIC would dispense: the highest request above the processor priority (R1051). -/
def pendingVector (a : Apic) : Option Byte :=
  let v := BitVec.ofNat 8 (highest a.irr)
  if a.irr ≠ 0#256 ∧ v.extractLsb' 4 4 > (ppr a).extractLsb' 4 4 then some v else none

/-- `INTR` to the core: asserted when there is a vector to dispense. When the vector has become masked the signal may
still be seen asserted, so that an INTA cycle gets the spurious vector (R1049; log 17). -/
def updateIntr : B Unit := do
  let a := (← getBus).apic
  if (pendingVector a).isSome then modBus fun b => { b with apic.intrUp := true }
  else if a.intrUp then
    let still ← freeBit
    modBus fun b => { b with apic.intrUp := still }

/-- The APIC's part of an instruction boundary: pins, then messages, then the signal to the core. While APIC_BASE.E = 0 the
registers are kept and messages are held until E is set again, which R1021 leaves open: the model's choice (log 62). -/
def poll : B Unit := do
  let c ← regs
  modBus (samplePins c)
  if enabled c then
    let left ← receiveAll (← getBus).ev.apicIn
    modBus fun b => { b with ev.apicIn := left }
    let again := (← getBus).ev.selfIn
    modBus fun b => { b with ev.selfIn := [] }
    retrySelf again
    updateIntr

/-- The spurious-interrupt vector (R1048). -/
def spuriousVector (a : Apic) : Byte := a.svr.extractLsb' 0 8

/-- The INTA cycle: the highest request goes into service (R1046); if it has become masked, the spurious vector is
returned and no register of the APIC changes (R1049). -/
def dispense (a : Apic) : Byte × Apic :=
  match pendingVector a with
  | some v => (v, { a with irr := clearVec a.irr v.toNat, isr := setVec a.isr v.toNat, intrUp := false })
  | none => (spuriousVector a, { a with intrUp := false })

/-- Is a LINT pin programmed as ExtINT and asserted (R1037)? -/
def extPin (lvt : W32) (pin : Bool) : Bool := !masked lvt && lvt.extractLsb' 8 3 = 7#3 && level lvt pin

/-- An interrupt of the external controller reaches the core: INTR with the APIC disabled; with it enabled an accepted
ExtINT message, or LINT0 or LINT1 programmed as ExtINT (R1021, R1037, R1047). -/
def extInt (c : Cpu) (b : Bus) : Bool :=
  if !enabled c then b.ev.intr
  else b.ev.extMsg || extPin b.apic.lvtLint0 b.ev.intr || extPin b.apic.lvtLint1 b.ev.lint1

/-- The pin of a LINT entry after the INTA cycle that it asked for: not asserted. -/
def released (lvt : W32) (pin : Bool) : Bool := if extPin lvt pin then bit lvt 13 else pin

/-- The INTA cycle for the external controller, which has then been served: an accepted message is used up, else the pin
that asked for it is released (log 26). -/
def takeExt (c : Cpu) (b : Bus) : Bus :=
  if !enabled c then { b with ev.intr := false }
  else if b.ev.extMsg then { b with ev.extMsg := false }
  else { b with ev.intr := released b.apic.lvtLint0 b.ev.intr, ev.lint1 := released b.apic.lvtLint1 b.ev.lint1 }

/-- The APIC registers after INIT: as after reset, but the ID and the arbitration ID stay (R1057). -/
def afterInit (a : Apic) : Apic := { Apic.reset with id := a.id, arb := a.arb }

end Sys2Proof.Machine.Apic
end

