-- ==== Sys2Proof/Machine/Memory.lean ====
section
/-!
DEFINITION. Physical memory: the list of bytes, memory types (`spec/24_caches_mtrr.md`), and reads and writes of
physical bytes, which reach the APIC page, record what INVD could lose and what a fetch could still see old.
-/
namespace Sys2Proof.Machine

/-- What an address that memory does not list reads as (log 1). -/
def Memory.unlisted : Byte := 0#8

/-- The byte at an address. -/
def Memory.read : Memory → Nat → Byte
  | [], _ => Memory.unlisted
  | (k, v) :: t, a => if k = a then v else Memory.read t a

/-- Store a byte, keeping the addresses rising and listing no byte that equals `unlisted`. -/
def Memory.write : Memory → Nat → Byte → Memory
  | [], a, v => if v = Memory.unlisted then [] else [(a, v)]
  | (k, w) :: t, a, v =>
    if a < k then (if v = Memory.unlisted then (k, w) :: t else (a, v) :: (k, w) :: t)
    else if a = k then (if v = Memory.unlisted then t else (a, v) :: t)
    else (k, w) :: Memory.write t a v

/-- The canonical form from address `lo` on. -/
def Memory.wfFrom : Nat → Memory → Bool
  | _, [] => true
  | lo, (k, v) :: t => decide (lo ≤ k) && decide (v ≠ Memory.unlisted) && Memory.wfFrom (k + 1) t

/-- The canonical form: addresses strictly rising, no entry equal to what an unlisted address reads as. -/
def Memory.wf (m : Memory) : Bool := Memory.wfFrom 0 m

/-- The little-endian value of bytes (`spec/20_memory.md` R130). -/
def leNat : List Byte → Nat
  | [] => 0
  | b :: t => b.toNat + 256 * leNat t

/-- The n low bytes of a value, little-endian. -/
def leBytes : Nat → Nat → List Byte
  | 0, _ => []
  | n + 1, v => BitVec.ofNat 8 v :: leBytes n (v / 256)

/-- The bytes at physical addresses. -/
def Memory.readBytes (m : Memory) (as : List Nat) : List Byte := as.map m.read

/-- Store bytes at physical addresses, first to last. -/
def Memory.writeBytes : Memory → List (Nat × Byte) → Memory
  | m, [] => m
  | m, (a, v) :: t => Memory.writeBytes (m.write a v) t

/-- Does the region hold the address? -/
def Region.holds (r : Region) (a : Nat) : Bool := r.base ≤ a && a < r.base + r.size

/-- The region of an address, if it is not read-write memory (`spec/20_memory.md` R134). -/
def Bus.region (b : Bus) (a : Nat) : Option Region := b.map.find? (·.holds a)

/-- Does nothing reside at the address? -/
def Bus.absent (b : Bus) (a : Nat) : Bool := (b.region a).any fun r => !r.rom

/-- Is the address read-write memory? -/
def Bus.writable (b : Bus) (a : Nat) : Bool := (b.region a).isNone

/-- The byte that a read of a physical address gives: what memory holds, or any value where nothing resides (D82;
log 2). -/
def Bus.read (b : Bus) (a : Nat) : Byte := if b.absent a then Config.openByte b.freeCtr a else b.mem.read a

/-- The bytes that reads of physical addresses give. -/
def Bus.readBytes (b : Bus) (as : List Nat) : List Byte := as.map b.read

/-- Store bytes at physical addresses, first to last; only read-write memory takes them (`spec/20_memory.md` R132, D82). -/
def Bus.put (cells : List (Nat × Byte)) (b : Bus) : Bus :=
  { b with mem := b.mem.writeBytes (cells.filter fun c => b.writable c.1) }

/-- After an access, a read where nothing resides may give another value (D82). -/
def Bus.accessed (b : Bus) : Bus := if b.map.isEmpty then b else { b with freeCtr := b.freeCtr + 1 }

/-- Decode a type field; none if reserved (`spec/24_caches_mtrr.md` R386). -/
def MemType.decode (v : Byte) : Option MemType :=
  if v = 0#8 then some .uc
  else if v = 1#8 then some .wc
  else if v = 4#8 then some .wt
  else if v = 5#8 then some .wp
  else if v = 6#8 then some .wb
  else if v = 7#8 then some .ucMinus
  else none

namespace Mtrr

/-- The MTRRs are enabled (R402). -/
def enabled (c : Cpu) : Bool := c.msr.mtrrDefType.getLsbD 11

/-- The fixed-range MTRRs are enabled (R402). -/
def fixedEnabled (c : Cpu) : Bool := c.msr.mtrrDefType.getLsbD 10

/-- A type field; a reserved one (left from reset) is undefined. -/
def typeOf (v : W64) (k : Nat) : Option MemType := MemType.decode (v.extractLsb' (8 * k) 8)

/-- The fixed-range type of an address below 1 MByte (R403). -/
def fixed (c : Cpu) (pa : Nat) : Option MemType :=
  if pa < 0x80000 then typeOf (c.msr.mtrrFix.toList.getD 0 0#64) (pa / 0x10000)
  else if pa < 0xC0000 then
    typeOf (c.msr.mtrrFix.toList.getD (1 + (pa - 0x80000) / 0x20000) 0#64) ((pa % 0x20000) / 0x4000)
  else typeOf (c.msr.mtrrFix.toList.getD (3 + (pa - 0xC0000) / 0x8000) 0#64) ((pa % 0x8000) / 0x1000)

/-- Is the address in the variable range (R404)? -/
def inRange (base mask : W64) (pa : Nat) : Bool :=
  mask.getLsbD 11 && (BitVec.ofNat 24 (pa / 4096) &&& mask.extractLsb' 12 24)
    == (base.extractLsb' 12 24 &&& mask.extractLsb' 12 24)

/-- The type fields of the variable ranges that hold the address (R406). -/
def matching (c : Cpu) (pa : Nat) : List Byte :=
  ((c.msr.mtrrPhysBase.toList.zip c.msr.mtrrPhysMask.toList).filter fun (b, m) => inRange b m pa).map
    fun (b, _) => b.extractLsb' 0 8

/-- MtrrType (R406); `none` where the behaviour is undefined (U61). -/
def typ (c : Cpu) (pa : Nat) : Option MemType :=
  if !enabled c then some .uc
  else if pa < 0x100000 ∧ fixedEnabled c then fixed c pa
  else
    match matching c pa with
    | [] => typeOf c.msr.mtrrDefType 0
    | t :: ts =>
      if ts.all (· == t) then MemType.decode t
      else if (t :: ts).contains 0#8 then some .uc
      else if (t :: ts).all fun x => x == 4#8 || x == 6#8 then some .wt
      else none

end Mtrr

/-- The page-level attributes of an access with paging: the type field of the PAT that the page selects
(`spec/24_caches_mtrr.md` R431), and the large page the access lies in. -/
structure PageAttr where
  typ : Byte
  large : Option (Nat × Nat)
  deriving DecidableEq, Repr

/-- Field i of the PAT (`spec/24_caches_mtrr.md` R430). -/
def Cpu.patField (c : Cpu) (i : BitVec 3) : Byte := c.msr.pat.extractLsb' (8 * i.toNat) 8

/-- Effective type from the PAT type and the MTRR type (R432); `none` where undefined (U60). -/
def combine : MemType → MemType → Option MemType
  | .wc, _ => some .wc
  | _, .uc => some .uc
  | .uc, _ => some .uc
  | .ucMinus, .wb => some .uc
  | .ucMinus, .wt => some .uc
  | .ucMinus, .wc => some .wc
  | .wt, .wb => some .wt
  | .wt, .wt => some .wt
  | .wp, .wb => some .wp
  | .wp, .wp => some .wp
  | .wb, t => some t
  | _, _ => none

/-- The effective memory type from the MTRRs and the page's type field; `none` where undefined (U60, U61). -/
def effective (c : Cpu) (typ : Byte) (pa : Nat) : Option MemType := do combine (← MemType.decode typ) (← Mtrr.typ c pa)

/-- Do all 4-KByte parts of a large page have one effective type? The first MByte is exempt where the fixed ranges
apply (R423, U63; log 15). -/
def uniform (c : Cpu) (typ : Byte) (frame size : Nat) : Bool :=
  let parts := ((List.range (size / 4096)).map fun k => frame + 4096 * k).filter
    fun pa => !(Mtrr.fixedEnabled c && pa < 0x100000)
  match parts with
  | [] => true
  | p :: ps => ps.all fun q => effective c typ q == effective c typ p

/-- The type by which the caches treat a physical address when they are in use (R390, R432), or a refusal. It is UC with
the MTRRs disabled. -/
def lineType (c : Cpu) (attr : Option PageAttr) (pa : Nat) : Except Refusal MemType :=
  if !Mtrr.enabled c then .ok .uc
  else
    match attr with
    | none => ((Mtrr.typ c pa).map .ok).getD (.error .memoryType)
    | some p =>
      if p.large.any fun (f, n) => !uniform c p.typ f n then .error .memoryTypeLargePage
      else ((effective c p.typ pa).map .ok).getD (.error .memoryType)

/-- Caching is prevented: CR0.CD (`spec/24_caches_mtrr.md` R388). -/
def Cpu.cd (c : Cpu) : Bool := bit c.ctl.cr0 30

/-- The type of the lines that an access can hit, or a refusal. With CD = 1 the effective type is UC, whatever the ranges
and the page say (R390, R432), but lines filled before are still hit (R388). -/
def memType (c : Cpu) (attr : Option PageAttr) (pa : Nat) : Except Refusal MemType :=
  match lineType c attr pa with
  | .ok t => .ok t
  | .error r => if c.cd then .ok .uc else .error r

/-- The caches may hold lines, and are not kept coherent: CD = NW = 1 (`spec/24_caches_mtrr.md` R385, R388, D70;
log 16). -/
def incoherent (c : Cpu) (b : Bus) : Bool := c.cd && bit c.ctl.cr0 29 && b.lines

/-- A physical access: the linear address of its first byte, the physical addresses of its bytes, in order, the memory
type of each, and the entries that map its pages. -/
structure Phys where
  la : W32
  addrs : List Nat
  types : List MemType
  leaves : List EntryRef
  deriving DecidableEq, Repr

/-- An access of n bytes from a physical address on, all of one type. -/
def Phys.run (la : W32) (pa n : Nat) (typ : MemType) (leaves : List EntryRef) : Phys :=
  { la, addrs := (List.range n).map (pa + ·), types := List.replicate n typ, leaves }

/-- Two accesses, one after the other. -/
def Phys.append (p q : Phys) : Phys :=
  { p with addrs := p.addrs ++ q.addrs, types := p.types ++ q.types, leaves := p.leaves ++ q.leaves }

/-- The offset of an access that touches the APIC page (`spec/62_apic_and_mp.md` R1023). -/
def Phys.apicOffset (c : Cpu) (p : Phys) : Option Nat :=
  if Apic.enabled c && p.addrs.any (fun a => a / 4096 == Apic.page c) then some (p.addrs.headD 0 % 4096) else none

/-- Read the bytes of a physical access. -/
def readPhys (p : Phys) : B (List Byte) := do
  match p.apicOffset (← regs) with
  | some off => return leBytes p.addrs.length (← Apic.load off p.addrs.length).toNat
  | none =>
    let bytes := (← getBus).readBytes p.addrs
    modBus Bus.accessed
    return bytes

/-- A store to a line of write-back memory may be held in a cache: it can be lost by INVD until it is written back
(`spec/24_caches_mtrr.md` R388, R392). -/
def Bus.holds (c : Cpu) (b : Bus) (t : MemType) : Bool := t == .wb && (!c.cd || b.lines)

/-- The bytes of a store that INVD may lose: those to write-back memory (`spec/24_caches_mtrr.md` R392; log 14). -/
def Bus.losable (c : Cpu) (b : Bus) (as : List (Nat × MemType)) : List Host.Cell :=
  (as.filter fun x => b.holds c x.2).map fun x => (x.1, b.mem.read x.1)

/-- The old bytes of a store, which a later fetch may still see (`spec/23_ordering.md` R352; log 13). -/
def Bus.oldBytes (b : Bus) (p : Phys) : List StaleByte :=
  p.addrs.zipIdx.map fun (a, i) => { addr := a, old := b.mem.read a, la := p.la + BitVec.ofNat 32 i, jumped := false }

/-- A store keeps the old bytes that a later fetch, or INVD, may bring back. -/
def Bus.store (c : Cpu) (p : Phys) (bytes : List Byte) (b : Bus) : Bus :=
  { b.put (p.addrs.zip bytes) with
    stale := b.oldBytes p ++ b.stale
    lossy := b.losable c (p.addrs.zip p.types) ++ b.lossy }

/-- Set flags in the first byte of an entry, a locked store of the processor (SetFlags, `spec/21_paging.md` R212). -/
def Bus.mark (c : Cpu) (flags : Byte) (e : EntryRef) (b : Bus) : Bus :=
  { b.put [(e.addr, b.read e.addr ||| flags)] with lossy := b.losable c [(e.addr, e.typ)] ++ b.lossy }

/-- Set D, and the D of the cached translations, in the entries of pages that are about to be written, where it is clear
(`spec/21_paging.md` R212, D7). An entry that is not present is never written (R216). -/
def Bus.setDirty (c : Cpu) : List EntryRef → Bus → Bus
  | [], b => b
  | e :: t, b =>
    let v := b.read e.addr
    let b := if v.getLsbD 0 && !v.getLsbD 6 then b.mark c 0x40#8 e else b
    Bus.setDirty c t { b with tlb := b.tlb.map fun x => if x.leaf == e then { x with dirty := true } else x }

/-- The memory type, or the refusal. -/
def typeOrRefuse (attr : Option PageAttr) (pa : Nat) : B MemType := do
  match memType (← regs) attr pa with
  | .ok t => return t
  | .error r => refuseB r

/-- May a fetch at a linear address still see the old byte? After a jump only if the store was made through another linear
address (`spec/23_ordering.md` R352, `spec/24_caches_mtrr.md` R396). -/
def StaleByte.visible (x : StaleByte) (la : W32) : Bool := !x.jumped || x.la != la

/-- A jump: later fetches at the linear address of a store see it (`spec/23_ordering.md` R352), and are made with the
present PG (R354). -/
def Bus.jumped (b : Bus) : Bus := { b with stale := b.stale.map ({ · with jumped := true }), oldPg := false }

/-- A serializing instruction: later fetches see every store so far, and the present PG (`spec/23_ordering.md` R352,
R353). -/
def Bus.serialized (b : Bus) : Bus := { b with stale := [], oldPg := false }

/-- A physical byte that a fetch at a linear address reads: one of the bytes it may still see (`spec/23_ordering.md` R352,
U31). -/
def fetchByte (la : W32) (pa : Nat) : B Byte := do
  let b ← getBus
  let now := b.read pa
  modBus Bus.accessed
  let olds := (b.stale.filter fun x => x.addr == pa && x.old != now && x.visible la).map (·.old)
  match olds with
  | [] => return now
  | _ => return (now :: olds).getD (← freeChoice (olds.length + 1)) now

end Sys2Proof.Machine
end

