-- ==== Sys2Proof/Machine/Paging.lean ====
section
/-!
DEFINITION. Linear to physical (`spec/21_paging.md`): the walk, page protection (`spec/22_protection.md` R320),
the TLB, and reads and writes of linear addresses.
-/
namespace Sys2Proof.Machine

/-- PageProt (`spec/22_protection.md` R320, R321): may the access be made? -/
def pageProt (c : Cpu) (us rw write user : Bool) : Bool :=
  if user then us && (!write || rw) else !(write && bit c.ctl.cr0 16) || rw

/-- The error code of a page fault (`spec/21_paging.md` R205). -/
def pfCode (p write user rsvd : Bool) : W32 :=
  (if p then 1#32 else 0#32) ||| (if write then 2#32 else 0#32) ||| (if user then 4#32 else 0#32)
    ||| (if rsvd then 8#32 else 0#32)

/-- What a walk of the tables finds. -/
inductive Walk where
  /-- The translation, the entries whose A flag it sets, and the memory types of all entries it read. -/
  | ok (e : TlbEntry) (sets : List EntryRef) (types : List MemType)
  /-- A page fault; on a protection fault A of the directory entry is set, and A of the table entry may be (U16). -/
  | fault (code : W32) (sets : List EntryRef) (maybe : List EntryRef)
  | refuse (r : Refusal)
  deriving DecidableEq, Repr

namespace Walk

/-- The value of n bytes of physical memory. -/
def value (b : Bus) (a n : Nat) : Nat := leNat (b.readBytes ((List.range n).map (a + ·)))

/-- Bit k of an entry. -/
def flag (v k : Nat) : Bool := v.testBit k

/-- Bits hi:lo of an entry. -/
def field (v hi lo : Nat) : Nat := v / 2 ^ lo % 2 ^ (hi + 1 - lo)

/-- An entry of a table: its value, its place and the type of the access to it. -/
structure Entry where
  v : Nat
  ref : EntryRef
  deriving DecidableEq, Repr

/-- The entry, if its A flag has to be set (R212). -/
def Entry.unaccessed (e : Entry) : List EntryRef := if flag e.v 5 then [] else [e.ref]

/-- The translation that a leaf entry gives; D as it is in memory. `patBit` is the place of PATi
(`spec/24_caches_mtrr.md` R431). -/
def leaf (c : Cpu) (la : W32) (size : PageSize) (frame : Nat) (us rw : Bool) (e : Entry) (patBit : Nat) : TlbEntry :=
  { page := match size with
      | .k4 => la &&& 0xFFFFF000#32
      | .m2 => la &&& 0xFFE00000#32
      | .m4 => la &&& 0xFFC00000#32
    size, frame := BitVec.ofNat 36 frame, us, rw
    dirty := flag e.v 6
    global := flag e.v 8 && bit c.ctl.cr4 7
    pageType := c.patField
      (BitVec.ofBool (flag e.v patBit) ++ BitVec.ofBool (flag e.v 4) ++ BitVec.ofBool (flag e.v 3))
    leaf := e.ref }

/-- The page-table level, common to both entry sizes (R205, R219). The flags are set where they are clear, as R205, R212
and the worked vector 2 of R250 say; vector 1 of R250 leaves a clear A of the directory entry out (log 49). -/
def table (c : Cpu) (la : W32) (write user : Bool) (pde pte : Entry) (frame : Nat) : Walk :=
  let us := flag pde.v 2 && flag pte.v 2
  let rw := flag pde.v 1 && flag pte.v 1
  if !pageProt c us rw write user then
    .fault (pfCode true write user false) pde.unaccessed pte.unaccessed
  else .ok (leaf c la .k4 frame us rw pte 7) (pde.unaccessed ++ pte.unaccessed)
    [pde.ref.typ, pte.ref.typ]

/-- A large page (R205, R208, R219, R223). -/
def large (c : Cpu) (la : W32) (write user : Bool) (size : PageSize) (pde : Entry) (frame : Nat) : Walk :=
  if !pageProt c (flag pde.v 2) (flag pde.v 1) write user then
    .fault (pfCode true write user false) pde.unaccessed []
  else .ok (leaf c la size frame (flag pde.v 2) (flag pde.v 1) pde 12) pde.unaccessed [pde.ref.typ]

/-- The entry of n bytes at an address, if the access to it has a defined memory type (U60, U61). -/
def entry (c : Cpu) (b : Bus) (pcdPwt : Nat) (a n : Nat) (k : Entry → Walk) : Walk :=
  match memType c (some ⟨c.patField (BitVec.ofNat 3 pcdPwt), none⟩) a with
  | .ok t => k ⟨value b a n, ⟨a, t⟩⟩
  | .error r => .refuse r

/-- Translation with CR4.PAE = 0 (R205). Bits marked "set to 0" without a named fault are not looked at (R215;
log 39). -/
def walk32 (c : Cpu) (b : Bus) (la : W32) (write user : Bool) : Walk :=
  let pse := bit c.ctl.cr4 4
  let pdeAddr := (c.ctl.cr3.extractLsb' 12 20).toNat * 4096 + 4 * (la.extractLsb' 22 10).toNat
  entry c b (c.ctl.cr3.extractLsb' 3 2).toNat pdeAddr 4 fun pde =>
  if !flag pde.v 0 then .fault (pfCode false write user false) [] []
  else if pse && flag pde.v 7 then
    if field pde.v 21 17 ≠ 0 then .fault (pfCode true write user true) [] []
    else large c la write user .m4 pde (field pde.v 16 13 * 2 ^ 32 + field pde.v 31 22 * 2 ^ 22)
  else
    let pteAddr := field pde.v 31 12 * 4096 + 4 * (la.extractLsb' 12 10).toNat
    entry c b (field pde.v 4 3) pteAddr 4 fun pte =>
    if !flag pte.v 0 then .fault (pfCode false write user false) [] []
    else table c la write user pde pte (field pte.v 31 12 * 4096)

/-- The held page-directory-pointer entry of an address (R226). -/
def pdpte (c : Cpu) (la : W32) : W64 :=
  let i := la.extractLsb' 30 2
  if i = 0#2 then c.ctl.pdpte0 else if i = 1#2 then c.ctl.pdpte1 else if i = 2#2 then c.ctl.pdpte2
  else c.ctl.pdpte3

/-- Translation with CR4.PAE = 1 (R219); reserved bits by R215 (log 39). -/
def walkPae (c : Cpu) (b : Bus) (la : W32) (write user : Bool) : Walk :=
  let dir := (pdpte c la).toNat
  let pdeAddr := field dir 35 12 * 4096 + 8 * (la.extractLsb' 21 9).toNat
  entry c b (field dir 4 3) pdeAddr 8 fun pde =>
  if !flag pde.v 0 then .fault (pfCode false write user false) [] []
  else if field pde.v 63 36 ≠ 0 ∨ (flag pde.v 7 ∧ field pde.v 20 13 ≠ 0) then
    .fault (pfCode true write user true) [] []
  else if flag pde.v 7 then large c la write user .m2 pde (field pde.v 35 21 * 2 ^ 21)
  else
    let pteAddr := field pde.v 35 12 * 4096 + 8 * (la.extractLsb' 12 9).toNat
    entry c b (field pde.v 4 3) pteAddr 8 fun pte =>
    if !flag pte.v 0 then .fault (pfCode false write user false) [] []
    else if field pte.v 63 36 ≠ 0 then .fault (pfCode true write user true) [] []
    else table c la write user pde pte (field pte.v 35 12 * 4096)

end Walk

/-- The walk for the current paging form (R201). -/
def walk (c : Cpu) (b : Bus) (la : W32) (write user : Bool) : Walk :=
  if bit c.ctl.cr4 5 then Walk.walkPae c b la write user else Walk.walk32 c b la write user

/-- Bytes of a page size. -/
def PageSize.bytes : PageSize → Nat
  | .k4 => 0x1000
  | .m2 => 0x200000
  | .m4 => 0x400000

/-- Does the cached translation cover the address? -/
def TlbEntry.covers (e : TlbEntry) (la : W32) : Bool := la.toNat / e.size.bytes == e.page.toNat / e.size.bytes

/-- Is using the cached entry the same as walking now? -/
def TlbEntry.redundant (e : TlbEntry) : Walk → Bool
  | .ok w sets _ => { e with dirty := w.dirty } == w && sets.isEmpty
  | _ => false

/-- Set the A flags of entries (R212). -/
def Bus.setAccessedFlags (c : Cpu) : List EntryRef → Bus → Bus
  | [], b => b
  | e :: t, b => Bus.setAccessedFlags c t (b.mark c 0x20#8 e)

/-- Set the A flags of entries (R212). -/
def applySets (sets : List EntryRef) : B Unit := do
  let c ← regs
  modBus (Bus.setAccessedFlags c sets)

/-- Some of the flags, freely (U16). -/
def applyMaybe (sets : List EntryRef) : B Unit := do
  match sets with
  | [] => return ()
  | _ => if ← freeBit then applySets sets

/-- The TLB holds a translation. -/
def Bus.fill (e : TlbEntry) (b : Bus) : Bus := { b with tlb := e :: b.tlb.filter fun x => !x.redundant (.ok e [] []) }

/-- Use the result of the walk: a fault, or a translation that the TLB now holds. -/
def useWalk (la : W32) : Walk → B TlbEntry
  | .ok e sets _ => do
    applySets sets
    modBus (Bus.fill e)
    return e
  | .fault code sets may => do
    applySets sets
    applyMaybe may
    raiseB (.pf code la)
  | .refuse r => refuseB r

/-- Use a cached translation (R235, R238): its own flags are checked. -/
def useCached (la : W32) (write user : Bool) (e : TlbEntry) : B TlbEntry := do
  if !pageProt (← regs) e.us e.rw write user then raiseB (.pf (pfCode true write user false) la)
  return e

/-- Translate the page of an address: the tables as they are now, or any cached translation (R236; log 12). D is set when
the page is written (`Bus.setDirty`). -/
def translate (la : W32) (write user : Bool) : B TlbEntry := do
  let c ← regs
  let b ← getBus
  let w := walk c b la write user
  modBus Bus.accessed
  match b.tlb.filter fun e => e.covers la && !e.redundant w with
  | [] => useWalk la w
  | e :: es =>
    match (e :: es)[← freeChoice (es.length + 2)]? with
    | some x => useCached la write user x
    | none => useWalk la w

/-- May tables of these memory types be walked ahead of need? No speculative walk is made to uncacheable memory
(`spec/24_caches_mtrr.md` R386), which all of memory is while CR0.CD is set (R390, R432). -/
def walkAhead (c : Cpu) (types : List MemType) : Bool := !c.cd && types.all fun t => t != .uc && t != .ucMinus

/-- Fill the TLB with the translation of a page that no instruction asked for, if the walk succeeds and may be made ahead of
need: the walk of a supervisor read (R236, `spec/24_caches_mtrr.md` R386, R397). -/
def speculateAt (la : W32) : B Unit := do
  let c ← regs
  let w := walk c (← getBus) la false false
  modBus Bus.accessed
  match w with
  | .ok e sets types => do
    if walkAhead c types then
      applySets sets
      modBus (Bus.fill e)
  | _ => return ()

/-- Fill the TLB for n pages, freely chosen. -/
def speculateFor : Nat → B Unit
  | 0 => return ()
  | n + 1 => do
    speculateAt (← free)
    speculateFor n

/-- The translations that the processor loads ahead of need, of any number of pages: an entry may be loaded at any time
(R236, `spec/24_caches_mtrr.md` R397; log 12). -/
def speculate : B Unit := do
  if (← regs).pg then speculateFor (← free).toNat

/-- The store of a physical access: its pages become dirty, its bytes go to memory or to the APIC (R212,
`spec/62_apic_and_mp.md` R1023). -/
def storePhys (p : Phys) (bytes : List Byte) : B Unit := do
  let c ← regs
  modBus (Bus.setDirty c p.leaves)
  match p.apicOffset c with
  | some off => Apic.store off p.addrs.length (BitVec.ofNat 32 (leNat bytes))
  | none => modBus (Bus.store c p bytes)

/-- The bytes of an access that lie in its first page (R220). -/
def firstPart (la : W32) (n : Nat) : Nat := min n (4096 - la.toNat % 4096)

/-- Some bytes of an access to at most two pages, and the entries that map the pages these bytes lie in (R212). -/
def Phys.part (p : Phys) (off n : Nat) : Phys :=
  let first := firstPart p.la p.addrs.length
  { la := p.la + BitVec.ofNat 32 off, addrs := (p.addrs.drop off).take n, types := (p.types.drop off).take n
    leaves := (p.leaves.take (if off + n ≤ first then 1 else 2)).drop (if off < first then 0 else 1) }

/-- One store of a write. Translations may be loaded from the tables as they are just before it (R236,
`spec/24_caches_mtrr.md` R397; log 12). -/
def writePart (p : Phys) (bytes : List Byte) : B Unit := do
  speculate
  storePhys p bytes

/-- Write the bytes of a physical access. In memory, one that crosses into a second page is two stores (R220, D6). -/
def writePhys (p : Phys) (bytes : List Byte) : B Unit := do
  let c ← regs
  let n := p.addrs.length
  let k := firstPart p.la n
  if k = n || (p.apicOffset c).isSome then writePart p bytes
  else
    writePart (p.part 0 k) (bytes.take k)
    writePart (p.part k (n - k)) (bytes.drop k)

/-- A locked read-modify-write of one byte: nothing comes between its read and its write, not even the processor's own
setting of an A flag (`spec/23_ordering.md` R341, R342, R344; log 28). -/
def lockedByte (p : Phys) (f : Nat → Nat) : B Unit := do
  speculate
  modBus (Bus.setDirty (← regs) p.leaves)
  let v ← readPhys p
  storePhys p (leBytes 1 (f (leNat v)))

/-- The physical address of a linear one under a translation. -/
def TlbEntry.addr (e : TlbEntry) (la : W32) : Nat := e.frame.toNat + la.toNat % e.size.bytes

/-- The attributes of a page (`spec/24_caches_mtrr.md` R431). -/
def TlbEntry.attr (e : TlbEntry) : PageAttr :=
  { typ := e.pageType
    large := match e.size with
      | .k4 => none
      | s => some (e.frame.toNat, s.bytes) }

/-- A20M# in real-address mode (`spec/20_memory.md` R135, `spec/45_v86_and_16bit.md` R801; log 47). -/
def a20 (c : Cpu) (b : Bus) (pa : Nat) : Nat :=
  if b.ev.a20m && !c.pe && !c.smm.inSmm && pa.testBit 20 then pa - 2 ^ 20 else pa

/-- The n bytes from `la` on, all in one page, and their type (R200, R205). With CD = NW = 1 and lines in the caches the
access is refused (`spec/24_caches_mtrr.md` R385, D70). -/
def physicalPage (la : W32) (n : Nat) (write user : Bool) : B Phys := do
  let c ← regs
  if incoherent c (← getBus) then refuseB .cacheIncoherent
  if c.pg then
    let e ← translate la write user
    let pa := e.addr la
    return .run la pa n (← typeOrRefuse (some e.attr) pa) [e.leaf]
  else
    let pa := a20 c (← getBus) la.toNat
    return .run la pa n (← typeOrRefuse none pa) []

/-- Translate an access, the first page first; nothing is read or written yet (R220). -/
def physical (la : W32) (n : Nat) (write user : Bool) : B Phys := do
  let k := firstPart la n
  let p ← physicalPage la k write user
  if k = n then return p
  else return p.append (← physicalPage (la + BitVec.ofNat 32 k) (n - k) write user)

/-- No physical address is outside the address space (`spec/20_memory.md` R132). -/
def checkRange (p : Phys) : B Phys :=
  if p.addrs.all (· < 2 ^ 36) then pure p else throw (.fault .outsideAddressSpace)

/-- LinRead (`spec/00_scope.md` R11): n bytes, as a user or supervisor access. -/
def linBytes (la : W32) (n : Nat) (user : Bool) : B (List Byte) := do
  readPhys (← checkRange (← physical la n false user))

/-- LinWrite (`spec/00_scope.md` R11). -/
def linStore (la : W32) (bytes : List Byte) (user : Bool) : B Unit := do
  writePhys (← checkRange (← physical la bytes.length true user)) bytes

/-- A privilege-level-0 read (`spec/22_protection.md` R322). -/
def sysRead (la : W32) (n : Nat) : B Nat := do return leNat (← linBytes la n false)

/-- A privilege-level-0 write. -/
def sysWrite (la : W32) (n v : Nat) : B Unit := linStore la (leBytes n v) false

/-- A locked privilege-level-0 read-modify-write of one byte (`spec/23_ordering.md` R342). -/
def sysLocked (la : W32) (f : Nat → Nat) : B Unit := do
  lockedByte (← checkRange (← physical la 1 true false)) f

/-- Drop every cached translation (R241). -/
def Bus.flushAll (b : Bus) : Bus := { b with tlb := [] }

/-- Drop the cached translations that are not global (R240). -/
def Bus.flushLocal (b : Bus) : Bus := { b with tlb := b.tlb.filter (·.global) }

/-- INVLPG (R239): drop the translations of the page that holds the address (log 12). -/
def Bus.flushPage (la : W32) (b : Bus) : Bus := { b with tlb := b.tlb.filter fun e => !e.covers la }

/-- A reserved bit, or P = 0, in a page-directory-pointer entry (R221, R232). -/
def pdpteBad (v : Nat) : Bool := !v.testBit 0 || Walk.field v 63 36 ≠ 0 || Walk.field v 8 5 ≠ 0 || Walk.field v 2 1 ≠ 0

/-- Read the four page-directory-pointer entries that CR3 names, an access of the type that CR3's PCD and PWT select
(`spec/21_paging.md` R211), refused with CD = NW = 1 and lines in the caches (D70); #GP(0) if one is bad (R226, R232). -/
def readPdptes (cr3 : W32) : B (W64 × W64 × W64 × W64) := do
  let c ← regs
  let base := (cr3.extractLsb' 5 27).toNat * 32
  if incoherent c (← getBus) then refuseB .cacheIncoherent
  let _ ← typeOrRefuse (some ⟨c.patField ((cr3.extractLsb' 3 2).setWidth 3), none⟩) base
  let b ← getBus
  let v (i : Nat) := Walk.value b (base + 8 * i) 8
  modBus Bus.accessed
  if pdpteBad (v 0) || pdpteBad (v 1) || pdpteBad (v 2) || pdpteBad (v 3) then raiseB (.gp 0#32)
  return (BitVec.ofNat 64 (v 0), BitVec.ofNat 64 (v 1), BitVec.ofNat 64 (v 2), BitVec.ofNat 64 (v 3))

end Sys2Proof.Machine
end

