-- ==== Sys2Proof/Machine/Debug.lean ====
section
/-!
DEFINITION. Breakpoint registers and branch recording (`spec/65_debug_and_perfmon.md` R1224 to R1252).
-/
namespace Sys2Proof.Machine

/-- Breakpoint address register n. -/
def Dbg.addr (d : Dbg) (n : Nat) : W32 :=
  match n with
  | 0 => d.dr0
  | 1 => d.dr1
  | 2 => d.dr2
  | _ => d.dr3

/-- R/Wn (R1226). -/
def Dbg.rw (d : Dbg) (n : Nat) : BitVec 2 := d.dr7.extractLsb' (16 + 4 * n) 2

/-- LENn (R1226). -/
def Dbg.len (d : Dbg) (n : Nat) : BitVec 2 := d.dr7.extractLsb' (18 + 4 * n) 2

/-- Ln or Gn (R1226). -/
def Dbg.enabled (d : Dbg) (n : Nat) : Bool := bit d.dr7 (2 * n) || bit d.dr7 (2 * n + 1)

/-- A set-up with an undefined length or type (U101). -/
def Dbg.undefinedSetup (c : Cpu) (n : Nat) : Bool :=
  c.dbg.len n == 2#2 || (c.dbg.rw n == 2#2 && !bit c.ctl.cr4 3) || (c.dbg.rw n == 0#2 && c.dbg.len n != 0#2)

/-- The range of a breakpoint: its base and its length (R1228). -/
def Dbg.range (d : Dbg) (n : Nat) : Nat × Nat :=
  let len := (d.len n).toNat + 1
  ((d.addr n).toNat / len * len, len)

/-- Do the bytes a .. a+n-1 meet the range of breakpoint k (R1228)? An access that runs past FFFFFFFFH goes on at address
0 (`spec/20_memory.md` R137). -/
def Dbg.overlaps (d : Dbg) (k a n : Nat) : Bool :=
  let (base, len) := d.range k
  (a < base + len && base < a + n) || base + 2 ^ 32 < a + n

/-- The breakpoints among 0 to 3 that satisfy a test, as bits. -/
def breakMask (f : Nat → Bool) : BitVec 4 :=
  BitVec.ofBool (f 3) ++ BitVec.ofBool (f 2) ++ BitVec.ofBool (f 1) ++ BitVec.ofBool (f 0)

/-- Is there an enabled breakpoint with an undefined set-up (U101; log 31)? -/
def undefinedBreakpoint (c : Cpu) : Bool :=
  c.dbg.dr7 &&& 0xFF#32 != 0#32 && breakMask (fun n => c.dbg.enabled n && Dbg.undefinedSetup c n) != 0#4

/-- The data breakpoints that an access of n bytes at a linear address matches (R1228, R1233). -/
def dataMatches (c : Cpu) (la : W32) (n : Nat) (write : Bool) : BitVec 4 :=
  breakMask fun k =>
    !Dbg.undefinedSetup c k && (c.dbg.rw k == 3#2 || (c.dbg.rw k == 1#2 && write))
      && c.dbg.overlaps k la.toNat n

/-- The I/O breakpoints that an access matches (R1227, R1228). -/
def ioMatches (c : Cpu) (port : W16) (n : Nat) : BitVec 4 :=
  breakMask fun k => !Dbg.undefinedSetup c k && c.dbg.rw k == 2#2 && c.dbg.overlaps k port.toNat n

/-- The instruction breakpoints at a linear address (R1231). -/
def execMatches (c : Cpu) (la : W32) : BitVec 4 :=
  breakMask fun k => !Dbg.undefinedSetup c k && c.dbg.rw k == 0#2 && c.dbg.addr k == la

/-- Is one of these breakpoints enabled? -/
def anyEnabled (c : Cpu) (hits : BitVec 4) : Bool := breakMask (c.dbg.enabled ·) &&& hits != 0#4

/-- Two sets of pending traps. -/
def PendingDb.join (p q : PendingDb) : PendingDb := { b := p.b ||| q.b, bs := p.bs || q.bs, bt := p.bt || q.bt }

/-- The traps pending after a step, with the ones held before (R1240). -/
def joinTraps (new : PendingDb) (old : Option PendingDb) : Option PendingDb :=
  let p := new.join (old.getD { b := 0#4, bs := false, bt := false })
  if p.b = 0#4 && !p.bs && !p.bt then none else some p

/-- Remember the breakpoints that an explicit access matches (D101). -/
def noteAccess (la : W32) (n : Nat) (write : Bool) : B Unit := do
  let c ← regs
  if undefinedBreakpoint c then refuseB .breakpointSetup
  let h := dataMatches c la n write
  if h ≠ 0#4 then modBus fun b => { b with hits := b.hits ||| h }

/-- Record a taken branch in the last-branch MSRs (R1250); while TR is set their contents are free (U102). -/
def Cpu.recordBranch (c : Cpu) (src dst : W32) : Cpu :=
  if c.msr.debugCtl.getLsbD 0 then { c with msr.lastBranchFrom := src, msr.lastBranchTo := dst } else c

/-- Record an interrupt or exception (R1250). -/
def Cpu.recordException (c : Cpu) (src dst : W32) : Cpu :=
  if c.msr.debugCtl.getLsbD 0 then
    { c with
      msr.lastExcFrom := c.msr.lastBranchFrom, msr.lastExcTo := c.msr.lastBranchTo
      msr.lastBranchFrom := src, msr.lastBranchTo := dst }
  else c

end Sys2Proof.Machine
end

