-- ==== Sys2Proof/Machine/Access.lean ====
section
/-!
DEFINITION. Access through a segment register: the segment check (`spec/22_protection.md` R262 to R267), the
alignment check (`spec/20_memory.md` R140), MemRead and MemWrite (`spec/00_scope.md` R11), and the stack (R12).
-/
namespace Sys2Proof.Machine

/-- A segment register by name. -/
def SegRegs.get (r : SegRegs) : Seg → SegReg
  | .es => r.es
  | .cs => r.cs
  | .ss => r.ss
  | .ds => r.ds
  | .fs => r.fs
  | .gs => r.gs

/-- Replace a segment register. -/
def SegRegs.set (r : SegRegs) (s : Seg) (v : SegReg) : SegRegs :=
  match s with
  | .es => { r with es := v }
  | .cs => { r with cs := v }
  | .ss => { r with ss := v }
  | .ds => { r with ds := v }
  | .fs => { r with fs := v }
  | .gs => { r with gs := v }

/-- A code segment (`spec/20_memory.md` R149). -/
def SegReg.isCode (r : SegReg) : Bool := r.s && r.typ.getLsbD 3
/-- A data segment. -/
def SegReg.isData (r : SegReg) : Bool := r.s && !r.typ.getLsbD 3
/-- A writable data segment. -/
def SegReg.writable (r : SegReg) : Bool := r.isData && r.typ.getLsbD 1
/-- A readable segment: data, or code with R = 1. -/
def SegReg.readable (r : SegReg) : Bool := r.isData || (r.isCode && r.typ.getLsbD 1)
/-- A conforming code segment. -/
def SegReg.conforming (r : SegReg) : Bool := r.isCode && r.typ.getLsbD 2
/-- An expand-down data segment. -/
def SegReg.expandDown (r : SegReg) : Bool := r.isData && r.typ.getLsbD 2

/-- LimitOK (`spec/22_protection.md` R262): are the offsets off .. off+n-1 in the segment? -/
def SegReg.limitOk (r : SegReg) (off : W32) (n : Nat) : Bool :=
  let last := off.toNat + n - 1
  if r.expandDown then off.toNat > r.limit.toNat && last ≤ (if r.db then 0xFFFFFFFF else 0xFFFF)
  else last ≤ r.limit.toNat

/-- The exception of SegCheck (`spec/22_protection.md` R267), if the access may not be made. A register that was loaded
with a null selector stays unusable in real-address mode (`spec/70_reset_and_hazards.md` R1322; log 50). -/
def segCheck (c : Cpu) (seg : Seg) (off : W32) (n : Nat) (write : Bool) : Option Exc :=
  let r := c.seg.get seg
  if (r.unusable && !c.v86) || (c.prot && ((write && !r.writable) || (!write && !r.readable))) then some (.gp 0#32)
  else if r.limitOk off n then none
  else some (if seg = .ss then .ss 0#32 else .gp 0#32)

/-- Linear (`spec/20_memory.md` R141). -/
def SegReg.linear (r : SegReg) (off : W32) : W32 := r.base + off

/-- AlignCheck (`spec/20_memory.md` R140): does the access at this linear address raise #AC? Only accesses in data and
stack segments are checked (`spec/61_exception_reference.md` R977), and none in real-address mode (`spec/10_state.md` R72).
R140 says only "addr": that the linear address is tested, not the offset in the segment, is the model's choice (log 60). -/
def misaligned (c : Cpu) (seg : Seg) (la : W32) (align : Nat) : Bool :=
  bit c.ctl.cr0 18 && c.pe && c.fl.ac && c.cpl == 3#2 && seg != .cs && !(c.seg.get seg).isCode && la.toNat % align != 0

/-- Is an ordinary access a user access (`spec/22_protection.md` R319)? -/
def Cpu.user (c : Cpu) : Bool := c.cpl == 3#2

/-- Everything an access of n bytes at seg:off checks before it is made (`spec/22_protection.md` R323): the segment,
the pages, then alignment (D5). -/
def memCheck (seg : Seg) (off : W32) (n align : Nat) (write : Bool) : B Phys := do
  let c ← regs
  match segCheck c seg off n write with
  | some e => raiseB e
  | none =>
    let la := (c.seg.get seg).linear off
    let p ← checkRange (← physical la n write c.user)
    if misaligned c seg la align then raiseB .ac
    return p

/-- An access that passes its checks: the breakpoints it matches are noted. -/
def memPrepare (seg : Seg) (off : W32) (n align : Nat) (write : Bool) : B Phys := do
  let p ← memCheck seg off n align write
  noteAccess p.la n write
  return p

/-- MemRead of n bytes with a given alignment (`spec/00_scope.md` R11). -/
def memBytes (seg : Seg) (off : W32) (n align : Nat) : B (List Byte) := do
  readPhys (← memPrepare seg off n align false)

/-- MemRead of a value of w bits. -/
def memRead (w : Nat) (seg : Seg) (off : W32) (align : Nat := w / 8) : B (BitVec w) := do
  return BitVec.ofNat w (leNat (← memBytes seg off (w / 8) align))

/-- MemWrite of a value of w bits (`spec/00_scope.md` R11). -/
def memWrite {w : Nat} (seg : Seg) (off : W32) (v : BitVec w) (align : Nat := w / 8) : B Unit := do
  let p ← memPrepare seg off (w / 8) align true
  writePhys p (leBytes (w / 8) v.toNat)

/-- Read a location that will be written: both accesses are checked as a write (`spec/46_general_subset.md` R581), and
the page becomes dirty. -/
def memReadForWrite (w : Nat) (seg : Seg) (off : W32) : B (BitVec w × Phys) := do
  let p ← memPrepare seg off (w / 8) (w / 8) true
  let c ← regs
  modBus (Bus.setDirty c p.leaves)
  return (BitVec.ofNat w (leNat (← readPhys p)), p)

/-- Read a location that may be written: it is checked as a write, but only a read is noted
(`spec/41_segment_instructions.md` R574, D125; log 57). -/
def memReadMayWrite (w : Nat) (seg : Seg) (off : W32) : B (BitVec w × Phys) := do
  let p ← memCheck seg off (w / 8) (w / 8) true
  noteAccess p.la (w / 8) false
  return (BitVec.ofNat w (leNat (← readPhys p)), p)

/-- Write a location read by `memReadMayWrite`: now the write is noted (D125). -/
def memWriteNow {w : Nat} (p : Phys) (v : BitVec w) : B Unit := do
  noteAccess p.la (w / 8) true
  writePhys p (leBytes (w / 8) v.toNat)

/-- Write back a location read by `memReadForWrite`. If the instruction is locked, nothing comes between the read and
the write (`spec/23_ordering.md` R341, R343, R344); else translations may be loaded in between (`spec/21_paging.md` R236). -/
def memWriteBack {w : Nat} (lock : Bool) (p : Phys) (v : BitVec w) : B Unit :=
  let bytes := leBytes (w / 8) v.toNat
  if lock then storePhys p bytes else writePhys p bytes

/-- The offset that the stack pointer stands for: ESP or SP by SS.B (`spec/20_memory.md` R147). -/
def Cpu.stackOff (c : Cpu) (esp : W32) : W32 := if c.seg.ss.db then esp else esp &&& 0xFFFF#32

/-- The stack pointer moved by k: ESP, or SP alone with ESP[31:16] kept (`spec/20_memory.md` R147). -/
def Cpu.stackMove (c : Cpu) (k : W32) : W32 :=
  if c.seg.ss.db then c.gpr.esp + k
  else c.gpr.esp.extractLsb' 16 16 ++ (c.gpr.esp.extractLsb' 0 16 + k.setWidth 16)

/-- Set ESP. -/
def Cpu.setEsp (c : Cpu) (v : W32) : Cpu := { c with gpr.esp := v }

/-- Push (`spec/00_scope.md` R12). -/
def push {w : Nat} (v : BitVec w) : M Unit := do
  let c ← getCpu
  let esp := c.stackMove (-(BitVec.ofNat 32 (w / 8)))
  onBus (memWrite .ss (c.stackOff esp) v)
  modCpu (·.setEsp esp)

/-- The value k bytes above the top of the stack. -/
def peek (w k : Nat) : M (BitVec w) := do
  let c ← getCpu
  onBus (memRead w .ss (c.stackOff (c.stackMove (BitVec.ofNat 32 k))))

/-- Move the stack pointer up by k bytes. -/
def release (k : Nat) : M Unit := modCpu fun c => c.setEsp (c.stackMove (BitVec.ofNat 32 k))

/-- Pop (`spec/00_scope.md` R12). -/
def pop (w : Nat) : M (BitVec w) := do
  let v ← peek w 0
  release (w / 8)
  return v

end Sys2Proof.Machine
end

