-- ==== Sys2Proof/Machine/Flags.lean ====
section
/-!
DEFINITION. EFLAGS images and the flag computations (`spec/46_general_subset.md` R581, `spec/10_state.md` R33).
-/
namespace Sys2Proof.Machine

/-- One bit of a 32-bit image. -/
def flagBit (b : Bool) (n : Nat) : W32 := if b then 1#32 <<< n else 0#32

/-- EFLAGS as 32 bits (`spec/10_state.md` R33). -/
def Eflags.toBits (f : Eflags) : W32 :=
  2#32 ||| flagBit f.cf 0 ||| flagBit f.pf 2 ||| flagBit f.af 4 ||| flagBit f.zf 6 ||| flagBit f.sf 7
    ||| flagBit f.tf 8 ||| flagBit f.if_ 9 ||| flagBit f.df 10 ||| flagBit f.of 11
    ||| (f.iopl.setWidth 32 <<< 12) ||| flagBit f.nt 14 ||| flagBit f.rf 16 ||| flagBit f.vm 17
    ||| flagBit f.ac 18 ||| flagBit f.vif 19 ||| flagBit f.vip 20 ||| flagBit f.id 21

/-- The flags of an image; fixed bits are ignored (`spec/10_state.md` R33). -/
def Eflags.ofBits (v : W32) : Eflags :=
  { cf := bit v 0, pf := bit v 2, af := bit v 4, zf := bit v 6, sf := bit v 7, tf := bit v 8, if_ := bit v 9,
    df := bit v 10, of := bit v 11, iopl := v.extractLsb' 12 2, nt := bit v 14, rf := bit v 16, vm := bit v 17,
    ac := bit v 18, vif := bit v 19, vip := bit v 20, id := bit v 21 }

/-- Take the bits of `new` where `mask` is 1, those of `old` elsewhere. -/
def Eflags.merge (old new : Eflags) (mask : W32) : Eflags :=
  .ofBits ((old.toBits &&& ~~~mask) ||| (new.toBits &&& mask))

/-- 1 iff the low byte has an even number of 1 bits (R581). -/
def parity {w : Nat} (r : BitVec w) : Bool :=
  !(r.getLsbD 0 ^^ r.getLsbD 1 ^^ r.getLsbD 2 ^^ r.getLsbD 3 ^^ r.getLsbD 4 ^^ r.getLsbD 5 ^^ r.getLsbD 6
    ^^ r.getLsbD 7)

/-- SZP (R581). -/
def Eflags.szp {w : Nat} (f : Eflags) (r : BitVec w) : Eflags :=
  { f with sf := r.msb, zf := r == 0#w, pf := parity r }

/-- FlagsAdd (R581), for r = a + b. -/
def Eflags.add {w : Nat} (f : Eflags) (a b : BitVec w) : Eflags :=
  let r := a + b
  { f.szp r with
    cf := decide (a.toNat + b.toNat ≥ 2 ^ w)
    of := a.msb == b.msb && r.msb != a.msb
    af := (a ^^^ b ^^^ r).getLsbD 4 }

/-- FlagsSub (R581), for r = a - b. -/
def Eflags.sub {w : Nat} (f : Eflags) (a b : BitVec w) : Eflags :=
  let r := a - b
  { f.szp r with
    cf := decide (a.toNat < b.toNat)
    of := a.msb != b.msb && r.msb != a.msb
    af := (a ^^^ b ^^^ r).getLsbD 4 }

/-- FlagsLogic (R581); AF is undefined: a free value (log 9). -/
def Eflags.logic {w : Nat} (f : Eflags) (r : BitVec w) (af : Bool) : Eflags :=
  { f.szp r with cf := false, of := false, af := af }

/-- The flags of INC: as ADD of 1, but CF stays (R592). -/
def Eflags.inc {w : Nat} (f : Eflags) (a : BitVec w) : Eflags := { f.add a 1#w with cf := f.cf }

/-- The flags of DEC: as SUB of 1, but CF stays (R593). -/
def Eflags.dec {w : Nat} (f : Eflags) (a : BitVec w) : Eflags := { f.sub a 1#w with cf := f.cf }

/-- The six status flags undefined: free values (log 9). -/
def Eflags.statusFrom (f : Eflags) (v : W32) : Eflags :=
  { f with cf := bit v 0, pf := bit v 1, af := bit v 2, zf := bit v 3, sf := bit v 4, of := bit v 5 }

/-- The two-operand operations of the "standard eight" forms (R585 to R590). -/
inductive Alu where
  | add
  | or
  | and
  | sub
  | xor
  | cmp
  deriving DecidableEq, Repr

/-- The result. -/
def Alu.result {w : Nat} (op : Alu) (a b : BitVec w) : BitVec w :=
  match op with
  | .add => a + b
  | .or => a ||| b
  | .and => a &&& b
  | .sub => a - b
  | .xor => a ^^^ b
  | .cmp => a - b

/-- The flags; `af` is the free value of the logic operations. -/
def Alu.flags {w : Nat} (op : Alu) (f : Eflags) (a b : BitVec w) (af : Bool) : Eflags :=
  match op with
  | .add => f.add a b
  | .sub => f.sub a b
  | .cmp => f.sub a b
  | _ => f.logic (op.result a b) af

/-- Does the operation leave AF undefined? -/
def Alu.isLogic : Alu → Bool
  | .or => true
  | .and => true
  | .xor => true
  | _ => false

end Sys2Proof.Machine

/-- cond(cc) (R597). -/
def Sys2Proof.Cond.holds (f : Sys2Proof.Machine.Eflags) : Sys2Proof.Cond → Bool
  | .o => f.of
  | .no => !f.of
  | .b => f.cf
  | .ae => !f.cf
  | .e => f.zf
  | .ne => !f.zf
  | .be => f.cf || f.zf
  | .a => !f.cf && !f.zf
  | .s => f.sf
  | .ns => !f.sf
  | .p => f.pf
  | .np => !f.pf
  | .l => f.sf != f.of
  | .ge => f.sf == f.of
  | .le => f.zf || f.sf != f.of
  | .g => !f.zf && f.sf == f.of
end

