-- ==== Sys2Proof/Machine/Operands.lean ====
section
/-!
DEFINITION. Operands: general registers at every size (`spec/30_encoding.md` R466, `spec/10_state.md` R31),
effective addresses (R467, R468), register-or-memory operands.
-/
namespace Sys2Proof

/-- The register a byte register is part of, and whether it is bits 15:8 (R466). -/
def Gpr8.home : Gpr8 → Gpr × Bool
  | .al => (.eax, false)
  | .cl => (.ecx, false)
  | .dl => (.edx, false)
  | .bl => (.ebx, false)
  | .ah => (.eax, true)
  | .ch => (.ecx, true)
  | .dh => (.edx, true)
  | .bh => (.ebx, true)

end Sys2Proof

namespace Sys2Proof.Machine

/-- A 32-bit general register. -/
def Gprs.get (g : Gprs) : Gpr → W32
  | .eax => g.eax
  | .ecx => g.ecx
  | .edx => g.edx
  | .ebx => g.ebx
  | .esp => g.esp
  | .ebp => g.ebp
  | .esi => g.esi
  | .edi => g.edi

/-- Replace a 32-bit general register. -/
def Gprs.set (g : Gprs) (r : Gpr) (v : W32) : Gprs :=
  match r with
  | .eax => { g with eax := v }
  | .ecx => { g with ecx := v }
  | .edx => { g with edx := v }
  | .ebx => { g with ebx := v }
  | .esp => { g with esp := v }
  | .ebp => { g with ebp := v }
  | .esi => { g with esi := v }
  | .edi => { g with edi := v }

/-- A byte register. -/
def Gprs.get8 (g : Gprs) (r : Gpr8) : Byte :=
  let v := g.get r.home.1
  if r.home.2 then v.extractLsb' 8 8 else v.extractLsb' 0 8

/-- Replace a byte register; the other bits stay (`spec/46_general_subset.md` R581). -/
def Gprs.set8 (g : Gprs) (r : Gpr8) (v : Byte) : Gprs :=
  let old := g.get r.home.1
  g.set r.home.1 (if r.home.2 then old.extractLsb' 16 16 ++ v ++ old.extractLsb' 0 8 else old.extractLsb' 8 24 ++ v)

/-- A general register at an operand size. -/
def Gprs.getV (g : Gprs) (sz : OpSize) (r : Gpr) : BitVec sz.bits :=
  match sz with
  | .w16 => (g.get r).extractLsb' 0 16
  | .w32 => g.get r

/-- Replace a general register at an operand size; a 16-bit write keeps bits 31:16 (`spec/10_state.md` R31). -/
def Gprs.setV (g : Gprs) (sz : OpSize) (r : Gpr) (v : BitVec sz.bits) : Gprs :=
  match sz, v with
  | .w16, v => g.set r ((g.get r).extractLsb' 16 16 ++ v)
  | .w32, v => g.set r v

end Sys2Proof.Machine

namespace Sys2Proof
open Machine

/-- The registers of a 16-bit address (R468). -/
def Base16.value (g : Gprs) : Base16 → W16
  | .bxsi => g.ebx.extractLsb' 0 16 + g.esi.extractLsb' 0 16
  | .bxdi => g.ebx.extractLsb' 0 16 + g.edi.extractLsb' 0 16
  | .bpsi => g.ebp.extractLsb' 0 16 + g.esi.extractLsb' 0 16
  | .bpdi => g.ebp.extractLsb' 0 16 + g.edi.extractLsb' 0 16
  | .si => g.esi.extractLsb' 0 16
  | .di => g.edi.extractLsb' 0 16
  | .bp => g.ebp.extractLsb' 0 16
  | .bx => g.ebx.extractLsb' 0 16

/-- Does the 16-bit form use BP (R468)? -/
def Base16.usesBp : Base16 → Bool
  | .bpsi => true
  | .bpdi => true
  | .bp => true
  | _ => false

/-- A 16-bit displacement (R468). -/
def Disp16.value : Disp16 → W16
  | .none => 0#16
  | .d8 d => d.signExtend 16
  | .d16 d => d

/-- A 32-bit displacement (R467). -/
def Disp32.value : Disp32 → W32
  | .none => 0#32
  | .d8 d => d.signExtend 32
  | .d32 d => d

/-- The scaled index (R467). -/
def indexValue (g : Gprs) (scale : BitVec 2) : Option Gpr → W32
  | none => 0#32
  | some r => g.get r <<< scale.toNat

/-- The effective address (R467, R468). -/
def Ea.value (g : Gprs) : Ea → W32
  | .abs16 d => d.setWidth 32
  | .base16 b d => (b.value g + d.value).setWidth 32
  | .abs32 d => d
  | .base32 r d => g.get r + d.value
  | .sib s i b d => g.get b + indexValue g s i + d.value
  | .sibNoBase s i d => indexValue g s i + d

/-- SS if the base register is EBP or ESP, else DS (R467). -/
def defaultSeg (r : Gpr) : Seg := if r = .ebp ∨ r = .esp then .ss else .ds

/-- The default segment of an address (R467, R468, `spec/20_memory.md` R145). -/
def Ea.seg : Ea → Seg
  | .abs16 _ => .ds
  | .base16 b _ => if b.usesBp then .ss else .ds
  | .abs32 _ => .ds
  | .base32 r _ => defaultSeg r
  | .sib _ _ b _ => defaultSeg b
  | .sibNoBase _ _ _ => .ds

/-- The segment of a memory operand: the override, or the default. -/
def MemOp.segment (m : MemOp) : Seg := m.seg.getD m.ea.seg

/-- The offset of a memory operand. -/
def MemOp.off (m : MemOp) (c : Cpu) : W32 := m.ea.value c.gpr

end Sys2Proof

namespace Sys2Proof.Machine

/-- Change the general registers. -/
def modGpr (f : Gprs → Gprs) : M Unit := modCpu fun c => { c with gpr := f c.gpr }

/-- Change the flags. -/
def modFl (f : Eflags → Eflags) : M Unit := modCpu fun c => { c with fl := f c.fl }

/-- Read memory named by an operand. -/
def loadMem (w : Nat) (m : MemOp) (align : Nat := w / 8) : M (BitVec w) := do
  let c ← getCpu
  onBus (memRead w m.segment (m.off c) align)

/-- Read memory k bytes after the place an operand names: a part of a pointer, a bound or a table register. -/
def loadAt (w : Nat) (m : MemOp) (k : Nat) : M (BitVec w) := do
  let c ← getCpu
  onBus (memRead w m.segment (m.off c + BitVec.ofNat 32 k))

/-- Write memory named by an operand. -/
def storeMem {w : Nat} (m : MemOp) (v : BitVec w) (align : Nat := w / 8) : M Unit := do
  let c ← getCpu
  onBus (memWrite m.segment (m.off c) v align)

/-- Read an `r/m8`. -/
def readRm8 : Rm8 → M Byte
  | .reg r => do return (← getCpu).gpr.get8 r
  | .mem m => loadMem 8 m

/-- Write an `r/m8`. -/
def writeRm8 (rm : Rm8) (v : Byte) : M Unit :=
  match rm with
  | .reg r => modGpr (·.set8 r v)
  | .mem m => storeMem m v

/-- Read an `r/m16/32`. -/
def readRm (sz : OpSize) : Rm → M (BitVec sz.bits)
  | .reg r => do return (← getCpu).gpr.getV sz r
  | .mem m => loadMem sz.bits m

/-- Write an `r/m16/32`. -/
def writeRm (sz : OpSize) (rm : Rm) (v : BitVec sz.bits) : M Unit :=
  match rm with
  | .reg r => modGpr (·.setV sz r v)
  | .mem m => storeMem m v

/-- Read memory, compute, write back the same location (`spec/46_general_subset.md` R581), as one indivisible operation if
the instruction is locked (`spec/23_ordering.md` R341). -/
def modifyMem (lock : Bool) (w : Nat) (m : MemOp) (f : BitVec w → M (BitVec w)) : M Unit := do
  let c ← getCpu
  let (a, p) ← onBus (memReadForWrite w m.segment (m.off c))
  let r ← f a
  onBus (memWriteBack lock p r)

/-- Read, compute and write an `r/m8`. -/
def modifyRm8 (lock : Bool) (rm : Rm8) (f : Byte → M Byte) : M Unit :=
  match rm with
  | .reg r => do
    let v ← f ((← getCpu).gpr.get8 r)
    modGpr (·.set8 r v)
  | .mem m => modifyMem lock 8 m f

/-- Read, compute and write an `r/m16/32`. -/
def modifyRm (lock : Bool) (sz : OpSize) (rm : Rm) (f : BitVec sz.bits → M (BitVec sz.bits)) : M Unit :=
  match rm with
  | .reg r => do
    let v ← f ((← getCpu).gpr.getV sz r)
    modGpr (·.setV sz r v)
  | .mem m => modifyMem lock sz.bits m f

/-- Do a two-operand operation: set the flags and answer the result (R585 to R590). -/
def alu {w : Nat} (op : Alu) (a b : BitVec w) : M (BitVec w) := do
  let af ← if op.isLogic then onBus freeBit else pure false
  modFl fun f => op.flags f a b af
  return op.result a b

/-- An immediate byte sign-extended to the operand size (`spec/30_encoding.md` R469). -/
def imm8To (sz : OpSize) (v : Byte) : BitVec sz.bits := v.signExtend sz.bits

end Sys2Proof.Machine
end

