-- ==== Sys2Proof/Machine/Segments.lean ====
section
/-!
DEFINITION. Selectors, descriptors and segment-register loads (`spec/20_memory.md` R142 to R157,
`spec/41_segment_instructions.md` R560), stack checks and the checks of returns (`spec/42_control_transfer.md`).
-/
namespace Sys2Proof.Machine

/-- Null selector: index 0 in the GDT (`spec/20_memory.md` R143). -/
def selNull (s : W16) : Bool := s.extractLsb' 2 14 == 0#14
/-- The table indicator: true names the LDT (`spec/20_memory.md` R142). -/
def selTi (s : W16) : Bool := s.getLsbD 2
/-- The requested privilege level. -/
def selRpl (s : W16) : BitVec 2 := s.extractLsb' 0 2
/-- The error code that names a selector (`spec/60_exceptions.md` R912). -/
def selCode (s : W16) : W32 := (s &&& 0xFFFC#16).setWidth 32

/-- A descriptor as fetched, with its linear address. -/
structure Desc where
  la : W32
  dw1 : W32
  dw2 : W32
  deriving DecidableEq, Repr

namespace Desc

/-- The type field. -/
def typ (d : Desc) : BitVec 4 := d.dw2.extractLsb' 8 4
/-- Code or data, not system. -/
def s (d : Desc) : Bool := bit d.dw2 12
/-- The privilege level. -/
def dpl (d : Desc) : BitVec 2 := d.dw2.extractLsb' 13 2
/-- Present. -/
def p (d : Desc) : Bool := bit d.dw2 15
/-- A code segment. -/
def isCode (d : Desc) : Bool := d.s && d.typ.getLsbD 3
/-- A conforming code segment. -/
def conforming (d : Desc) : Bool := d.isCode && d.typ.getLsbD 2
/-- A readable segment. -/
def readable (d : Desc) : Bool := d.s && (!d.typ.getLsbD 3 || d.typ.getLsbD 1)
/-- A writable data segment. -/
def writable (d : Desc) : Bool := d.s && !d.typ.getLsbD 3 && d.typ.getLsbD 1
/-- A system descriptor of one of the given types. -/
def isSys (d : Desc) (types : List Nat) : Bool := !d.s && types.contains d.typ.toNat

/-- The base (`spec/20_memory.md` R146). -/
def base (d : Desc) : W32 := d.dw2.extractLsb' 24 8 ++ d.dw2.extractLsb' 0 8 ++ d.dw1.extractLsb' 16 16
/-- The effective byte limit (`spec/20_memory.md` R146). -/
def limit (d : Desc) : W32 :=
  let l : BitVec 20 := d.dw2.extractLsb' 16 4 ++ d.dw1.extractLsb' 0 16
  if bit d.dw2 23 then l ++ 0xFFF#12 else l.setWidth 32

/-- What a register loaded with the descriptor holds (`spec/10_state.md` R50); code and data become accessed. -/
def reg (d : Desc) (sel : W16) : SegReg :=
  { sel, base := d.base, limit := d.limit, typ := if d.s then d.typ ||| 1#4 else d.typ, s := d.s, dpl := d.dpl
    p := d.p, avl := bit d.dw2 20, db := bit d.dw2 22, g := bit d.dw2 23, unusable := false }

/-- The selector field of a gate (`spec/22_protection.md` R290, `spec/60_exceptions.md` R909). -/
def gateSel (d : Desc) : W16 := d.dw1.extractLsb' 16 16
/-- The offset of a gate: 16 bits if type bit 3 is 0. -/
def gateOff (d : Desc) : W32 :=
  if d.typ.getLsbD 3 then d.dw2.extractLsb' 16 16 ++ d.dw1.extractLsb' 0 16 else (d.dw1.extractLsb' 0 16).setWidth 32
/-- The size of the pushes through a gate (`spec/45_v86_and_16bit.md` R867). -/
def gateSize (d : Desc) : OpSize := if d.typ.getLsbD 3 then .w32 else .w16
/-- The parameter count of a call gate. -/
def gateCount (d : Desc) : Nat := (d.dw2.extractLsb' 0 5).toNat

end Desc

/-- The descriptor at a linear address: a privilege-level-0 read (`spec/22_protection.md` R322). -/
def descAt (la : W32) : B Desc := do
  let v ← sysRead la 8
  return { la, dw1 := BitVec.ofNat 32 v, dw2 := BitVec.ofNat 32 (v / 2 ^ 32) }

/-- FetchDescriptor (`spec/20_memory.md` R157); `none` is its failure. -/
def fetchDesc (s : W16) : B (Option Desc) := do
  let c ← regs
  if selTi s && c.ldtr.unusable then return none
  let base := if selTi s then c.ldtr.base else c.gdtr.base
  let limit := if selTi s then c.ldtr.limit.toNat else c.gdtr.limit.toNat
  let i := (s.extractLsb' 3 13).toNat
  if 8 * i + 7 > limit then return none
  return some (← descAt (base + BitVec.ofNat 32 (8 * i)))

/-- FetchDescriptor with the exception its failure raises. -/
def fetchOr (s : W16) (e : Exc) : B Desc := do
  match ← fetchDesc s with
  | some d => return d
  | none => raiseB e

/-- Raise an exception if a condition holds. -/
def raiseIf (cond : Bool) (e : Exc) : B Unit := if cond then raiseB e else pure ()

/-- Set the accessed bit in memory, if it is clear, in a locked operation (`spec/20_memory.md` R150, `spec/23_ordering.md`
R342). -/
def setAccessed (d : Desc) : B Unit :=
  if d.typ.getLsbD 0 then pure () else sysLocked (d.la + 5#32) (· ||| 1)

/-- Set the busy bit of a TSS descriptor in memory, in a locked operation (`spec/23_ordering.md` R342). -/
def setBusy (d : Desc) : B Unit := sysLocked (d.la + 5#32) (· ||| 2)

/-- A register loaded with a null selector (`spec/20_memory.md` R143). -/
def SegReg.nulled (r : SegReg) (s : W16) : SegReg := { r with sel := s, unusable := true }

/-- A load in real-address or virtual-8086 mode: the selector and the base (`spec/45_v86_and_16bit.md` R801;
log 34). -/
def SegReg.paragraph (r : SegReg) (s : W16) : SegReg :=
  { r with sel := s, base := s.setWidth 32 <<< 4, unusable := false }

/-- A segment of a virtual-8086 task (`spec/45_v86_and_16bit.md` R822). -/
def SegReg.v86 (s : W16) : SegReg :=
  { sel := s, base := s.setWidth 32 <<< 4, limit := 0xFFFF#32, typ := 3#4, s := true, dpl := 3#2, p := true
    avl := false, db := false, g := false, unusable := false }

/-- The checks on a stack segment for a privilege level (`spec/22_protection.md` R275): the exception of a bad one is
`bad`; a segment that is not present gives #SS. -/
def stackSegment (s : W16) (level : BitVec 2) (bad : W32 → Exc) : B Desc := do
  raiseIf (selNull s) (bad 0#32)
  let d ← fetchOr s (bad (selCode s))
  raiseIf (selRpl s != level || !d.writable || d.dpl != level) (bad (selCode s))
  raiseIf (!d.p) (.ss (selCode s))
  return d

/-- The checks on a data segment (`spec/41_segment_instructions.md` R560). -/
def dataSegment (s : W16) : B Desc := do
  let c ← regs
  let d ← fetchOr s (.gp (selCode s))
  raiseIf (!d.readable) (.gp (selCode s))
  raiseIf (!d.conforming && (d.dpl.toNat < c.cpl.toNat || d.dpl.toNat < (selRpl s).toNat)) (.gp (selCode s))
  raiseIf (!d.p) (.np (selCode s))
  return d

/-- LoadSeg (`spec/41_segment_instructions.md` R560): the new value of the register, `old` being its value. -/
def loadSegValue (sr : Seg) (s : W16) : B SegReg := do
  let c ← regs
  let old := c.seg.get sr
  if !c.prot then return old.paragraph s
  if sr = .ss then
    let d ← stackSegment s c.cpl .gp
    setAccessed d
    return d.reg s
  if selNull s then return old.nulled s
  let d ← dataSegment s
  setAccessed d
  return d.reg s

/-- Replace a segment register. -/
def Cpu.setSeg (c : Cpu) (sr : Seg) (v : SegReg) : Cpu := { c with seg := c.seg.set sr v }

/-- Load a segment register. -/
def loadSeg (sr : Seg) (s : W16) : M Unit := do
  let v ← onBus (loadSegValue sr s)
  modCpu (·.setSeg sr v)

/-- Probe (`spec/41_segment_instructions.md` R569): the descriptor, or `none` for "fail". -/
def probe (s : W16) (types : List Nat) : B (Option Desc) := do
  let c ← regs
  if selNull s then return none
  match ← fetchDesc s with
  | none => return none
  | some d =>
    if !d.s && !d.isSys types then return none
    if !d.conforming && (c.cpl.toNat > d.dpl.toNat || (selRpl s).toNat > d.dpl.toNat) then return none
    return some d

/-- CheckEIP (`spec/42_control_transfer.md` R610; gates: log 42). -/
def checkEip (off limit : W32) : B Unit := raiseIf (off.toNat > limit.toNat) (.gp 0#32)

/-- TruncEIP (`spec/42_control_transfer.md` R610). -/
def truncEip (osz : OpSize) (off : W32) : W32 :=
  match osz with
  | .w16 => off &&& 0xFFFF#32
  | .w32 => off

/-- The offset as EIP of a code segment of protected mode: with D = 0 only its low 16 bits are used, and the upper 16 are 0
(`spec/10_state.md` R32). -/
def SegReg.cutEip (cs : SegReg) (eip : W32) : W32 := if cs.db then eip else eip &&& 0xFFFF#32

/-- The EIP that a transfer within the code segment leaves. The target is checked before it is cut; in real-address and
virtual-8086 mode nothing but TruncEIP cuts it (log 56). -/
def Cpu.cutEip (c : Cpu) (eip : W32) : W32 := if c.prot then c.seg.cs.cutEip eip else eip

/-- StackRoom (`spec/42_control_transfer.md` R610): #SS(0) unless the n bytes below the stack pointer are in SS. -/
def stackRoom (n : Nat) : B Unit := do
  let c ← regs
  let off := c.stackOff (c.stackMove (-(BitVec.ofNat 32 n)))
  raiseIf (!c.seg.ss.limitOk off n) (.ss 0#32)

/-- #SS(0) unless the n bytes that start k above the top of the stack are in SS. -/
def stackHolds (k n : Nat) : B Unit := do
  let c ← regs
  let off := c.stackOff (c.stackMove (BitVec.ofNat 32 k))
  raiseIf (!c.seg.ss.limitOk off n) (.ss 0#32)

/-- A slot of the stack of the operand size, zero-extended, k bytes above the top. -/
def peekW (osz : OpSize) (k : Nat) : M W32 := do
  match osz with
  | .w16 => return (← peek 16 k).setWidth 32
  | .w32 => peek 32 k

/-- PushW of a 32-bit value, cut to the size (`spec/42_control_transfer.md` R610). -/
def pushW (osz : OpSize) (v : W32) : M Unit :=
  match osz with
  | .w16 => push (v.extractLsb' 0 16)
  | .w32 => push v

/-- A push of a selector; the upper half of a 32-bit slot is a free value (U111; log 11). -/
def pushSel (osz : OpSize) (s : W16) : M Unit :=
  match osz with
  | .w16 => push s
  | .w32 => do
    let f ← onBus free
    push (f.extractLsb' 16 16 ++ s)

/-- CS with the privilege level in its RPL field, its hidden part and CPL (LoadCS, `spec/42_control_transfer.md`
R610). -/
def Cpu.setCs (c : Cpu) (s : W16) (d : Desc) (cpl : BitVec 2) : Cpu :=
  { c with seg.cs := d.reg (s.extractLsb' 2 14 ++ cpl), cpl := cpl }

/-- A jump: later fetches at the linear address of a store see it (`spec/23_ordering.md` R352). -/
def refetch : M Unit := onBus (modBus Bus.jumped)

/-- LoadCS and the new EIP: a transfer to another code segment of protected mode. -/
def loadCs (s : W16) (d : Desc) (cpl : BitVec 2) (eip : W32) : M Unit := do
  onBus (setAccessed d)
  refetch
  modCpu fun c => { c.setCs s d cpl with eip := (d.reg s).cutEip eip }

/-- A 16-bit frame on top of the stack that returns to `ip` of the code segment `cs`. -/
def Cpu.gateFrame (c : Cpu) (cs ip : W16) : GateFrame :=
  { la := c.seg.ss.linear (c.stackOff c.gpr.esp), cs, ip }

/-- After a call through gate `g` to the code segment `d`, made with the registers `old`: the frame is noted if the gate and
the segment are 16-bit and the caller is 32-bit code (`spec/45_v86_and_16bit.md` R866; log 11). -/
def Cpu.noteGate16 (c old : Cpu) (g d : Desc) : Cpu :=
  let f := c.gateFrame old.seg.cs.sel (old.eip.extractLsb' 0 16)
  { c with hid.gate16 :=
      if g.gateSize == .w16 && old.seg.cs.db && !bit d.dw2 22 then f :: c.hid.gate16.filter (· != f) else c.hid.gate16 }

/-- The frame is gone. -/
def Cpu.dropGate16 (c : Cpu) (f : GateFrame) : Cpu := { c with hid.gate16 := c.hid.gate16.filter (· != f) }

/-- A 16-bit far return, to code segment `d`, of frame `f`, which a call through a 16-bit call gate from 32-bit code pushed:
ESP[31:16] becomes a free value on a 32-bit stack (`spec/45_v86_and_16bit.md` R866, U112; log 11). -/
def looseEsp (c : Cpu) (osz : OpSize) (d : Desc) (f : GateFrame) : Bool :=
  osz == .w16 && bit d.dw2 22 && c.hid.gate16.contains f

/-- ESP[31:16] replaced by that of `x`. -/
def Cpu.setEspHigh (c : Cpu) (x : W32) : Cpu := c.setEsp (x.extractLsb' 16 16 ++ c.gpr.esp.extractLsb' 0 16)

/-- ESP[31:16] becomes a free value, if `loose` (U112). -/
def loosenEsp (loose : Bool) : M Unit := do
  if loose then
    let f ← onBus free
    modCpu (·.setEspHigh f)

/-- Set the stack pointer: ESP, or SP alone if the stack segment has B = 0. -/
def Cpu.putSp (c : Cpu) (b : Bool) (v : W32) : Cpu :=
  c.setEsp (if b then v else c.gpr.esp.extractLsb' 16 16 ++ v.extractLsb' 0 16)

/-- NullIfInner (`spec/42_control_transfer.md` R629). -/
def SegReg.nullIfInner (r : SegReg) (newCpl : BitVec 2) : SegReg :=
  if !r.unusable && (r.isData || (r.isCode && !r.conforming)) && r.dpl.toNat < newCpl.toNat then r.nulled 0#16 else r

/-- NullIfInner for ES, DS, FS and GS. -/
def Cpu.nullInner (c : Cpu) (newCpl : BitVec 2) : Cpu :=
  { c with
    seg.es := c.seg.es.nullIfInner newCpl, seg.ds := c.seg.ds.nullIfInner newCpl
    seg.fs := c.seg.fs.nullIfInner newCpl, seg.gs := c.seg.gs.nullIfInner newCpl }

/-- The checks on the code segment of a return (`spec/42_control_transfer.md` R618). -/
def returnCode (s : W16) : B Desc := do
  let c ← regs
  raiseIf (selNull s) (.gp 0#32)
  let d ← fetchOr s (.gp (selCode s))
  raiseIf (!d.isCode || (selRpl s).toNat < c.cpl.toNat
    || (if d.conforming then d.dpl.toNat > (selRpl s).toNat else d.dpl != selRpl s)) (.gp (selCode s))
  raiseIf (!d.p) (.np (selCode s))
  return d

/-- InnerStack (`spec/42_control_transfer.md` R624): SS, its descriptor and ESP for a more privileged level. -/
def innerStack (newCpl : BitVec 2) : B (W16 × Desc × W32) := do
  let c ← regs
  let wide := c.tr.typ.getLsbD 3
  let a := if wide then 4 + 8 * newCpl.toNat else 2 + 4 * newCpl.toNat
  let n := if wide then 4 else 2
  raiseIf (a + n + 1 > c.tr.limit.toNat) (.ts (selCode c.tr.sel))
  let esp ← sysRead (c.tr.base + BitVec.ofNat 32 a) n
  let ss ← sysRead (c.tr.base + BitVec.ofNat 32 (a + n)) 2
  let s := BitVec.ofNat 16 ss
  let d ← stackSegment s newCpl .ts
  return (s, d, BitVec.ofNat 32 esp)

/-- The stack is switched: SS, its descriptor, the stack pointer and CPL (`spec/42_control_transfer.md` R624). The
`need` bytes that will be pushed must be in the new stack; the error code of an overflow names the new SS. -/
def switchStack (newCpl : BitVec 2) (st : W16 × Desc × W32) : M Unit := do
  let (s, d, esp) := st
  onBus (setAccessed d)
  modCpu fun c => { (c.setSeg .ss (d.reg s)).putSp (bit d.dw2 22) esp with cpl := newCpl }

/-- Is there room for `need` bytes on the new stack? -/
def roomOn (st : W16 × Desc × W32) (need : Nat) : B Unit := do
  let (s, d, esp) := st
  let top := esp - BitVec.ofNat 32 need
  let off := if bit d.dw2 22 then top else top &&& 0xFFFF#32
  raiseIf (!(d.reg s).limitOk off need) (.ss (selCode s))

end Sys2Proof.Machine
end

