-- ==== Sys2Proof/Machine/Task.lean ====
section
/-!
DEFINITION. The task switch (`spec/43_task_management.md` R700, R701). Everything that can fault in the context of
the old task comes first; a fault after the commit point is in the context of the new task.
-/
namespace Sys2Proof.Machine

/-- What causes a task switch (R700). -/
inductive TaskKind where
  | jmp
  | call
  | int
  | iret
  deriving DecidableEq, Repr

/-- The old task stays busy and the new one gets a link to it (R702). -/
def TaskKind.nests : TaskKind → Bool
  | .call => true
  | .int => true
  | _ => false

/-- A TSS type is 32-bit if bit 3 is set (`spec/20_memory.md` R152). -/
abbrev wideTss (typ : BitVec 4) : Bool := typ.getLsbD 3

/-- The bytes of a TSS that a switch reads and writes (R683, R708). -/
def tssSize (wide : Bool) : Nat := if wide then 104 else 44

/-- Rows 1 to 5 of Table 6-1 (R701, R703; an available TSS at IRET: log 24): the descriptor of the new TSS. -/
def checkTss (kind : TaskKind) (s : W16) : B Desc := do
  raiseIf (selNull s || selTi s) (.gp (selCode s))
  let d ← fetchOr s (.gp (selCode s))
  match kind with
  | .iret =>
    raiseIf (!d.isSys [1, 3, 9, 11]) (.ts (selCode s))
    raiseIf (!d.p) (.np (selCode s))
    raiseIf (!d.isSys [3, 11]) (.ts (selCode s))
  | _ =>
    raiseIf (!d.isSys [1, 9]) (.gp (selCode s))
    raiseIf (!d.p) (.np (selCode s))
  raiseIf (d.limit.toNat < (if wideTss d.typ then 0x67 else 0x2C)) (.ts (selCode s))
  return d

/-- A page fault on a page that is not present: P = 0 in its error code (`spec/21_paging.md` R205). -/
def Exc.pageAbsent (e : Exc) : Bool := e.vec == 14#8 && e.code.any fun v => !bit v 0

/-- Turn the page fault of a page that is not present into a refusal. -/
def presentOrRefuse {α : Type} (r : Refusal) (x : B α) : B α := fun c b =>
  match x c b with
  | .error (.exc e) b' => .error (if e.pageAbsent then .refuse r else .exc e) b'
  | y => y

/-- The bytes of a TSS, at contiguous physical addresses (R690). A second page that is not present or lies elsewhere is
refused (D30); another fault of that page is raised (log 25). -/
def tssPhys (la : W32) (n : Nat) (write : Bool) : B Phys := do
  let k := firstPart la n
  let p ← physicalPage la k write false
  if k = n then checkRange p
  else
    let q ← presentOrRefuse .tssPageBoundary (physicalPage (la + BitVec.ofNat 32 k) (n - k) write false)
    if q.addrs.head? = (p.addrs.head?).map (· + k) then checkRange (p.append q)
    else refuseB .tssPageBoundary

/-- The first n bytes of the current TSS are within its limit (`spec/22_protection.md` R263); the exception is that of
R685 (log 24). -/
def tssHolds (n : Nat) : B Unit := do
  let c ← regs
  raiseIf (n > c.tr.limit.toNat + 1) (.ts (selCode c.tr.sel))

/-- Write fields (offset, bytes, value) of a TSS. -/
def writeFields (p : Phys) (fields : List (Nat × Nat × Nat)) : B Unit :=
  match fields with
  | [] => pure ()
  | (off, n, v) :: t => do
    writePhys (p.part off n) (leBytes n v)
    writeFields p t

/-- Step 8 of R700: the fields saved in the old TSS (R683, R708). -/
def savedFields (c : Cpu) (img : Eflags) (eip : W32) (cs : W16) (wide : Bool) : List (Nat × Nat × Nat) :=
  let g := c.gpr
  let regs := [eip, img.toBits, g.eax, g.ecx, g.edx, g.ebx, g.esp, g.ebp, g.esi, g.edi]
  let segs := [c.seg.es.sel, cs, c.seg.ss.sel, c.seg.ds.sel] ++ if wide then [c.seg.fs.sel, c.seg.gs.sel] else []
  let w := if wide then 4 else 2
  regs.zipIdx.map (fun (v, i) => ((if wide then 32 else 14) + w * i, w, v.toNat))
    ++ segs.zipIdx.map fun (v, i) => ((if wide then 72 else 34) + w * i, 2, v.toNat)

/-- A field of the new TSS. -/
def tssField (bytes : List Byte) (off n : Nat) : Nat := leNat ((bytes.drop off).take n)

/-- After the commit point an exception keeps what the switch has done (R700). -/
def inNewTask {α : Type} (x : M α) : M α := fun s =>
  match x s with
  | .error (.exc e) t => .error (.exc { e with commit := true }) t
  | y => y

/-- A 16-bit register of a 16-bit TSS; the upper half is a free value (U20; log 24). -/
def halfFree (v : Nat) : B W32 := do return (← free).extractLsb' 16 16 ++ BitVec.ofNat 16 v

/-- FS and GS after a switch to a 16-bit task: free values (U21; log 24). -/
def freeSeg : B SegReg := do
  let sel ← free
  let base ← free
  let limit ← free
  let a ← free
  return { sel := sel.extractLsb' 0 16, base, limit, typ := a.extractLsb' 0 4, s := bit a 4, dpl := a.extractLsb' 5 2
           p := bit a 7, avl := bit a 8, db := bit a 9, g := bit a 10, unusable := bit a 11 }

/-- The general registers of the new task. -/
def taskGprs (bytes : List Byte) (wide : Bool) : B Gprs := do
  let f (i : Nat) : B W32 :=
    if wide then pure (BitVec.ofNat 32 (tssField bytes (40 + 4 * i) 4)) else halfFree (tssField bytes (18 + 2 * i) 2)
  return { eax := ← f 0, ecx := ← f 1, edx := ← f 2, ebx := ← f 3, esp := ← f 4, ebp := ← f 5, esi := ← f 6
           edi := ← f 7 }

/-- Load CR3 on a switch (D31): the translations that are not global go, and with PAE paging the four
page-directory-pointer entries are read (D10). If one is bad, the #GP(0) that D10 names is delivered with the new CR3 and
the old four entries: D10 does not say with which, and this is the model's choice (log 24). Translations may be loaded from
the old tables, as the switch has left them, just before it (`spec/21_paging.md` R236, `spec/24_caches_mtrr.md` R397). -/
def taskCr3 (v : W32) : M Unit := do
  onBus speculate
  modCpu fun c => { c with ctl.cr3 := v }
  onBus (modBus Bus.flushLocal)
  let c ← getCpu
  if c.pg && bit c.ctl.cr4 5 then
    let (a, b, d, e) ← onBus (readPdptes v)
    modCpu fun c => { c with ctl.pdpte0 := a, ctl.pdpte1 := b, ctl.pdpte2 := d, ctl.pdpte3 := e }

/-- Rows 6 and 11 of Table 6-1: the LDT descriptor of the new task, if it has one. A selector of an LDT that is not
present leaves LDTR unusable, so that a selector of SS in it fails at row 8, before row 11 (log 24). -/
def taskLdt (s : W16) : M (Option Desc) := do
  if selNull s then return none
  let d ← onBus do
    raiseIf (selTi s) (.ts (selCode s))
    let d ← fetchOr s (.ts (selCode s))
    raiseIf (!d.isSys [2]) (.ts (selCode s))
    return d
  if d.p then modCpu fun c => { c with ldtr := d.reg s }
  return some d

/-- Row 11 of Table 6-1. -/
def taskLdtPresent (s : W16) (d : Option Desc) : B Unit :=
  raiseIf (d.any fun d => !d.p) (.ts (selCode s))

/-- Row 7 of Table 6-1. -/
def taskCodeLevel (cs : W16) : B Unit := do
  if !selNull cs then
    match ← fetchDesc cs with
    | none => pure ()
    | some d =>
      raiseIf (d.isCode && (if d.conforming then d.dpl.toNat > (selRpl cs).toNat else d.dpl != selRpl cs))
        (.ts (selCode cs))

/-- Rows 8 to 10 of Table 6-1. -/
def taskStack (ss : W16) : B Desc := do
  let c ← regs
  raiseIf (selNull ss) (.ts (selCode ss))
  let d ← fetchOr ss (.ts (selCode ss))
  raiseIf (!d.writable) (.ts (selCode ss))
  raiseIf (!d.p) (.ss (selCode ss))
  raiseIf (d.dpl != c.cpl) (.ts (selCode ss))
  return d

/-- Rows 12 and 13 of Table 6-1. -/
def taskCode (cs : W16) : B Desc := do
  raiseIf (selNull cs) (.ts (selCode cs))
  let d ← fetchOr cs (.ts (selCode cs))
  raiseIf (!d.isCode) (.ts (selCode cs))
  raiseIf (!d.p) (.np (selCode cs))
  return d

/-- Rows 15 to 18 of Table 6-1, for one data-segment register; the next register follows when all four rows of this one
have passed (log 24). -/
def taskData (sr : Seg) (s : W16) : M Unit := do
  if !selNull s then
    let v ← onBus do
      let c ← regs
      let d ← fetchOr s (.ts (selCode s))
      raiseIf (!d.readable) (.ts (selCode s))
      raiseIf (!d.p) (.np (selCode s))
      raiseIf (!d.conforming && d.dpl.toNat < c.cpl.toNat) (.ts (selCode s))
      setAccessed d
      return d.reg s
    modCpu (·.setSeg sr v)

/-- The selectors of the new task. -/
structure TaskSels where
  es : W16
  cs : W16
  ss : W16
  ds : W16
  fs : W16
  gs : W16
  ldt : W16
  deriving DecidableEq, Repr

/-- The selectors in a TSS (R683, R708). -/
def taskSels (bytes : List Byte) (wide : Bool) : TaskSels :=
  let f (i : Nat) : W16 := BitVec.ofNat 16 (if wide then tssField bytes (72 + 4 * i) 2 else tssField bytes (34 + 2 * i) 2)
  if wide then { es := f 0, cs := f 1, ss := f 2, ds := f 3, fs := f 4, gs := f 5, ldt := f 6 }
  else { es := f 0, cs := f 1, ss := f 2, ds := f 3, fs := 0#16, gs := 0#16, ldt := f 4 }

/-- Load and check the segment registers of the new task, in the order of Table 6-1 (R701, R824), and cut EIP to the size
of the code segment, before its check against the limit (log 56). -/
def taskSegments (t : TaskSels) (wide : Bool) : M Unit := do
  let ldt ← taskLdt t.ldt
  if (← getCpu).fl.vm then
    onBus (taskLdtPresent t.ldt ldt)
    modCpu fun c => { c with
      seg := { es := .v86 t.es, cs := .v86 t.cs, ss := .v86 t.ss, ds := .v86 t.ds, fs := .v86 t.fs, gs := .v86 t.gs } }
  else
    onBus (taskCodeLevel t.cs)
    let ss ← onBus (taskStack t.ss)
    onBus (taskLdtPresent t.ldt ldt)
    let cs ← onBus (taskCode t.cs)
    onBus (setAccessed cs)
    modCpu (·.setSeg .cs (cs.reg t.cs))
    onBus (raiseIf (ss.dpl != selRpl t.ss) (.ts (selCode t.ss)))
    onBus (setAccessed ss)
    modCpu (·.setSeg .ss (ss.reg t.ss))
    taskData .ds t.ds
    taskData .es t.es
    if wide then
      taskData .fs t.fs
      taskData .gs t.gs
  modCpu fun c => { c with eip := c.seg.cs.cutEip c.eip }
  let c ← getCpu
  onBus (checkEip c.eip c.seg.cs.limit)

/-- Steps 9 to 13 of R700: the state of the new task, from the bytes of its TSS. The image in the TSS decides VM whatever
CPL is, and the IP of a 16-bit TSS leaves EIP[31:16] 0 (log 24). A debug trap of the new task joins those held over from
before (`spec/65_debug_and_perfmon.md` R1240). The model's choices where a check of the new task fails (log 24): the segment
registers that have not passed theirs yet hold the new selectors, are all unusable and keep the old base and limit, where
`spec/61_exception_reference.md` R970 says that they may not be usable; and the trap of the T flag (R688) is not raised. -/
def loadTask (kind : TaskKind) (s : W16) (d : Desc) (bytes : List Byte) : M Unit := do
  let wide := wideTss d.typ
  let t := taskSels bytes wide
  let g ← onBus (taskGprs bytes wide)
  let flags := Eflags.ofBits (BitVec.ofNat 32 (if wide then tssField bytes 36 4 else tssField bytes 16 2))
  let fl := if kind.nests then { flags with nt := true } else flags
  let eip := BitVec.ofNat 32 (if wide then tssField bytes 32 4 else tssField bytes 14 2)
  let fs ← if wide then pure ((← getCpu).seg.fs.nulled t.fs) else onBus freeSeg
  let gs ← if wide then pure ((← getCpu).seg.gs.nulled t.gs) else onBus freeSeg
  modCpu fun c => { c with
    gpr := g, fl, eip
    cpl := if fl.vm then 3#2 else selRpl t.cs
    tr := { d.reg s with typ := d.typ ||| 2#4 }
    ldtr := c.ldtr.nulled t.ldt
    ctl.cr0 := c.ctl.cr0 ||| 8#32
    dbg.dr7 := c.dbg.dr7 &&& 0xFFFFFFAA#32
    seg := { es := c.seg.es.nulled t.es, cs := c.seg.cs.nulled t.cs, ss := c.seg.ss.nulled t.ss
             ds := c.seg.ds.nulled t.ds, fs, gs }
    notes.keepRf := true }
  if wide then taskCr3 (BitVec.ofNat 32 (tssField bytes 28 4))
  taskSegments t wide
  if wide && (tssField bytes 100 1).testBit 0 then
    modCpu fun c => { c with hid.pendingDb := joinTraps { b := 0#4, bs := false, bt := true } c.hid.pendingDb }

/-- The offset of a selector's descriptor in its table. -/
def tableOffset (s : W16) : W32 := BitVec.ofNat 32 (8 * (s.extractLsb' 3 13).toNat)

/-- The access-rights byte of the descriptor at a linear address, ready to be written (R705). -/
def busyByte (la : W32) : B Phys := do checkRange (← physical (la + 5#32) 1 true false)

/-- Change the busy flag of a TSS descriptor, where there is one to change, in a locked operation (R705,
`spec/23_ordering.md` R342). -/
def changeBusy (p : Option Phys) (f : Nat → Nat) : B Unit :=
  match p with
  | none => pure ()
  | some p => lockedByte p f

/-- TaskSwitch (R700): to the task named by selector `s`. `img` is the image of EFLAGS, `eip` and `cs` the pointer,
that the old task's TSS gets. The busy flag of the old task is cleared where TR's selector names its descriptor, with no
test of the limit of the GDT; a null selector in TR names none, entry 0 of the GDT being never used
(`spec/20_memory.md` R153), and no flag is cleared then: the model's choices (log 24). -/
def taskSwitch (kind : TaskKind) (s : W16) (img : Eflags) (eip : W32) (cs : W16) : M Unit := do
  let c ← getCpu
  let d ← onBus (checkTss kind s)
  let oldWide := wideTss c.tr.typ
  onBus (tssHolds (tssSize oldWide))
  let old ← onBus (tssPhys c.tr.base (tssSize oldWide) true)
  let new ← onBus (tssPhys d.base (tssSize (wideTss d.typ)) kind.nests)
  let oldBusy ← onBus (if kind.nests || selNull c.tr.sel then pure none
    else some <$> busyByte (c.gdtr.base + tableOffset c.tr.sel))
  let newBusy ← onBus (if kind = .iret then pure none else some <$> busyByte d.la)
  onBus (changeBusy oldBusy (· &&& 0xFD))
  let img := if kind = .iret then { img with nt := false } else img
  onBus (writeFields old (savedFields c img eip cs oldWide))
  if kind.nests then onBus (writeFields new [(0, 2, c.tr.sel.toNat)])
  onBus (changeBusy newBusy (· ||| 2))
  let bytes ← onBus (readPhys new)
  refetch
  inNewTask (loadTask kind s d bytes)

end Sys2Proof.Machine
end

