-- ==== Sys2Proof/Machine/Ops.lean ====
section
/-!
DEFINITION. Taking an exception or interrupt, as one shared operation, and the return from one
(`spec/60_exceptions.md` R907 to R917, `spec/45_v86_and_16bit.md` R806 to R849, `spec/42_control_transfer.md` R640).
-/
namespace Sys2Proof.Machine

/-- The classes of the double-fault rule (`spec/60_exceptions.md` R916). -/
inductive ExcClass where
  | benign
  | contributory
  | pageFault
  deriving DecidableEq, Repr

/-- The class of an exception (`spec/60_exceptions.md` R916). -/
def excClass (vec : Byte) : ExcClass :=
  if vec = 14#8 then .pageFault
  else if vec = 0#8 ∨ vec = 10#8 ∨ vec = 11#8 ∨ vec = 12#8 ∨ vec = 13#8 then .contributory
  else .benign

/-- Does the second event raise #DF (`spec/60_exceptions.md` R916)? -/
def doubles (first second : ExcClass) : Bool :=
  match first, second with
  | .contributory, .contributory => true
  | .pageFault, .contributory => true
  | .pageFault, .pageFault => true
  | _, _ => false

/-- An event to deliver (`spec/60_exceptions.md` R910). -/
structure Delivery where
  vec : Byte
  /-- Caused by INT n, INT 3 or INTO. -/
  soft : Bool
  /-- External to the program. -/
  ext : Bool
  /-- An external interrupt or an NMI itself, not an exception on the way to its handler. -/
  irq : Bool
  code : Option W32
  /-- The pointer that is saved. -/
  retEip : W32
  cs : W16
  /-- RF is set in the saved image (`spec/65_debug_and_perfmon.md` R1232). -/
  rf : Bool
  /-- The offset recorded as the place of the event (`spec/65_debug_and_perfmon.md` R1250). -/
  src : W32
  cls : ExcClass
  /-- This is the double fault. -/
  df : Bool
  deriving DecidableEq, Repr

/-- An exception raised at the instruction the registers point to. Fault class: RF is set in the image, but not for
an instruction breakpoint (`spec/65_debug_and_perfmon.md` R1232). -/
def Delivery.ofExc (e : Exc) (ext : Bool) (c : Cpu) : Delivery :=
  { vec := e.vec, soft := false, ext, irq := false, code := e.code, retEip := c.eip, cs := c.seg.cs.sel
    rf := e.vec != 1#8 || bit e.dr6 13, src := c.eip, cls := excClass e.vec, df := false }

/-- An external interrupt or a trap at an instruction boundary. -/
def Delivery.event (vec : Byte) (ext : Bool) (c : Cpu) : Delivery :=
  { vec, soft := false, ext, irq := ext, code := none, retEip := c.eip, cs := c.seg.cs.sel, rf := false, src := c.eip
    cls := .benign, df := false }

/-- A software interrupt, whose pointer is already past the instruction (`spec/42_control_transfer.md` R634). -/
def Delivery.software (vec : Byte) (c : Cpu) : Delivery :=
  { vec, soft := true, ext := false, irq := false, code := none, retEip := c.eip, cs := c.seg.cs.sel, rf := false
    src := c.notes.start, cls := .benign, df := false }

/-- The double fault; its saved CS and EIP are free values (U15; log 23). -/
def Delivery.double (ext : Bool) (c : Cpu) (eip cs : W32) : Delivery :=
  { vec := 8#8, soft := false, ext, irq := false, code := some 0#32, retEip := eip, cs := cs.extractLsb' 0 16, rf := false
    src := c.eip, cls := .benign, df := true }

/-- The image of EFLAGS that is saved. -/
def Delivery.image (d : Delivery) (c : Cpu) : Eflags := { c.fl with rf := c.fl.rf || d.rf }

/-- The error code that names IDT vector v (`spec/60_exceptions.md` R912). -/
def idtCode (v : Byte) : W32 := v.setWidth 32 * 8#32 + 2#32

/-- Delivery through the table of real-address mode (`spec/45_v86_and_16bit.md` R806, R807). -/
def deliverReal (d : Delivery) : M Unit := do
  let c ← getCpu
  onBus (raiseIf (4 * d.vec.toNat + 3 > c.idtr.limit.toNat) (.gp (idtCode d.vec)))
  push ((d.image c).toBits.extractLsb' 0 16)
  push d.cs
  push (d.retEip.extractLsb' 0 16)
  let entry ← onBus (sysRead (c.idtr.base + 4#32 * d.vec.setWidth 32) 4)
  let e : W32 := BitVec.ofNat 32 entry
  modCpu fun c => { c with
    fl := { c.fl with if_ := false, tf := false, rf := false, ac := false }
    seg.cs := c.seg.cs.paragraph (e.extractLsb' 16 16)
    eip := (e.extractLsb' 0 16).setWidth 32 }

/-- The gate of a vector, with the checks on it (`spec/60_exceptions.md` R908 to R911). -/
def idtGate (d : Delivery) : B Desc := do
  let c ← regs
  let code := idtCode d.vec
  raiseIf (8 * d.vec.toNat + 7 > c.idtr.limit.toNat) (.gp code)
  let g ← descAt (c.idtr.base + 8#32 * d.vec.setWidth 32)
  raiseIf (!g.isSys [5, 6, 7, 14, 15]) (.gp code)
  raiseIf (d.soft && c.cpl.toNat > g.dpl.toNat) (.gp code)
  raiseIf (!g.p) (.np code)
  raiseIf (c.fl.vm && g.isSys [6, 7]) (.gp code)
  return g

/-- The code segment that a gate names (`spec/60_exceptions.md` R910, `spec/45_v86_and_16bit.md` R840). -/
def handlerCode (g : Desc) : B Desc := do
  let c ← regs
  let s := g.gateSel
  raiseIf (selNull s) (.gp 0#32)
  let d ← fetchOr s (.gp (selCode s))
  raiseIf (!d.isCode || d.dpl.toNat > c.cpl.toNat || (c.fl.vm && (d.conforming || d.dpl != 0#2))) (.gp (selCode s))
  raiseIf (!d.p) (.np (selCode s))
  return d

/-- The bits of an error code that are not reserved: the low 16 (`spec/60_exceptions.md` R912), of #PF the low 4
(`spec/61_exception_reference.md` R974). -/
def Delivery.codeMask (d : Delivery) : W32 := if d.vec = 14#8 then 0xF#32 else 0xFFFF#32

/-- A value whose bits outside the mask are those of `x`. -/
def withReserved (mask v x : W32) : W32 := (v &&& mask) ||| (x &&& ~~~mask)

/-- Push the error code, if there is one. Its reserved bits are a free value (`spec/00_scope.md` R17, U1; log 64). -/
def pushCode (osz : OpSize) (d : Delivery) : M Unit :=
  match d.code with
  | none => pure ()
  | some v => do
    let f ← onBus free
    pushW osz (withReserved d.codeMask v f)

/-- The flags in the handler (`spec/60_exceptions.md` R910). -/
def Eflags.inHandler (f : Eflags) (g : Desc) : Eflags :=
  { f with tf := false, vm := false, rf := false, nt := false, if_ := f.if_ && g.typ.getLsbD 0 }

/-- Push the image of EFLAGS and the pointer, then the error code. -/
def pushFrame (osz : OpSize) (d : Delivery) (img : Eflags) : M Unit := do
  pushW osz img.toBits
  pushSel osz d.cs
  pushW osz d.retEip
  pushCode osz d

/-- The number of slots of the error code. -/
def codeSlots (d : Delivery) : Nat := if d.code.isSome then 1 else 0

/-- From virtual-8086 mode with CR4.VME = 1 and IOPL < 3 the image holds IOPL 3, and VIF in the place of IF
(`spec/45_v86_and_16bit.md` R844, D114). -/
def v86Image (c : Cpu) (f : Eflags) : Eflags :=
  if bit c.ctl.cr4 0 && c.fl.iopl != 3#2 then { f with iopl := 3#2, if_ := f.vif } else f

/-- Delivery through an interrupt or trap gate from virtual-8086 mode (`spec/45_v86_and_16bit.md` R840). -/
def deliverV86 (d : Delivery) (g t : Desc) : M Unit := do
  let c ← getCpu
  let st ← onBus (innerStack 0#2)
  onBus (roomOn st (4 * (9 + codeSlots d)))
  onBus (checkEip g.gateOff t.limit)
  switchStack 0#2 st
  modFl fun f => { f with vm := false }
  pushSel .w32 c.seg.gs.sel
  pushSel .w32 c.seg.fs.sel
  pushSel .w32 c.seg.ds.sel
  pushSel .w32 c.seg.es.sel
  pushSel .w32 c.seg.ss.sel
  push c.gpr.esp
  pushFrame .w32 d (v86Image c (d.image c))
  modCpu fun c => { c with
    seg.gs := c.seg.gs.nulled 0#16, seg.fs := c.seg.fs.nulled 0#16
    seg.ds := c.seg.ds.nulled 0#16, seg.es := c.seg.es.nulled 0#16 }
  loadCs g.gateSel t 0#2 g.gateOff
  modFl (·.inHandler g)

/-- Delivery to a handler at the same level, or at an inner one on its own stack (`spec/60_exceptions.md` R910). -/
def deliverGate (d : Delivery) (g t : Desc) : M Unit := do
  let c ← getCpu
  let osz := g.gateSize
  if !t.conforming && t.dpl.toNat < c.cpl.toNat then
    let st ← onBus (innerStack t.dpl)
    onBus (roomOn st (osz.bytes * (5 + codeSlots d)))
    onBus (checkEip g.gateOff t.limit)
    switchStack t.dpl st
    pushSel osz c.seg.ss.sel
    pushW osz c.gpr.esp
    pushFrame osz d (d.image c)
    loadCs g.gateSel t t.dpl g.gateOff
  else
    onBus (stackRoom (osz.bytes * (3 + codeSlots d)))
    onBus (checkEip g.gateOff t.limit)
    pushFrame osz d (d.image c)
    loadCs g.gateSel t c.cpl g.gateOff
  modFl (·.inHandler g)

/-- Delivery through a task gate (`spec/60_exceptions.md` R914). -/
def deliverTask (d : Delivery) (g : Desc) : M Unit := do
  let c ← getCpu
  taskSwitch .int g.gateSel (d.image c) d.retEip d.cs
  let c ← getCpu
  inNewTask (pushCode (if wideTss c.tr.typ then .w32 else .w16) d)

/-- Delivery in protected mode (`spec/60_exceptions.md` R910). -/
def deliverProt (d : Delivery) : M Unit := do
  let c ← getCpu
  let g ← onBus (idtGate d)
  if g.isSys [5] then deliverTask d g
  else
    let t ← onBus (handlerCode g)
    if c.fl.vm then deliverV86 d g t else deliverGate d g t

/-- An exception raised while an external event is delivered has EXT set in its error code (`spec/60_exceptions.md`
R910, R912; log 48); #PF and #AC have codes of their own form. -/
def Exc.withExt (e : Exc) (ext : Bool) : Exc :=
  if ext && e.vec != 14#8 && e.vec != 17#8 then { e with code := e.code.map (· ||| 1#32) } else e

/-- Run with EXT in the error codes. -/
def markExt (ext : Bool) (x : M Unit) : M Unit := fun s =>
  match x s with
  | .error (.exc e) t => .error (.exc (e.withExt ext)) t
  | y => y

/-- A #DB, from whatever cause (`spec/61_exception_reference.md` R961; INT 1: log 44). -/
def Delivery.isDebug (d : Delivery) : Bool := d.vec == 1#8 && !d.ext

/-- What a delivery leaves behind besides the transfer: what #DB does to the debug registers
(`spec/65_debug_and_perfmon.md` R1239), or the record of the event (R1250). It ends ss_shadow and the STI delay, also where
the event is an exception of the instruction that they shadow: R113 and R905 say only that they end after that instruction
completes, and this is the model's choice (log 61). -/
def Cpu.afterDelivery (c : Cpu) (d : Delivery) : Cpu :=
  let c := { c with notes.branched := true, hid.ssShadow := false, hid.stiShadow := false }
  if d.isDebug then
    { c with dbg.dr7 := c.dbg.dr7 &&& 0xFFFFDFFF#32, msr.debugCtl := c.msr.debugCtl &&& 0xFFFFFFFFFFFFFFFC#64 }
  else c.recordException d.src c.eip

/-- Deliver one event (`spec/60_exceptions.md` R910). In SMM an exception or a software interrupt is delivered only once
LIDT has loaded a table (`spec/63_smm.md` R1138, U72; log 22). The transfer counts as a jump for later fetches (log 13). -/
def deliverOnce (d : Delivery) : M Unit := do
  let c ← getCpu
  if c.smm.inSmm && !c.smm.lidtDone && !d.irq then throw (.refuse .smmNoTable)
  markExt d.ext (if c.pe then deliverProt d else deliverReal d)
  modCpu (·.afterDelivery d)
  refetch

/-- What an exception writes before it is delivered: CR2 (`spec/61_exception_reference.md` R974) and DR6
(`spec/65_debug_and_perfmon.md` R1239). -/
def Cpu.beforeDelivery (c : Cpu) (e : Exc) : Cpu :=
  { c with ctl.cr2 := e.cr2.getD c.ctl.cr2, dbg.dr6 := c.dbg.dr6 ||| e.dr6 }

/-- Deliver an event; an exception raised on the way is delivered in its place, or becomes #DF, or shuts the
processor down (`spec/60_exceptions.md` R916, R917). `fuel` bounds a chain of benign exceptions that never ends:
then nothing is delivered and the instruction is tried again. -/
def deliver : Nat → Delivery → M Unit
  | fuel, d => fun s =>
    match deliverOnce d s with
    | .error (.exc e) t =>
      let base := if e.commit then t.cpu else s.cpu
      let c := base.beforeDelivery e
      if d.df then .ok () { cpu := { c with hid.run := .shutdown }, bus := t.bus }
      else
        match fuel with
        | 0 => .ok () { cpu := base, bus := t.bus }
        | n + 1 =>
          if doubles d.cls (excClass e.vec) then
            let b := { t.bus with freeCtr := t.bus.freeCtr + 2 }
            deliver n (.double d.ext c (Config.freeWord t.bus.freeCtr) (Config.freeWord (t.bus.freeCtr + 1)))
              { cpu := c, bus := b }
          else deliver n (.ofExc e d.ext c) { cpu := c, bus := t.bus }
    | r => r

/-- The bound on nested deliveries (log 43). -/
def deliverFuel : Nat := 6

/-- Take an exception at the instruction that the registers point to (`spec/60_exceptions.md` R897). An SMI that follows is
no longer taken right after an I/O instruction (`spec/63_smm.md` R1145). -/
def takeException (e : Exc) : M Unit := do
  modCpu fun c => { c.beforeDelivery e with notes.faulted := true, notes.ioEip := none }
  deliver deliverFuel (.ofExc e false (← getCpu))

/-- Take an interrupt, or a trap, at an instruction boundary. An SMI that follows is no longer taken right after an I/O
instruction (`spec/63_smm.md` R1145). -/
def takeEvent (vec : Byte) (ext : Bool) : M Unit := do
  modCpu fun c => { c with notes.faulted := true, notes.ioEip := none }
  deliver deliverFuel (.event vec ext (← getCpu))

/-- NMIs are enabled again (`spec/60_exceptions.md` R901, `spec/63_smm.md` R1139). -/
def Cpu.nmiEnabled (c : Cpu) : Cpu := { c with hid.nmiBlocked := false, smm.nmiBlockedBySmm := false }

/-- A serializing instruction (`spec/23_ordering.md` R353): later fetches see the stores so far. -/
def serialize : M Unit := onBus (modBus Bus.serialized)

/-- Load CS:EIP in real-address or virtual-8086 mode (`spec/42_control_transfer.md` R645). -/
def farReal (s : W16) (eip : W32) : M Unit := do
  let c ← getCpu
  onBus (checkEip eip c.seg.cs.limit)
  refetch
  modCpu fun c => { c with seg.cs := c.seg.cs.paragraph s, eip }

/-- IRET that pops EIP, CS and the flags of `mask`, slot by slot, without a check of privilege
(`spec/45_v86_and_16bit.md` R808, R828). -/
def iretReal (osz : OpSize) (mask : W32) : M Unit := do
  let n := osz.bytes
  let eip ← peekW osz 0
  let cs ← peekW osz n
  let img ← peekW osz (2 * n)
  farReal (cs.extractLsb' 0 16) (truncEip osz eip)
  release (3 * n)
  modFl fun f => f.merge (.ofBits img) mask

/-- The 16-bit IRET of a virtual-8086 task with IOPL < 3 and CR4.VME = 1 (`spec/45_v86_and_16bit.md` R849; log 35). -/
def iretVme : M Unit := do
  let eip ← peekW .w16 0
  let cs ← peekW .w16 2
  let img ← peekW .w16 4
  let c ← getCpu
  onBus (raiseIf (bit img 9 && c.fl.vip) (.gp 0#32))
  farReal (cs.extractLsb' 0 16) eip
  release 6
  modFl fun f => { f.merge (.ofBits img) 0xCFFF#32 with vif := bit img 9 }

/-- The flags that IRET writes in protected mode (`spec/42_control_transfer.md` R641). -/
def iretMask (c : Cpu) (osz : OpSize) : W32 :=
  0x4DD5#32 ||| (if c.cpl.toNat ≤ c.fl.iopl.toNat then 0x200#32 else 0#32)
    ||| (if c.cpl = 0#2 then 0x3000#32 else 0#32)
    ||| (match osz with
        | .w16 => 0#32
        | .w32 => 0x250000#32 ||| (if c.cpl = 0#2 then 0x1A0000#32 else 0#32))

/-- IRETD to a virtual-8086 task (`spec/45_v86_and_16bit.md` R835). -/
def iretToV86 (eip cs img : W32) : M Unit := do
  onBus (stackHolds 0 36)
  let esp ← peekW .w32 12
  let ss ← peekW .w32 16
  let es ← peekW .w32 20
  let ds ← peekW .w32 24
  let fs ← peekW .w32 28
  let gs ← peekW .w32 32
  modCpu fun c => { c with
    fl := .ofBits img, cpl := 3#2, eip := eip &&& 0xFFFF#32, gpr.esp := esp
    seg := { es := .v86 (es.extractLsb' 0 16), cs := .v86 (cs.extractLsb' 0 16), ss := .v86 (ss.extractLsb' 0 16)
             ds := .v86 (ds.extractLsb' 0 16), fs := .v86 (fs.extractLsb' 0 16)
             gs := .v86 (gs.extractLsb' 0 16) } }

/-- A return to an outer level (`spec/42_control_transfer.md` R628, R640): CS:EIP, then SS and the stack pointer, which
are k bytes above the top of the stack; `extra` more bytes are skipped on the outer stack. A 16-bit return loads SP alone;
with `loose`, ESP[31:16] is a free value on a 32-bit stack (U112; log 11). -/
def returnOuter (loose : Bool) (osz : OpSize) (cs : W16) (d : Desc) (eip : W32) (k : Nat) (extra : W32) : M Unit := do
  let n := osz.bytes
  let newCpl := selRpl cs
  onBus (stackHolds k (2 * n))
  let esp ← peekW osz k
  let ss := (← peekW osz (k + n)).extractLsb' 0 16
  let sd ← onBus (stackSegment ss newCpl .gp)
  onBus (checkEip eip d.limit)
  loadCs cs d newCpl eip
  onBus (setAccessed sd)
  modCpu fun c => (c.setSeg .ss (sd.reg ss)).putSp (bit sd.dw2 22 && osz == .w32) (esp + extra)
  loosenEsp (loose && bit sd.dw2 22)
  modCpu (·.nullInner newCpl)

/-- IRET in protected mode, within the task (`spec/42_control_transfer.md` R640). -/
def iretProt (osz : OpSize) : M Unit := do
  let c ← getCpu
  let n := osz.bytes
  onBus (stackHolds 0 (3 * n))
  let eip := truncEip osz (← peekW osz 0)
  let csW ← peekW osz n
  let cs := csW.extractLsb' 0 16
  let img ← peekW osz (2 * n)
  if osz = .w32 ∧ bit img 17 ∧ c.cpl = 0#2 then iretToV86 eip csW img
  else
    let d ← onBus (returnCode cs)
    if selRpl cs = c.cpl then
      onBus (checkEip eip d.limit)
      release (3 * n)
      loadCs cs d c.cpl eip
    else
      onBus (stackHolds 0 (5 * n))
      returnOuter (osz == .w16) osz cs d eip (3 * n) 0#32
    modFl fun f => f.merge (.ofBits img) (iretMask c osz)

/-- IRET (`spec/42_control_transfer.md` R640, R703). A switch to another task saves in the old one the offset of the instruction
after the IRET: step 8 of `spec/43_task_management.md` R700 names the saved EIP for the other causes of a switch only, and this
is the model's choice (log 24). -/
def iret (osz : OpSize) : M Unit := do
  let c ← getCpu
  modCpu (·.nmiEnabled)
  if !c.pe then
    iretReal osz (match osz with
      | .w16 => 0xFFFF#32
      | .w32 => 0x257FD5#32)
  else if c.fl.vm then
    if c.fl.iopl = 3#2 then
      iretReal osz (match osz with
        | .w16 => 0xCFFF#32
        | .w32 => 0x254FD5#32)
    else if bit c.ctl.cr4 0 && osz = .w16 then iretVme
    else raise (.gp 0#32)
  else if c.fl.nt then
    onBus (tssHolds 2)
    let link ← onBus (sysRead c.tr.base 2)
    taskSwitch .iret (BitVec.ofNat 16 link) c.fl c.eip c.seg.cs.sel
  else iretProt osz
  modCpu fun c => { c with notes.keepRf := c.notes.keepRf || osz == .w32 }
  serialize

/-- How an instruction that did not complete ends. An exception leaves the registers as they were before the
instruction, unless it arose in a new task, and keeps what was written to memory (D126; log 27). An instruction that
execution stops before has done nothing: it is tried again (`spec/44_fpu_mmx_sse_system.md` R745; what becomes of ss_shadow
and of the STI delay: `Cpu.dropShadows`). -/
def stopped (s t : State) : Stop → Host.Outcome State Fault Refusal
  | .fault f => .fault f
  | .refuse r => .refused r
  | .wait => .next { cpu := { s.cpu with notes.faulted := true }, bus := t.bus }
  | .exc e =>
    match takeException e { cpu := if e.commit then t.cpu else s.cpu, bus := t.bus } with
    | .ok _ u => .next u
    | .error (.fault f) _ => .fault f
    | .error (.refuse r) _ => .refused r
    | .error (.exc _) u => .next u
    | .error .wait u => .next u

/-- Run the meaning of an instruction; EIP points past it unless the meaning changes it. -/
def runInstr (x : M Unit) (s : State) : Host.Outcome State Fault Refusal :=
  match x { s with cpu := { s.cpu with eip := s.cpu.nextEip } } with
  | .ok _ t => .next t
  | .error e t => stopped s t e

end Sys2Proof.Machine
end

