-- ==== Sys2Proof/Machine/Arith.lean ====
section
/-!
DEFINITION. Arithmetic and logic (`spec/46_general_subset.md` R585 to R593, R599, R602). A LOCK prefix makes the
read-modify-write of a memory operand indivisible (`spec/23_ordering.md` R343, R344; log 28).
-/
namespace Sys2Proof.Machine

/-- `r/m8 <- r/m8 op src`; CMP only reads. -/
def aluRm8 (lock : Bool) (op : Alu) (rm : Rm8) (src : Cpu → Byte) : M Unit :=
  match op with
  | .cmp => do
    let a ← readRm8 rm
    let _ ← alu .cmp a (src (← getCpu))
  | _ => modifyRm8 lock rm fun a => do alu op a (src (← getCpu))

/-- `r/m <- r/m op src`; CMP only reads. -/
def aluRm (lock : Bool) (op : Alu) (osz : OpSize) (rm : Rm) (src : Cpu → BitVec osz.bits) : M Unit :=
  match op with
  | .cmp => do
    let a ← readRm osz rm
    let _ ← alu .cmp a (src (← getCpu))
  | _ => modifyRm lock osz rm fun a => do alu op a (src (← getCpu))

/-- `r8 <- r8 op r/m8`; CMP only compares. -/
def aluR8 (op : Alu) (r : Gpr8) (rm : Rm8) : M Unit := do
  let b ← readRm8 rm
  let v ← alu op ((← getCpu).gpr.get8 r) b
  if op ≠ .cmp then modGpr (·.set8 r v)

/-- `r <- r op r/m`; CMP only compares. -/
def aluR (op : Alu) (osz : OpSize) (r : Gpr) (rm : Rm) : M Unit := do
  let b ← readRm osz rm
  let v ← alu op ((← getCpu).gpr.getV osz r) b
  if op ≠ .cmp then modGpr (·.setV osz r v)

/-- A register source, 8 bits. -/
def srcReg8 (r : Gpr8) (c : Cpu) : Byte := c.gpr.get8 r

/-- A register source. -/
def srcReg (osz : OpSize) (r : Gpr) (c : Cpu) : BitVec osz.bits := c.gpr.getV osz r

/-- A constant source. -/
def srcImm {w : Nat} (v : BitVec w) (_ : Cpu) : BitVec w := v

/-- INC of an r/m8 (R592). -/
def incRm8Op (lock : Bool) (rm : Rm8) : M Unit := modifyRm8 lock rm fun a => do
  modFl (·.inc a)
  return a + 1#8

/-- DEC of an r/m8 (R593). -/
def decRm8Op (lock : Bool) (rm : Rm8) : M Unit := modifyRm8 lock rm fun a => do
  modFl (·.dec a)
  return a - 1#8

/-- INC (R592). -/
def incRmOp (lock : Bool) (osz : OpSize) (rm : Rm) : M Unit := modifyRm lock osz rm fun a => do
  modFl (·.inc a)
  return a + 1#osz.bits

/-- DEC (R593). -/
def decRmOp (lock : Bool) (osz : OpSize) (rm : Rm) : M Unit := modifyRm lock osz rm fun a => do
  modFl (·.dec a)
  return a - 1#osz.bits

/-- TEST (R591): the flags of `a AND b`. -/
def testOp {w : Nat} (a b : BitVec w) : M Unit := do
  let _ ← alu .and a b

/-- The six flags that a division leaves undefined: free values (log 9). -/
def freeStatus : M Unit := do
  let v ← onBus free
  modFl (·.statusFrom v)

/-- The quotient and the remainder of DIV, each of w bits; none for #DE (R599). -/
def divU (w n d : Nat) : Option (BitVec w × BitVec w) :=
  if d = 0 ∨ n / d ≥ 2 ^ w then none else some (BitVec.ofNat w (n / d), BitVec.ofNat w (n % d))

/-- The quotient and the remainder of IDIV, each of w bits; none for #DE (R602). -/
def divS (w : Nat) (n d : Int) : Option (BitVec w × BitVec w) :=
  if d = 0 ∨ n.tdiv d < -(2 ^ (w - 1) : Int) ∨ n.tdiv d ≥ (2 ^ (w - 1) : Int) then none
  else some (BitVec.ofInt w (n.tdiv d), BitVec.ofInt w (n.tmod d))

/-- Write a quotient and a remainder to AL and AH, or raise #DE (R599). -/
def divResult8 (r : Option (Byte × Byte)) : M Unit :=
  match r with
  | none => raise .de
  | some (q, m) => do
    modGpr fun g => (g.set8 .al q).set8 .ah m
    freeStatus

/-- Write a quotient and a remainder to eAX and eDX, or raise #DE (R599). -/
def divResult (osz : OpSize) (r : Option (BitVec osz.bits × BitVec osz.bits)) : M Unit :=
  match r with
  | none => raise .de
  | some (q, m) => do
    modGpr fun g => (g.setV osz .eax q).setV osz .edx m
    freeStatus

/-- The dividend eDX:eAX (R599). -/
def dividend (osz : OpSize) (g : Gprs) : BitVec (osz.bits + osz.bits) := g.getV osz .edx ++ g.getV osz .eax

/-- DIV of AX (R599). -/
def divRm8Op (rm : Rm8) : M Unit := do
  let b ← readRm8 rm
  divResult8 (divU 8 ((← getCpu).gpr.getV .w16 .eax).toNat b.toNat)

/-- IDIV of AX (R602). -/
def idivRm8Op (rm : Rm8) : M Unit := do
  let b ← readRm8 rm
  divResult8 (divS 8 ((← getCpu).gpr.getV .w16 .eax).toInt b.toInt)

/-- DIV of eDX:eAX (R599). -/
def divRmOp (osz : OpSize) (rm : Rm) : M Unit := do
  let b ← readRm osz rm
  divResult osz (divU osz.bits (dividend osz (← getCpu).gpr).toNat b.toNat)

/-- IDIV of eDX:eAX (R602). -/
def idivRmOp (osz : OpSize) (rm : Rm) : M Unit := do
  let b ← readRm osz rm
  divResult osz (divS osz.bits (dividend osz (← getCpu).gpr).toInt b.toInt)

/-- ADD r/m8, r8 (R585). -/
def execAddRm8R8 (lock : Bool) (rm : Rm8) (r : Gpr8) (s : State) : Host.Outcome State Fault Refusal :=
  runInstr (aluRm8 lock .add rm (srcReg8 r)) s

/-- ADD r/m, r (R585). -/
def execAddRmR (lock : Bool) (osz : OpSize) (rm : Rm) (r : Gpr) (s : State) : Host.Outcome State Fault Refusal :=
  runInstr (aluRm lock .add osz rm (srcReg osz r)) s

/-- ADD r8, r/m8 (R585). -/
def execAddR8Rm8 (r : Gpr8) (rm : Rm8) (s : State) : Host.Outcome State Fault Refusal :=
  runInstr (aluR8 .add r rm) s

/-- ADD r, r/m (R585). -/
def execAddRRm (osz : OpSize) (r : Gpr) (rm : Rm) (s : State) : Host.Outcome State Fault Refusal :=
  runInstr (aluR .add osz r rm) s

/-- ADD AL, imm8 (R585). -/
def execAddAlImm8 (imm : Byte) (s : State) : Host.Outcome State Fault Refusal :=
  runInstr (aluRm8 false .add (.reg .al) (srcImm imm)) s

/-- ADD eAX, imm (R585). -/
def execAddEaxImm (imm : ImmV) (s : State) : Host.Outcome State Fault Refusal :=
  runInstr (aluRm false .add imm.size (.reg .eax) (srcImm imm.val)) s

/-- ADD r/m8, imm8 (R585). -/
def execAddRm8Imm8 (lock : Bool) (rm : Rm8) (imm : Byte) (s : State) : Host.Outcome State Fault Refusal :=
  runInstr (aluRm8 lock .add rm (srcImm imm)) s

/-- ADD r/m, imm (R585). -/
def execAddRmImm (lock : Bool) (rm : Rm) (imm : ImmV) (s : State) : Host.Outcome State Fault Refusal :=
  runInstr (aluRm lock .add imm.size rm (srcImm imm.val)) s

/-- ADD r/m, imm8 sign-extended (R585). -/
def execAddRmImm8 (lock : Bool) (osz : OpSize) (rm : Rm) (imm : Byte) (s : State) : Host.Outcome State Fault Refusal :=
  runInstr (aluRm lock .add osz rm (srcImm (imm8To osz imm))) s

/-- OR r/m8, r8 (R589). -/
def execOrRm8R8 (lock : Bool) (rm : Rm8) (r : Gpr8) (s : State) : Host.Outcome State Fault Refusal :=
  runInstr (aluRm8 lock .or rm (srcReg8 r)) s

/-- OR r/m, r (R589). -/
def execOrRmR (lock : Bool) (osz : OpSize) (rm : Rm) (r : Gpr) (s : State) : Host.Outcome State Fault Refusal :=
  runInstr (aluRm lock .or osz rm (srcReg osz r)) s

/-- OR r8, r/m8 (R589). -/
def execOrR8Rm8 (r : Gpr8) (rm : Rm8) (s : State) : Host.Outcome State Fault Refusal :=
  runInstr (aluR8 .or r rm) s

/-- OR r, r/m (R589). -/
def execOrRRm (osz : OpSize) (r : Gpr) (rm : Rm) (s : State) : Host.Outcome State Fault Refusal :=
  runInstr (aluR .or osz r rm) s

/-- OR AL, imm8 (R589). -/
def execOrAlImm8 (imm : Byte) (s : State) : Host.Outcome State Fault Refusal :=
  runInstr (aluRm8 false .or (.reg .al) (srcImm imm)) s

/-- OR eAX, imm (R589). -/
def execOrEaxImm (imm : ImmV) (s : State) : Host.Outcome State Fault Refusal :=
  runInstr (aluRm false .or imm.size (.reg .eax) (srcImm imm.val)) s

/-- OR r/m8, imm8 (R589). -/
def execOrRm8Imm8 (lock : Bool) (rm : Rm8) (imm : Byte) (s : State) : Host.Outcome State Fault Refusal :=
  runInstr (aluRm8 lock .or rm (srcImm imm)) s

/-- OR r/m, imm (R589). -/
def execOrRmImm (lock : Bool) (rm : Rm) (imm : ImmV) (s : State) : Host.Outcome State Fault Refusal :=
  runInstr (aluRm lock .or imm.size rm (srcImm imm.val)) s

/-- OR r/m, imm8 sign-extended (R589). -/
def execOrRmImm8 (lock : Bool) (osz : OpSize) (rm : Rm) (imm : Byte) (s : State) : Host.Outcome State Fault Refusal :=
  runInstr (aluRm lock .or osz rm (srcImm (imm8To osz imm))) s

/-- AND r/m8, r8 (R588). -/
def execAndRm8R8 (lock : Bool) (rm : Rm8) (r : Gpr8) (s : State) : Host.Outcome State Fault Refusal :=
  runInstr (aluRm8 lock .and rm (srcReg8 r)) s

/-- AND r/m, r (R588). -/
def execAndRmR (lock : Bool) (osz : OpSize) (rm : Rm) (r : Gpr) (s : State) : Host.Outcome State Fault Refusal :=
  runInstr (aluRm lock .and osz rm (srcReg osz r)) s

/-- AND r8, r/m8 (R588). -/
def execAndR8Rm8 (r : Gpr8) (rm : Rm8) (s : State) : Host.Outcome State Fault Refusal :=
  runInstr (aluR8 .and r rm) s

/-- AND r, r/m (R588). -/
def execAndRRm (osz : OpSize) (r : Gpr) (rm : Rm) (s : State) : Host.Outcome State Fault Refusal :=
  runInstr (aluR .and osz r rm) s

/-- AND AL, imm8 (R588). -/
def execAndAlImm8 (imm : Byte) (s : State) : Host.Outcome State Fault Refusal :=
  runInstr (aluRm8 false .and (.reg .al) (srcImm imm)) s

/-- AND eAX, imm (R588). -/
def execAndEaxImm (imm : ImmV) (s : State) : Host.Outcome State Fault Refusal :=
  runInstr (aluRm false .and imm.size (.reg .eax) (srcImm imm.val)) s

/-- AND r/m8, imm8 (R588). -/
def execAndRm8Imm8 (lock : Bool) (rm : Rm8) (imm : Byte) (s : State) : Host.Outcome State Fault Refusal :=
  runInstr (aluRm8 lock .and rm (srcImm imm)) s

/-- AND r/m, imm (R588). -/
def execAndRmImm (lock : Bool) (rm : Rm) (imm : ImmV) (s : State) : Host.Outcome State Fault Refusal :=
  runInstr (aluRm lock .and imm.size rm (srcImm imm.val)) s

/-- AND r/m, imm8 sign-extended (R588). -/
def execAndRmImm8 (lock : Bool) (osz : OpSize) (rm : Rm) (imm : Byte) (s : State) : Host.Outcome State Fault Refusal :=
  runInstr (aluRm lock .and osz rm (srcImm (imm8To osz imm))) s

/-- SUB r/m8, r8 (R586). -/
def execSubRm8R8 (lock : Bool) (rm : Rm8) (r : Gpr8) (s : State) : Host.Outcome State Fault Refusal :=
  runInstr (aluRm8 lock .sub rm (srcReg8 r)) s

/-- SUB r/m, r (R586). -/
def execSubRmR (lock : Bool) (osz : OpSize) (rm : Rm) (r : Gpr) (s : State) : Host.Outcome State Fault Refusal :=
  runInstr (aluRm lock .sub osz rm (srcReg osz r)) s

/-- SUB r8, r/m8 (R586). -/
def execSubR8Rm8 (r : Gpr8) (rm : Rm8) (s : State) : Host.Outcome State Fault Refusal :=
  runInstr (aluR8 .sub r rm) s

/-- SUB r, r/m (R586). -/
def execSubRRm (osz : OpSize) (r : Gpr) (rm : Rm) (s : State) : Host.Outcome State Fault Refusal :=
  runInstr (aluR .sub osz r rm) s

/-- SUB AL, imm8 (R586). -/
def execSubAlImm8 (imm : Byte) (s : State) : Host.Outcome State Fault Refusal :=
  runInstr (aluRm8 false .sub (.reg .al) (srcImm imm)) s

/-- SUB eAX, imm (R586). -/
def execSubEaxImm (imm : ImmV) (s : State) : Host.Outcome State Fault Refusal :=
  runInstr (aluRm false .sub imm.size (.reg .eax) (srcImm imm.val)) s

/-- SUB r/m8, imm8 (R586). -/
def execSubRm8Imm8 (lock : Bool) (rm : Rm8) (imm : Byte) (s : State) : Host.Outcome State Fault Refusal :=
  runInstr (aluRm8 lock .sub rm (srcImm imm)) s

/-- SUB r/m, imm (R586). -/
def execSubRmImm (lock : Bool) (rm : Rm) (imm : ImmV) (s : State) : Host.Outcome State Fault Refusal :=
  runInstr (aluRm lock .sub imm.size rm (srcImm imm.val)) s

/-- SUB r/m, imm8 sign-extended (R586). -/
def execSubRmImm8 (lock : Bool) (osz : OpSize) (rm : Rm) (imm : Byte) (s : State) : Host.Outcome State Fault Refusal :=
  runInstr (aluRm lock .sub osz rm (srcImm (imm8To osz imm))) s

/-- XOR r/m8, r8 (R590). -/
def execXorRm8R8 (lock : Bool) (rm : Rm8) (r : Gpr8) (s : State) : Host.Outcome State Fault Refusal :=
  runInstr (aluRm8 lock .xor rm (srcReg8 r)) s

/-- XOR r/m, r (R590). -/
def execXorRmR (lock : Bool) (osz : OpSize) (rm : Rm) (r : Gpr) (s : State) : Host.Outcome State Fault Refusal :=
  runInstr (aluRm lock .xor osz rm (srcReg osz r)) s

/-- XOR r8, r/m8 (R590). -/
def execXorR8Rm8 (r : Gpr8) (rm : Rm8) (s : State) : Host.Outcome State Fault Refusal :=
  runInstr (aluR8 .xor r rm) s

/-- XOR r, r/m (R590). -/
def execXorRRm (osz : OpSize) (r : Gpr) (rm : Rm) (s : State) : Host.Outcome State Fault Refusal :=
  runInstr (aluR .xor osz r rm) s

/-- XOR AL, imm8 (R590). -/
def execXorAlImm8 (imm : Byte) (s : State) : Host.Outcome State Fault Refusal :=
  runInstr (aluRm8 false .xor (.reg .al) (srcImm imm)) s

/-- XOR eAX, imm (R590). -/
def execXorEaxImm (imm : ImmV) (s : State) : Host.Outcome State Fault Refusal :=
  runInstr (aluRm false .xor imm.size (.reg .eax) (srcImm imm.val)) s

/-- XOR r/m8, imm8 (R590). -/
def execXorRm8Imm8 (lock : Bool) (rm : Rm8) (imm : Byte) (s : State) : Host.Outcome State Fault Refusal :=
  runInstr (aluRm8 lock .xor rm (srcImm imm)) s

/-- XOR r/m, imm (R590). -/
def execXorRmImm (lock : Bool) (rm : Rm) (imm : ImmV) (s : State) : Host.Outcome State Fault Refusal :=
  runInstr (aluRm lock .xor imm.size rm (srcImm imm.val)) s

/-- XOR r/m, imm8 sign-extended (R590). -/
def execXorRmImm8 (lock : Bool) (osz : OpSize) (rm : Rm) (imm : Byte) (s : State) : Host.Outcome State Fault Refusal :=
  runInstr (aluRm lock .xor osz rm (srcImm (imm8To osz imm))) s

/-- CMP r/m8, r8 (R587). -/
def execCmpRm8R8 (rm : Rm8) (r : Gpr8) (s : State) : Host.Outcome State Fault Refusal :=
  runInstr (aluRm8 false .cmp rm (srcReg8 r)) s

/-- CMP r/m, r (R587). -/
def execCmpRmR (osz : OpSize) (rm : Rm) (r : Gpr) (s : State) : Host.Outcome State Fault Refusal :=
  runInstr (aluRm false .cmp osz rm (srcReg osz r)) s

/-- CMP r8, r/m8 (R587). -/
def execCmpR8Rm8 (r : Gpr8) (rm : Rm8) (s : State) : Host.Outcome State Fault Refusal :=
  runInstr (aluR8 .cmp r rm) s

/-- CMP r, r/m (R587). -/
def execCmpRRm (osz : OpSize) (r : Gpr) (rm : Rm) (s : State) : Host.Outcome State Fault Refusal :=
  runInstr (aluR .cmp osz r rm) s

/-- CMP AL, imm8 (R587). -/
def execCmpAlImm8 (imm : Byte) (s : State) : Host.Outcome State Fault Refusal :=
  runInstr (aluRm8 false .cmp (.reg .al) (srcImm imm)) s

/-- CMP eAX, imm (R587). -/
def execCmpEaxImm (imm : ImmV) (s : State) : Host.Outcome State Fault Refusal :=
  runInstr (aluRm false .cmp imm.size (.reg .eax) (srcImm imm.val)) s

/-- CMP r/m8, imm8 (R587). -/
def execCmpRm8Imm8 (rm : Rm8) (imm : Byte) (s : State) : Host.Outcome State Fault Refusal :=
  runInstr (aluRm8 false .cmp rm (srcImm imm)) s

/-- CMP r/m, imm (R587). -/
def execCmpRmImm (rm : Rm) (imm : ImmV) (s : State) : Host.Outcome State Fault Refusal :=
  runInstr (aluRm false .cmp imm.size rm (srcImm imm.val)) s

/-- CMP r/m, imm8 sign-extended (R587). -/
def execCmpRmImm8 (osz : OpSize) (rm : Rm) (imm : Byte) (s : State) : Host.Outcome State Fault Refusal :=
  runInstr (aluRm false .cmp osz rm (srcImm (imm8To osz imm))) s

/-- INC r (R592). -/
def execIncR (osz : OpSize) (r : Gpr) (s : State) : Host.Outcome State Fault Refusal :=
  runInstr (incRmOp false osz (.reg r)) s

/-- DEC r (R593). -/
def execDecR (osz : OpSize) (r : Gpr) (s : State) : Host.Outcome State Fault Refusal :=
  runInstr (decRmOp false osz (.reg r)) s

/-- INC r/m8 (R592). -/
def execIncRm8 (lock : Bool) (rm : Rm8) (s : State) : Host.Outcome State Fault Refusal :=
  runInstr (incRm8Op lock rm) s

/-- DEC r/m8 (R593). -/
def execDecRm8 (lock : Bool) (rm : Rm8) (s : State) : Host.Outcome State Fault Refusal :=
  runInstr (decRm8Op lock rm) s

/-- INC r/m (R592). -/
def execIncRm (lock : Bool) (osz : OpSize) (rm : Rm) (s : State) : Host.Outcome State Fault Refusal :=
  runInstr (incRmOp lock osz rm) s

/-- DEC r/m (R593). -/
def execDecRm (lock : Bool) (osz : OpSize) (rm : Rm) (s : State) : Host.Outcome State Fault Refusal :=
  runInstr (decRmOp lock osz rm) s

/-- TEST r/m8, r8 (R591). -/
def execTestRm8R8 (rm : Rm8) (r : Gpr8) (s : State) : Host.Outcome State Fault Refusal :=
  runInstr (do testOp (← readRm8 rm) ((← getCpu).gpr.get8 r)) s

/-- TEST r/m, r (R591). -/
def execTestRmR (osz : OpSize) (rm : Rm) (r : Gpr) (s : State) : Host.Outcome State Fault Refusal :=
  runInstr (do testOp (← readRm osz rm) ((← getCpu).gpr.getV osz r)) s

/-- TEST AL, imm8 (R591). -/
def execTestAlImm8 (imm : Byte) (s : State) : Host.Outcome State Fault Refusal :=
  runInstr (do testOp ((← getCpu).gpr.get8 .al) imm) s

/-- TEST eAX, imm (R591). -/
def execTestEaxImm (imm : ImmV) (s : State) : Host.Outcome State Fault Refusal :=
  runInstr (do testOp ((← getCpu).gpr.getV imm.size .eax) imm.val) s

/-- TEST r/m8, imm8 (R591). -/
def execTestRm8Imm8 (rm : Rm8) (imm : Byte) (s : State) : Host.Outcome State Fault Refusal :=
  runInstr (do testOp (← readRm8 rm) imm) s

/-- TEST r/m, imm (R591). -/
def execTestRmImm (rm : Rm) (imm : ImmV) (s : State) : Host.Outcome State Fault Refusal :=
  runInstr (do testOp (← readRm imm.size rm) imm.val) s

/-- DIV r/m8 (R599). -/
def execDivRm8 (rm : Rm8) (s : State) : Host.Outcome State Fault Refusal :=
  runInstr (divRm8Op rm) s

/-- IDIV r/m8 (R602). -/
def execIdivRm8 (rm : Rm8) (s : State) : Host.Outcome State Fault Refusal :=
  runInstr (idivRm8Op rm) s

/-- DIV r/m (R599). -/
def execDivRm (osz : OpSize) (rm : Rm) (s : State) : Host.Outcome State Fault Refusal :=
  runInstr (divRmOp osz rm) s

/-- IDIV r/m (R602). -/
def execIdivRm (osz : OpSize) (rm : Rm) (s : State) : Host.Outcome State Fault Refusal :=
  runInstr (idivRmOp osz rm) s

end Sys2Proof.Machine
end

