-- ==== Sys2Proof/Machine/Control.lean ====
section
/-!
DEFINITION. Control transfers (`spec/42_control_transfer.md`, `spec/46_general_subset.md` R597).
-/
namespace Sys2Proof.Machine

/-- EIP goes to an offset of the code segment. -/
def goNear (target : W32) : M Unit := do
  refetch
  modCpu fun c => { c with eip := c.cutEip target }

/-- Go to an offset of the code segment (R614). -/
def nearJump (target : W32) : M Unit := do
  let c ← getCpu
  onBus (checkEip target c.seg.cs.limit)
  goNear target

/-- The target of a relative transfer: EIP is past the instruction (R612). -/
def relTarget (c : Cpu) (osz : OpSize) (rel : W32) : W32 := truncEip osz (c.eip + rel)

/-- A relative displacement, sign-extended. -/
def relValue (rel : ImmV) : W32 := rel.val.signExtend 32

/-- JMP relative (R614). -/
def jmpRelOp (osz : OpSize) (rel : W32) : M Unit := do nearJump (relTarget (← getCpu) osz rel)

/-- Jcc (R597). -/
def jccOp (osz : OpSize) (cc : Cond) (rel : W32) : M Unit := do
  if cc.holds (← getCpu).fl then jmpRelOp osz rel

/-- An offset read from an `r/m` operand, zero-extended. -/
def rmTarget (osz : OpSize) (rm : Rm) : M W32 := do return (← readRm osz rm).setWidth 32

/-- CALL near (R612). -/
def nearCall (osz : OpSize) (target : W32) : M Unit := do
  let c ← getCpu
  onBus (checkEip target c.seg.cs.limit)
  onBus (stackRoom osz.bytes)
  pushW osz c.eip
  goNear target

/-- RET near, with `imm` bytes released (R613). -/
def retNearOp (osz : OpSize) (imm : W16) : M Unit := do
  let t ← peekW osz 0
  nearJump t
  release (osz.bytes + imm.toNat)

/-- Which far transfer. -/
inductive FarKind where
  | call
  | jmp
  deriving DecidableEq, Repr

/-- The kind of task switch. -/
def FarKind.task : FarKind → TaskKind
  | .call => .call
  | .jmp => .jmp

/-- DirectCodeChecks (R615). -/
def directCode (s : W16) (d : Desc) : B Unit := do
  let c ← regs
  if d.conforming then raiseIf (d.dpl.toNat > c.cpl.toNat) (.gp (selCode s))
  else raiseIf ((selRpl s).toNat > c.cpl.toNat || d.dpl != c.cpl) (.gp (selCode s))
  raiseIf (!d.p) (.np (selCode s))

/-- CALL or JMP to a code segment without a gate (R616, R617). -/
def farDirect (kind : FarKind) (osz : OpSize) (s : W16) (d : Desc) (off : W32) : M Unit := do
  let c ← getCpu
  onBus (directCode s d)
  if kind = .call then onBus (stackRoom (2 * osz.bytes))
  let off := truncEip osz off
  onBus (checkEip off d.limit)
  if kind = .call then
    pushSel osz c.seg.cs.sel
    pushW osz c.eip
  loadCs s d c.cpl off

/-- An access made with the registers as they were. -/
def onBusAs {α : Type} (c : Cpu) (x : B α) : M α := fun s =>
  match x c s.bus with
  | .ok a b => .ok a { s with bus := b }
  | .error e b => .error e { s with bus := b }

/-- Parameter i of a call, on the caller's stack (R624 step 7). -/
def readParam (c : Cpu) (osz : OpSize) (i : Nat) : B W32 := do
  let off := c.stackOff (c.stackMove (BitVec.ofNat 32 (i * osz.bytes)))
  match osz with
  | .w16 => return (← memRead 16 .ss off).setWidth 32
  | .w32 => memRead 32 .ss off

/-- Copy n parameters to the new stack (R624 step 7). -/
def copyParams (c : Cpu) (osz : OpSize) : Nat → M Unit
  | 0 => pure ()
  | n + 1 => do
    pushW osz (← onBusAs c (readParam c osz n))
    copyParams c osz n

/-- CallInner (R624). -/
def callInner (s : W16) (d : Desc) (off : W32) (osz : OpSize) (count : Nat) : M Unit := do
  let c ← getCpu
  let st ← onBus (innerStack d.dpl)
  onBus (roomOn st (osz.bytes * (4 + count)))
  onBus (checkEip off d.limit)
  switchStack d.dpl st
  pushSel osz c.seg.ss.sel
  pushW osz c.gpr.esp
  copyParams c osz count
  pushSel osz c.seg.cs.sel
  pushW osz c.eip
  loadCs s d d.dpl off

/-- The checks on a call gate and on the code segment it names (R622). -/
def callGateCode (kind : FarKind) (gs : W16) (g : Desc) : B Desc := do
  let c ← regs
  raiseIf (g.dpl.toNat < c.cpl.toNat || g.dpl.toNat < (selRpl gs).toNat) (.gp (selCode gs))
  raiseIf (!g.p) (.np (selCode gs))
  let cs := g.gateSel
  raiseIf (selNull cs) (.gp 0#32)
  let d ← fetchOr cs (.gp (selCode cs))
  raiseIf (!d.isCode || d.dpl.toNat > c.cpl.toNat
    || (kind == .jmp && !d.conforming && d.dpl != c.cpl)) (.gp (selCode cs))
  raiseIf (!d.p) (.np (selCode cs))
  return d

/-- CALL or JMP through a call gate (R622). A call from 32-bit code through a 16-bit gate is noted
(`spec/45_v86_and_16bit.md` R866). -/
def farGate (kind : FarKind) (gs : W16) (g : Desc) : M Unit := do
  let c ← getCpu
  let d ← onBus (callGateCode kind gs g)
  let osz := g.gateSize
  if kind = .call ∧ !d.conforming ∧ d.dpl.toNat < c.cpl.toNat then callInner g.gateSel d g.gateOff osz g.gateCount
  else
    if kind = .call then onBus (stackRoom (2 * osz.bytes))
    onBus (checkEip g.gateOff d.limit)
    if kind = .call then
      pushSel osz c.seg.cs.sel
      pushW osz c.eip
    loadCs g.gateSel d c.cpl g.gateOff
  if kind = .call then modCpu (·.noteGate16 c g d)

/-- The checks on a task gate or a TSS descriptor that a far transfer names; the selector of the TSS (R632). -/
def farTaskSel (s : W16) (d : Desc) : B W16 := do
  let c ← regs
  raiseIf (d.typ != 5#4 && selTi s) (.gp (selCode s))
  raiseIf (d.dpl.toNat < c.cpl.toNat || d.dpl.toNat < (selRpl s).toNat) (.gp (selCode s))
  if d.typ = 5#4 then
    raiseIf (!d.p) (.np (selCode s))
    return d.gateSel
  return s

/-- FarTransfer (R611). In real-address and virtual-8086 mode CALL pushes slot by slot (R645). -/
def farTransfer (kind : FarKind) (osz : OpSize) (s : W16) (off : W32) : M Unit := do
  let c ← getCpu
  if !c.prot then
    if kind = .call then
      onBus (checkEip (truncEip osz off) c.seg.cs.limit)
      pushSel osz c.seg.cs.sel
      pushW osz c.eip
    farReal s (truncEip osz off)
  else
    onBus (raiseIf (selNull s) (.gp 0#32))
    let d ← onBus (fetchOr s (.gp (selCode s)))
    if d.isCode then farDirect kind osz s d off
    else if d.isSys [4, 12] then farGate kind s d
    else if d.isSys [1, 5, 9] then
      let t ← onBus (farTaskSel s d)
      taskSwitch kind.task t c.fl c.eip c.seg.cs.sel
    else raise (.gp (selCode s))

/-- The size, the selector and the offset of a far pointer in the instruction (R611). -/
def farPtrParts : FarPtr → OpSize × W16 × W32
  | .p16 off sel => (.w16, sel, off.setWidth 32)
  | .p32 off sel => (.w32, sel, off)

/-- CALL or JMP with a far pointer in the instruction. -/
def farPtrOp (kind : FarKind) (p : FarPtr) : M Unit :=
  farTransfer kind (farPtrParts p).1 (farPtrParts p).2.1 (farPtrParts p).2.2

/-- A far pointer in memory: selector and offset, the offset at the lower address (`spec/00_scope.md` R16).
They are two accesses, each with its own checks (log 59). -/
def loadFar (osz : OpSize) (m : MemOp) : M (W16 × BitVec osz.bits) := do
  let off ← loadMem osz.bits m
  let s ← loadAt 16 m osz.bytes
  return (s, off)

/-- CALL or JMP with a far pointer in memory. -/
def farMemOp (kind : FarKind) (osz : OpSize) (m : MemOp) : M Unit := do
  let (s, off) ← loadFar osz m
  farTransfer kind osz s (off.setWidth 32)

/-- RET far (R618, R628, R645). In real-address and virtual-8086 mode it pops slot by slot. -/
def retFarOp (osz : OpSize) (imm : W16) : M Unit := do
  let c ← getCpu
  let n := osz.bytes
  if c.prot then onBus (stackHolds 0 (2 * n))
  let eip := truncEip osz (← peekW osz 0)
  let s := (← peekW osz n).extractLsb' 0 16
  if !c.prot then
    farReal s eip
    release (2 * n + imm.toNat)
  else
    let d ← onBus (returnCode s)
    let f := c.gateFrame s (eip.extractLsb' 0 16)
    let loose := looseEsp c osz d f
    if selRpl s = c.cpl then
      onBus (checkEip eip d.limit)
      release (2 * n + imm.toNat)
      loosenEsp (loose && c.seg.ss.db)
      loadCs s d c.cpl eip
    else returnOuter loose osz s d eip (2 * n + imm.toNat) (imm.setWidth 32)
    modCpu (·.dropGate16 f)

/-- A software interrupt through the table of the mode (R634). -/
def softInt (vec : Byte) : M Unit := do deliverOnce (.software vec (← getCpu))

/-- The bit of a vector in the redirection bit map (`spec/45_v86_and_16bit.md` R846, D115). A 16-bit TSS has no map
(R708); INT n then raises #GP(0), as for a map outside the TSS. Of the 32 bytes of the map only the vector's own is tested
against the limit, and a base of the I/O map below 32 leaves no place for the map, so every vector raises #GP(0) then: D115
does not say which bytes are tested, and this is the model's choice (log 51). -/
def redirected (vec : Byte) : B Bool := do
  let c ← regs
  raiseIf (!wideTss c.tr.typ || 103 > c.tr.limit.toNat) (.gp 0#32)
  let base ← sysRead (c.tr.base + 102#32) 2
  raiseIf (base < 32 || base - 32 + vec.toNat / 8 > c.tr.limit.toNat) (.gp 0#32)
  let v ← sysRead (c.tr.base + BitVec.ofNat 32 (base - 32 + vec.toNat / 8)) 1
  return !v.testBit (vec.toNat % 8)

/-- The image that redirection pushes (`spec/45_v86_and_16bit.md` R849). -/
def redirectImage (c : Cpu) : Eflags :=
  if c.fl.iopl = 3#2 then { c.fl with nt := false, iopl := 0#2 } else { c.fl with iopl := 3#2, if_ := c.fl.vif }

/-- INT n given to the 8086 program's own handler (`spec/45_v86_and_16bit.md` R849), and recorded like every other software
interrupt (`spec/65_debug_and_perfmon.md` R1250). -/
def redirect (vec : Byte) : M Unit := do
  let c ← getCpu
  push ((redirectImage c).toBits.extractLsb' 0 16)
  push c.seg.cs.sel
  push (c.eip.extractLsb' 0 16)
  let entry ← onBus (linBytes (4#32 * vec.setWidth 32) 4 true)
  let e : W32 := BitVec.ofNat 32 (leNat entry)
  refetch
  modCpu fun c => { c with
    fl := { c.fl with
      if_ := c.fl.if_ && c.fl.iopl != 3#2, vif := c.fl.vif && c.fl.iopl == 3#2, tf := false }
    seg.cs := c.seg.cs.paragraph (e.extractLsb' 16 16)
    eip := (e.extractLsb' 0 16).setWidth 32
    notes.branched := true }
  modCpu fun c => c.recordException c.notes.start c.eip

/-- INT n in virtual-8086 mode (`spec/45_v86_and_16bit.md` R847). -/
def intV86 (vec : Byte) : M Unit := do
  let c ← getCpu
  let r ← onBus (if bit c.ctl.cr4 0 then redirected vec else pure false)
  if r then redirect vec
  else if c.fl.iopl = 3#2 then softInt vec
  else raise (.gp 0#32)

/-- INT n (R634). -/
def intOp (vec : Byte) : M Unit := do if (← getCpu).v86 then intV86 vec else softInt vec

/-- BOUND (R637). -/
def boundOp (osz : OpSize) (r : Gpr) (m : MemOp) : M Unit := do
  let lo ← loadMem osz.bits m
  let hi ← loadAt osz.bits m osz.bytes
  let i := (← getCpu).gpr.getV osz r
  if i.toInt < lo.toInt ∨ i.toInt > hi.toInt then raise .br

/-- Jcc rel16/32 (R597). -/
def execJccRel (cc : Cond) (rel : ImmV) (s : State) : Host.Outcome State Fault Refusal :=
  runInstr (jccOp rel.size cc (relValue rel)) s

/-- Jcc rel8 (R597). -/
def execJccRel8 (osz : OpSize) (cc : Cond) (imm : Byte) (s : State) : Host.Outcome State Fault Refusal :=
  runInstr (jccOp osz cc (imm.signExtend 32)) s

/-- JMP rel16/32 (R614). -/
def execJmpRel (imm : ImmV) (s : State) : Host.Outcome State Fault Refusal :=
  runInstr (jmpRelOp imm.size (relValue imm)) s

/-- JMP rel8 (R614). -/
def execJmpRel8 (osz : OpSize) (imm : Byte) (s : State) : Host.Outcome State Fault Refusal :=
  runInstr (jmpRelOp osz (imm.signExtend 32)) s

/-- JMP r/m (R614). -/
def execJmpRm (osz : OpSize) (rm : Rm) (s : State) : Host.Outcome State Fault Refusal :=
  runInstr (do nearJump (← rmTarget osz rm)) s

/-- JMP far, pointer in the instruction (R611). -/
def execJmpFarPtr (p : FarPtr) (s : State) : Host.Outcome State Fault Refusal :=
  runInstr (farPtrOp .jmp p) s

/-- JMP far, pointer in memory (R611). -/
def execJmpFarMem (osz : OpSize) (m : MemOp) (s : State) : Host.Outcome State Fault Refusal :=
  runInstr (farMemOp .jmp osz m) s

/-- CALL rel16/32 (R612). -/
def execCallRel (imm : ImmV) (s : State) : Host.Outcome State Fault Refusal :=
  runInstr (do nearCall imm.size (relTarget (← getCpu) imm.size (relValue imm))) s

/-- CALL r/m (R612). -/
def execCallRm (osz : OpSize) (rm : Rm) (s : State) : Host.Outcome State Fault Refusal :=
  runInstr (do nearCall osz (← rmTarget osz rm)) s

/-- CALL far, pointer in the instruction (R611). -/
def execCallFarPtr (p : FarPtr) (s : State) : Host.Outcome State Fault Refusal :=
  runInstr (farPtrOp .call p) s

/-- CALL far, pointer in memory (R611). -/
def execCallFarMem (osz : OpSize) (m : MemOp) (s : State) : Host.Outcome State Fault Refusal :=
  runInstr (farMemOp .call osz m) s

/-- RET near (R613). -/
def execRetNear (osz : OpSize) (s : State) : Host.Outcome State Fault Refusal :=
  runInstr (retNearOp osz 0#16) s

/-- RET near imm16 (R613). -/
def execRetNearImm (osz : OpSize) (imm : W16) (s : State) : Host.Outcome State Fault Refusal :=
  runInstr (retNearOp osz imm) s

/-- RET far (R618). -/
def execRetFar (osz : OpSize) (s : State) : Host.Outcome State Fault Refusal :=
  runInstr (retFarOp osz 0#16) s

/-- RET far imm16 (R618). -/
def execRetFarImm (osz : OpSize) (imm : W16) (s : State) : Host.Outcome State Fault Refusal :=
  runInstr (retFarOp osz imm) s

/-- INT n (R634). -/
def execIntN (imm : Byte) (s : State) : Host.Outcome State Fault Refusal :=
  runInstr (intOp imm) s

/-- INT 3 (R635, `spec/45_v86_and_16bit.md` R848). -/
def execInt3 (s : State) : Host.Outcome State Fault Refusal :=
  runInstr (softInt 3#8) s

/-- INTO (R636). -/
def execInto (s : State) : Host.Outcome State Fault Refusal :=
  runInstr (do if (← getCpu).fl.of then softInt 4#8) s

/-- IRET (R640). -/
def execIret (osz : OpSize) (s : State) : Host.Outcome State Fault Refusal :=
  runInstr (iret osz) s

/-- BOUND (R637). -/
def execBound (osz : OpSize) (r : Gpr) (m : MemOp) (s : State) : Host.Outcome State Fault Refusal :=
  runInstr (boundOp osz r m) s

end Sys2Proof.Machine
end

