-- ==== Sys2Proof/Machine/Fpu.lean ====
section
/-!
DEFINITION. x87, MMX and SSE state (`spec/44_fpu_mmx_sse_system.md` R740 to R776).
-/
namespace Sys2Proof.Machine

/-- An unmasked x87 error is pending: ES (R745). -/
def Cpu.fpuError (c : Cpu) : Bool := c.fpu.sw.getLsbD 7

/-- An unmasked x87 error is pending that a waiting instruction does not ignore: with NE = 0 it is ignored while IGNNE# is
asserted (R745, D81). -/
def State.fpuPending (s : State) : Bool := s.cpu.fpuError && (bit s.cpu.ctl.cr0 5 || !s.bus.ev.ignne)

/-- FERR# is asserted: an unmasked error with NE = 0, IGNNE# being deasserted (R745; log 29). -/
def State.ferr (s : State) : Bool := s.cpu.fpuError && !bit s.cpu.ctl.cr0 5 && !s.bus.ev.ignne

/-- The gate of the x87 instructions (R742, class F). -/
def gateX87 : M Unit := do
  let c ← getCpu
  if bit c.ctl.cr0 2 || bit c.ctl.cr0 3 then raise .nm

/-- A pending x87 error before a waiting instruction: #MF with NE = 1 (`spec/61_exception_reference.md` R976); with NE = 0
execution stops before the instruction until the error is gone or IGNNE# is asserted (R745; log 29). -/
def gatePending : M Unit := fun s =>
  if !s.fpuPending then .ok () s
  else if bit s.cpu.ctl.cr0 5 then .error (.exc .mf) s
  else .error .wait s

/-- The gate of WAIT (R742, class W). -/
def gateWait : M Unit := do
  let c ← getCpu
  if bit c.ctl.cr0 1 && bit c.ctl.cr0 3 then raise .nm
  gatePending

/-- The gate of the MMX instructions (R742, class M). -/
def gateMmx : M Unit := do
  let c ← getCpu
  if bit c.ctl.cr0 2 then raise .ud
  if bit c.ctl.cr0 3 then raise .nm
  gatePending

/-- The gate of the SSE instructions (R742, class X). -/
def gateSse : M Unit := do
  let c ← getCpu
  if bit c.ctl.cr0 2 || !bit c.ctl.cr4 9 then raise .ud
  if bit c.ctl.cr0 3 then raise .nm

/-- WAIT (R774). -/
def waitOp : M Unit := gateWait

/-- The x87 state after FNINIT: the data registers stay (R773). -/
def Fpu.init (f : Fpu) : Fpu :=
  { f with cw := 0x037F#16, sw := 0#16, tw := 0xFFFF#16, ipSel := 0#16, ipOff := 0#32, dpSel := 0#16, dpOff := 0#32 }

/-- FNINIT (R773). -/
def fninitOp : M Unit := do
  gateX87
  modCpu fun c => { c with fpu := c.fpu.init }

/-- EMMS: all tags empty, TOS 0 (R747, R775). -/
def emmsOp : M Unit := do
  gateMmx
  modCpu fun c => { c with fpu.tw := 0xFFFF#16, fpu.sw := c.fpu.sw &&& 0xC7FF#16 }

/-- The reserved bits of MXCSR (R756). -/
def mxcsrBad (v : W32) : Bool := v &&& 0xFFFF0040#32 != 0#32

/-- LDMXCSR (R772). -/
def ldmxcsrOp (m : MemOp) : M Unit := do
  gateSse
  let v ← loadMem 32 m
  if mxcsrBad v then raise (.gp 0#32)
  modCpu fun c => { c with sse.mxcsr := v }

/-- STMXCSR (R772). -/
def stmxcsrOp (m : MemOp) : M Unit := do
  gateSse
  storeMem m (← getCpu).sse.mxcsr

/-- The eight x87 data registers, R0 first. -/
def Fpu.data (f : Fpu) : List (BitVec 80) := [f.r0, f.r1, f.r2, f.r3, f.r4, f.r5, f.r6, f.r7]

/-- The XMM registers, XMM0 first. -/
def Sse.data (x : Sse) : List (BitVec 128) := [x.xmm0, x.xmm1, x.xmm2, x.xmm3, x.xmm4, x.xmm5, x.xmm6, x.xmm7]

/-- The tag of a register that is not empty, by its value: valid 0, zero 1, special 2
(R748, `spec/10_state.md` R98). -/
def tagOf (r : BitVec 80) : Nat :=
  let e := r.extractLsb' 64 15
  if e = 0#15 ∧ r.extractLsb' 0 64 = 0#64 then 1
  else if e ≠ 0#15 ∧ e ≠ 0x7FFF#15 ∧ r.getLsbD 63 then 0
  else 2

/-- The tag of register i: 3, empty, if it is marked so, else by the value (R748). -/
def tagField (tw : W16) (r : BitVec 80) (i : Nat) : Nat := if tw.extractLsb' (2 * i) 2 = 3#2 then 3 else tagOf r

/-- A tag word whose nonempty tags say what the registers hold (R748). -/
def tagWord (tw : W16) (regs : List (BitVec 80)) : W16 :=
  regs.zipIdx.foldl (fun v (r, i) => v ||| BitVec.ofNat 16 (tagField tw r i <<< (2 * i))) 0#16

/-- The reserved bits of the x87 control word (`spec/10_state.md` R96). -/
def cwReserved : W16 := 0xE0C0#16

/-- The x87 state as bytes, in the order that `Config.fxPlace` numbers them. The reserved bits of the control word, and the
five bits above the opcode, are those of `x` (`spec/00_scope.md` R17, U1; log 58). The data registers come in the order R0
to R7, whatever TOS is: the model's choice (log 21). -/
def Fpu.bytes (f : Fpu) (x : W32) : List Byte :=
  leBytes 2 ((f.cw &&& ~~~cwReserved) ||| (x.extractLsb' 0 16 &&& cwReserved)).toNat
    ++ leBytes 2 f.sw.toNat ++ leBytes 2 (tagWord f.tw f.data).toNat
    ++ leBytes 2 (x.extractLsb' 16 5 ++ f.opcode).toNat
    ++ leBytes 4 f.ipOff.toNat ++ leBytes 2 f.ipSel.toNat ++ leBytes 4 f.dpOff.toNat ++ leBytes 2 f.dpSel.toNat
    ++ f.data.flatMap (fun r => leBytes 10 r.toNat)

/-- The SSE state as bytes. -/
def Sse.bytes (x : Sse) : List Byte := leBytes 4 x.mxcsr.toNat ++ x.data.flatMap (fun r => leBytes 16 r.toNat)

/-- The state that FXSAVE saves: the SSE part only if CR4.OSFXSR is set (R760); its reserved bits are those of `x`. -/
def Cpu.fxBytes (c : Cpu) (x : W32) : List Byte := c.fpu.bytes x ++ if bit c.ctl.cr4 9 then c.sse.bytes else []

/-- Byte i of the image that holds `fields`, byte k of them at offset `place k` (log 21). -/
def imageByte (place : Nat → Nat) (other : Nat → Byte) (i : Nat) : Nat → List Byte → Byte
  | _, [] => other i
  | k, b :: t => if place k = i then b else imageByte place other i (k + 1) t

/-- The image of 512 bytes. -/
def image (place : Nat → Nat) (other : Nat → Byte) (fields : List Byte) : List Byte :=
  (List.range 512).map fun i => imageByte place other i 0 fields

/-- The first n bytes of state in an image. -/
def unimage (place : Nat → Nat) (img : List Byte) (n : Nat) : List Byte :=
  (List.range n).map fun k => img.getD (place k) 0#8

/-- The n bytes of state from k on, as a value. -/
def stateField (bytes : List Byte) (k n : Nat) : Nat := leNat ((bytes.drop k).take n)

/-- The x87 state that bytes of state stand for; tags are set by the values of the registers (R748). The control word is
loaded as it is; what its reserved bits hold cannot be read back (log 58). -/
def Fpu.ofBytes (bs : List Byte) : Fpu :=
  let r (i : Nat) : BitVec 80 := BitVec.ofNat 80 (stateField bs (20 + 10 * i) 10)
  { r0 := r 0, r1 := r 1, r2 := r 2, r3 := r 3, r4 := r 4, r5 := r 5, r6 := r 6, r7 := r 7
    cw := BitVec.ofNat 16 (stateField bs 0 2), sw := BitVec.ofNat 16 (stateField bs 2 2)
    tw := tagWord (BitVec.ofNat 16 (stateField bs 4 2)) ((List.range 8).map r)
    opcode := BitVec.ofNat 11 (stateField bs 6 2), ipOff := BitVec.ofNat 32 (stateField bs 8 4)
    ipSel := BitVec.ofNat 16 (stateField bs 12 2), dpOff := BitVec.ofNat 32 (stateField bs 14 4)
    dpSel := BitVec.ofNat 16 (stateField bs 18 2) }

/-- The SSE state that bytes of state stand for. -/
def Sse.ofBytes (bs : List Byte) : Sse :=
  let x (i : Nat) : BitVec 128 := BitVec.ofNat 128 (stateField bs (4 + 16 * i) 16)
  { xmm0 := x 0, xmm1 := x 1, xmm2 := x 2, xmm3 := x 3, xmm4 := x 4, xmm5 := x 5, xmm6 := x 6, xmm7 := x 7
    mxcsr := BitVec.ofNat 32 (stateField bs 0 4) }

/-- The area of FXSAVE and FXRSTOR: #GP(0) unless it is aligned on 16 bytes (`spec/20_memory.md` R139). That this comes before
the checks of segment and pages, and that the linear address is tested, not the offset in the segment, are the model's choices
(log 21). -/
def fxArea (m : MemOp) (write : Bool) : M Phys := do
  let c ← getCpu
  let off := m.off c
  if ((c.seg.get m.segment).linear off).toNat % 16 ≠ 0 then raise (.gp 0#32)
  onBus (memPrepare m.segment off 512 1 write)

/-- FXSAVE (R748, R760); the x87 state stays as it is. One free value is behind all that the image leaves open. -/
def fxsaveOp (m : MemOp) : M Unit := do
  gateX87
  gatePending
  let p ← fxArea m true
  let c ← getCpu
  onBus do
    let n := (← getBus).freeCtr
    let x ← free
    writePhys p (image Config.fxPlace (Config.fxOther n) (c.fxBytes x))

/-- FXRSTOR (R748, R756, R760). With CR4.OSFXSR = 0, of which R760 speaks for FXSAVE alone, the SSE state stays as it is and
its part of the image is not looked at (log 21). -/
def fxrstorOp (m : MemOp) : M Unit := do
  gateX87
  gatePending
  let p ← fxArea m false
  let img ← onBus (readPhys p)
  let f := Fpu.ofBytes (unimage Config.fxPlace img 100)
  if bit (← getCpu).ctl.cr4 9 then
    let x := Sse.ofBytes ((unimage Config.fxPlace img 232).drop 100)
    if mxcsrBad x.mxcsr then raise (.gp 0#32)
    modCpu fun c => { c with fpu := f, sse := x }
  else modCpu fun c => { c with fpu := f }

/-- WAIT (R774). -/
def execWait (s : State) : Host.Outcome State Fault Refusal :=
  runInstr (waitOp) s

/-- FNINIT (R773). -/
def execFninit (s : State) : Host.Outcome State Fault Refusal :=
  runInstr (fninitOp) s

/-- EMMS (R775). -/
def execEmms (s : State) : Host.Outcome State Fault Refusal :=
  runInstr (emmsOp) s

/-- LDMXCSR (R772). -/
def execLdmxcsr (m : MemOp) (s : State) : Host.Outcome State Fault Refusal :=
  runInstr (ldmxcsrOp m) s

/-- STMXCSR (R772). -/
def execStmxcsr (m : MemOp) (s : State) : Host.Outcome State Fault Refusal :=
  runInstr (stmxcsrOp m) s

/-- FXSAVE (R760). -/
def execFxsave (m : MemOp) (s : State) : Host.Outcome State Fault Refusal :=
  runInstr (fxsaveOp m) s

/-- FXRSTOR (R760). -/
def execFxrstor (m : MemOp) (s : State) : Host.Outcome State Fault Refusal :=
  runInstr (fxrstorOp m) s

/-- SFENCE (`spec/23_ordering.md` R350 item 3; log 28). -/
def execSfence (s : State) : Host.Outcome State Fault Refusal :=
  runInstr (pure ()) s

end Sys2Proof.Machine
end

