-- ==== Sys2Proof/Machine/Io.lean ====
section
/-!
DEFINITION. Input and output (`spec/46_general_subset.md` R600, R601; `spec/22_protection.md` R314, R315). The devices
are a parameter (`spec/20_memory.md` R133; log 20).
-/
namespace Sys2Proof.Machine

/-- IOBitmapAllows (`spec/22_protection.md` R315). -/
def ioBitmapAllows (port : W16) (n : Nat) : B Bool := do
  let c ← regs
  if !wideTss c.tr.typ then return false
  let base ← sysRead (c.tr.base + 102#32) 2
  let first := base + port.toNat / 8
  if first + 1 > c.tr.limit.toNat then return false
  let w ← sysRead (c.tr.base + BitVec.ofNat 32 first) 2
  return (BitVec.ofNat 16 w &&& (BitVec.ofNat 16 (2 ^ n - 1) <<< (port.toNat % 8))) == 0#16

/-- #GP(0) unless the access is permitted (R600; `spec/22_protection.md` R314). In SMM, once its handler has set PE, the
check is made as R314 and the pseudocode of R600 have it, and not left out as a sentence of R600 says of SMM: the model's
choice (log 65). -/
def ioCheck (port : W16) (n : Nat) : B Unit := do
  let c ← regs
  if c.pe && (c.fl.vm || c.cpl.toNat > c.fl.iopl.toNat) then
    raiseIf (!(← ioBitmapAllows port n)) (.gp 0#32)

/-- Record an access to the I/O space, and the breakpoints it matches (`spec/65_debug_and_perfmon.md` R1233). -/
def noteIo (port : W16) (n : Nat) (v : Option W32) : B Unit := do
  let c ← regs
  if undefinedBreakpoint c then refuseB .breakpointSetup
  modBus fun b => { b with io := b.io ++ [(port, n, v)], hits := b.hits ||| ioMatches c port n }

/-- The instruction did I/O (`spec/63_smm.md` R1145). -/
def markIo : M Unit := modCpu fun c => { c with notes.ioEip := some c.notes.start }

/-- IoRead of n bytes. -/
def ioIn (port : W16) (n : Nat) : M W32 := do
  onBus (ioCheck port n)
  let past := (← onBus getBus).io
  onBus (noteIo port n none)
  markIo
  return Config.ioRead past port n

/-- IoWrite of n bytes. -/
def ioOut (port : W16) (n : Nat) (v : W32) : M Unit := do
  onBus (ioCheck port n)
  onBus (noteIo port n (some v))
  markIo

/-- IN to AL. -/
def inAl (port : W16) : M Unit := do
  let v ← ioIn port 1
  modGpr (·.set8 .al (v.extractLsb' 0 8))

/-- IN to eAX. -/
def inEax (osz : OpSize) (port : W16) : M Unit := do
  let v ← ioIn port osz.bytes
  modGpr (·.setV osz .eax (v.setWidth osz.bits))

/-- OUT of AL. -/
def outAl (port : W16) : M Unit := do ioOut port 1 (((← getCpu).gpr.get8 .al).setWidth 32)

/-- OUT of eAX. -/
def outEax (osz : OpSize) (port : W16) : M Unit := do
  ioOut port osz.bytes (((← getCpu).gpr.getV osz .eax).setWidth 32)

/-- The port in DX. -/
def portDx (c : Cpu) : W16 := c.gpr.edx.extractLsb' 0 16

/-- IN AL, imm8 (R600). -/
def execInAlImm8 (imm : Byte) (s : State) : Host.Outcome State Fault Refusal :=
  runInstr (inAl (imm.setWidth 16)) s

/-- IN eAX, imm8 (R600). -/
def execInEaxImm8 (osz : OpSize) (imm : Byte) (s : State) : Host.Outcome State Fault Refusal :=
  runInstr (inEax osz (imm.setWidth 16)) s

/-- OUT imm8, AL (R601). -/
def execOutImm8Al (imm : Byte) (s : State) : Host.Outcome State Fault Refusal :=
  runInstr (outAl (imm.setWidth 16)) s

/-- OUT imm8, eAX (R601). -/
def execOutImm8Eax (osz : OpSize) (imm : Byte) (s : State) : Host.Outcome State Fault Refusal :=
  runInstr (outEax osz (imm.setWidth 16)) s

/-- IN AL, DX (R600). -/
def execInAlDx (s : State) : Host.Outcome State Fault Refusal :=
  runInstr (do inAl (portDx (← getCpu))) s

/-- IN eAX, DX (R600). -/
def execInEaxDx (osz : OpSize) (s : State) : Host.Outcome State Fault Refusal :=
  runInstr (do inEax osz (portDx (← getCpu))) s

/-- OUT DX, AL (R601). -/
def execOutDxAl (s : State) : Host.Outcome State Fault Refusal :=
  runInstr (do outAl (portDx (← getCpu))) s

/-- OUT DX, eAX (R601). -/
def execOutDxEax (osz : OpSize) (s : State) : Host.Outcome State Fault Refusal :=
  runInstr (do outEax osz (portDx (← getCpu))) s

end Sys2Proof.Machine
end

