-- ==== Sys2Proof/Machine/Move.lean ====
section
/-!
DEFINITION. Data movement (`spec/46_general_subset.md` R582 to R584, R594 to R596, R598).
-/
namespace Sys2Proof.Machine

/-- XCHG of a byte (R598); with a memory operand it is always locked, whether or not it has a LOCK prefix
(`spec/23_ordering.md` R342). -/
def xchg8 (rm : Rm8) (r : Gpr8) : M Unit := modifyRm8 true rm fun a => do
  let b := (← getCpu).gpr.get8 r
  modGpr (·.set8 r a)
  return b

/-- XCHG (R598); with a memory operand it is always locked (`spec/23_ordering.md` R342). -/
def xchg (osz : OpSize) (rm : Rm) (r : Gpr) : M Unit := modifyRm true osz rm fun a => do
  let b := (← getCpu).gpr.getV osz r
  modGpr (·.setV osz r a)
  return b

/-- POP of the operand size into a general register or memory: the address is computed after the increment (R595). -/
def popTo (osz : OpSize) (rm : Rm) : M Unit := do writeRm osz rm (← pop osz.bits)

/-- MOV r/m8, r8 (R582). -/
def execMovRm8R8 (rm : Rm8) (r : Gpr8) (s : State) : Host.Outcome State Fault Refusal :=
  runInstr (do writeRm8 rm ((← getCpu).gpr.get8 r)) s

/-- MOV r/m, r (R582). -/
def execMovRmR (osz : OpSize) (rm : Rm) (r : Gpr) (s : State) : Host.Outcome State Fault Refusal :=
  runInstr (do writeRm osz rm ((← getCpu).gpr.getV osz r)) s

/-- MOV r8, r/m8 (R582). -/
def execMovR8Rm8 (r : Gpr8) (rm : Rm8) (s : State) : Host.Outcome State Fault Refusal :=
  runInstr (do writeRm8 (.reg r) (← readRm8 rm)) s

/-- MOV r, r/m (R582). -/
def execMovRRm (osz : OpSize) (r : Gpr) (rm : Rm) (s : State) : Host.Outcome State Fault Refusal :=
  runInstr (do writeRm osz (.reg r) (← readRm osz rm)) s

/-- MOV r8, imm8 (R583). -/
def execMovR8Imm8 (r : Gpr8) (imm : Byte) (s : State) : Host.Outcome State Fault Refusal :=
  runInstr (writeRm8 (.reg r) imm) s

/-- MOV r, imm (R583). -/
def execMovRImm (r : Gpr) (imm : ImmV) (s : State) : Host.Outcome State Fault Refusal :=
  runInstr (writeRm imm.size (.reg r) imm.val) s

/-- MOV r/m8, imm8 (R583). -/
def execMovRm8Imm8 (rm : Rm8) (imm : Byte) (s : State) : Host.Outcome State Fault Refusal :=
  runInstr (writeRm8 rm imm) s

/-- MOV r/m, imm (R583). -/
def execMovRmImm (rm : Rm) (imm : ImmV) (s : State) : Host.Outcome State Fault Refusal :=
  runInstr (writeRm imm.size rm imm.val) s

/-- LEA (R584). -/
def execLea (osz : OpSize) (r : Gpr) (m : MemOp) (s : State) : Host.Outcome State Fault Refusal :=
  runInstr (do writeRm osz (.reg r) ((m.off (← getCpu)).setWidth osz.bits)) s

/-- PUSH r (R594). -/
def execPushR (osz : OpSize) (r : Gpr) (s : State) : Host.Outcome State Fault Refusal :=
  runInstr (do push ((← getCpu).gpr.getV osz r)) s

/-- PUSH imm (R594). -/
def execPushImm (imm : ImmV) (s : State) : Host.Outcome State Fault Refusal :=
  runInstr (push imm.val) s

/-- PUSH imm8 (R594). -/
def execPushImm8 (osz : OpSize) (imm : Byte) (s : State) : Host.Outcome State Fault Refusal :=
  runInstr (push (imm8To osz imm)) s

/-- PUSH r/m (R594). -/
def execPushRm (osz : OpSize) (rm : Rm) (s : State) : Host.Outcome State Fault Refusal :=
  runInstr (do push (← readRm osz rm)) s

/-- POP r (R595). -/
def execPopR (osz : OpSize) (r : Gpr) (s : State) : Host.Outcome State Fault Refusal :=
  runInstr (popTo osz (.reg r)) s

/-- POP r/m (R595). -/
def execPopRm (osz : OpSize) (rm : Rm) (s : State) : Host.Outcome State Fault Refusal :=
  runInstr (popTo osz rm) s

/-- NOP (R596). -/
def execNop (s : State) : Host.Outcome State Fault Refusal :=
  runInstr (pure ()) s

/-- XCHG r/m8, r8 (R598). -/
def execXchgRm8R8 (_lock : Bool) (rm : Rm8) (r : Gpr8) (s : State) : Host.Outcome State Fault Refusal :=
  runInstr (xchg8 rm r) s

/-- XCHG r/m, r (R598). -/
def execXchgRmR (_lock : Bool) (osz : OpSize) (rm : Rm) (r : Gpr) (s : State) : Host.Outcome State Fault Refusal :=
  runInstr (xchg osz rm r) s

/-- XCHG eAX, r (R598). -/
def execXchgEaxR (osz : OpSize) (r : Gpr) (s : State) : Host.Outcome State Fault Refusal :=
  runInstr (xchg osz (.reg .eax) r) s

end Sys2Proof.Machine
end

