-- ==== Sys2Proof/Machine/SegLoad.lean ====
section
/-!
DEFINITION. Loading, storing and testing segment selectors (`spec/41_segment_instructions.md` R560 to R574).
-/
namespace Sys2Proof.Machine

/-- The segment register of a number; 6 and 7 are none (`spec/30_encoding.md` R466). -/
def segOf (n : BitVec 3) : Option Seg :=
  match n.toNat with
  | 0 => some .es
  | 1 => some .cs
  | 2 => some .ss
  | 3 => some .ds
  | 4 => some .fs
  | 5 => some .gs
  | _ => none

/-- MOV SS and POP SS hold off interrupts and debug traps until after the next instruction; the second of two in a
row does not (`spec/60_exceptions.md` R905). -/
def Cpu.shadowSs (c : Cpu) : Cpu :=
  if c.hid.ssShadow then c
  else { c with hid.ssShadow := true, hid.stiShadow := false, notes.newShadow := true }

/-- Set the shadow if the register is SS. -/
def shadowIfSs (sr : Seg) : M Unit := if sr = .ss then modCpu (·.shadowSs) else pure ()

/-- The 16 bits of an `r/m16` operand. -/
def readSel (rm : Rm) : M W16 := readRm .w16 rm

/-- MOV to a segment register (R561): the operand is read before the register is looked at (`spec/00_scope.md` R13;
log 45). -/
def movToSeg (n : BitVec 3) (rm : Rm) : M Unit := do
  let s ← readSel rm
  match segOf n with
  | none => raise .ud
  | some .cs => raise .ud
  | some sr =>
    loadSeg sr s
    shadowIfSs sr

/-- Write 16 bits: memory gets two bytes, a 32-bit register gets `upper` above them (R562). -/
def writeSel (osz : OpSize) (rm : Rm) (v upper : W16) (align : Nat := 2) : M Unit :=
  match rm with
  | .mem m => storeMem m v align
  | .reg r =>
    match osz with
    | .w16 => modGpr (·.setV .w16 r v)
    | .w32 => modGpr (·.set r (upper ++ v))

/-- MOV from a segment register (R562). -/
def movFromSeg (osz : OpSize) (rm : Rm) (n : BitVec 3) : M Unit :=
  match segOf n with
  | none => raise .ud
  | some sr => do writeSel osz rm ((← getCpu).seg.get sr).sel 0#16

/-- POP into a segment register (R563). -/
def popSeg (osz : OpSize) (sr : Seg) : M Unit := do
  let v ← peekW osz 0
  loadSeg sr (v.extractLsb' 0 16)
  release osz.bytes
  shadowIfSs sr

/-- PUSH of a segment register (R564). -/
def pushSeg (osz : OpSize) (sr : Seg) : M Unit := do pushSel osz ((← getCpu).seg.get sr).sel

/-- Load a far pointer into a segment register and a general register (R565, R566). -/
def loadPointer (sr : Seg) (osz : OpSize) (r : Gpr) (m : MemOp) : M Unit := do
  let (s, off) ← loadFar osz m
  loadSeg sr s
  modGpr (·.setV osz r off)

/-- An instruction that real-address and virtual-8086 mode do not recognize (`spec/61_exception_reference.md` R966
item 9). -/
def protOnly : M Unit := do if !(← getCpu).prot then raise .ud

/-- Set ZF alone. -/
def setZf (z : Bool) : M Unit := modFl fun f => { f with zf := z }

/-- The descriptor that LAR, LSL, VERR or VERW examines (R569). -/
def probeRm (rm : Rm) (types : List Nat) : M (Option Desc) := do
  protOnly
  let s ← readSel rm
  onBus (probe s types)

/-- What LAR answers: bits 19:16 are a free value (R570, U122; log 10). -/
def Desc.larValue (d : Desc) (x : W32) : W32 := (d.dw2 &&& 0x00F0FF00#32) ||| (x &&& 0x000F0000#32)

/-- LAR (R570). -/
def larOp (osz : OpSize) (r : Gpr) (rm : Rm) : M Unit := do
  match ← probeRm rm [1, 2, 3, 4, 5, 9, 11, 12] with
  | none => setZf false
  | some d =>
    let x ← onBus free
    modGpr (·.setV osz r ((d.larValue x).setWidth osz.bits))
    setZf true

/-- LSL (R571). -/
def lslOp (osz : OpSize) (r : Gpr) (rm : Rm) : M Unit := do
  match ← probeRm rm [1, 2, 3, 9, 11] with
  | none => setZf false
  | some d =>
    modGpr (·.setV osz r (d.limit.setWidth osz.bits))
    setZf true

/-- VERR and VERW (R572, R573): does the descriptor pass the test? -/
def verifyOp (rm : Rm) (test : Desc → Bool) : M Unit := do
  let d ← probeRm rm []
  setZf (d.any test)

/-- The selector that ARPL writes, if it changes it (R574). -/
def arplValue (dst src : W16) : Option W16 :=
  if (selRpl dst).toNat < (selRpl src).toNat then some (dst.extractLsb' 2 14 ++ selRpl src) else none

/-- ARPL (R574, D125). -/
def arplOp (rm : Rm) (r : Gpr) : M Unit := do
  protOnly
  let src : W16 := (← getCpu).gpr.getV .w16 r
  match rm with
  | .reg x =>
    match arplValue ((← getCpu).gpr.getV .w16 x) src with
    | none => setZf false
    | some v =>
      modGpr (·.setV .w16 x v)
      setZf true
  | .mem m =>
    let c ← getCpu
    let (dst, p) ← onBus (memReadMayWrite 16 m.segment (m.off c))
    match arplValue dst src with
    | none => setZf false
    | some v =>
      onBus (memWriteNow p v)
      setZf true

/-- MOV r/m16, Sreg (R562). -/
def execMovRmSreg (osz : OpSize) (rm : Rm) (sr : BitVec 3) (s : State) : Host.Outcome State Fault Refusal :=
  runInstr (movFromSeg osz rm sr) s

/-- MOV Sreg, r/m16 (R561). -/
def execMovSregRm (sr : BitVec 3) (rm : Rm) (s : State) : Host.Outcome State Fault Refusal :=
  runInstr (movToSeg sr rm) s

/-- POP ES (R563). -/
def execPopEs (osz : OpSize) (s : State) : Host.Outcome State Fault Refusal :=
  runInstr (popSeg osz .es) s

/-- POP SS (R563). -/
def execPopSs (osz : OpSize) (s : State) : Host.Outcome State Fault Refusal :=
  runInstr (popSeg osz .ss) s

/-- POP DS (R563). -/
def execPopDs (osz : OpSize) (s : State) : Host.Outcome State Fault Refusal :=
  runInstr (popSeg osz .ds) s

/-- POP FS (R563). -/
def execPopFs (osz : OpSize) (s : State) : Host.Outcome State Fault Refusal :=
  runInstr (popSeg osz .fs) s

/-- POP GS (R563). -/
def execPopGs (osz : OpSize) (s : State) : Host.Outcome State Fault Refusal :=
  runInstr (popSeg osz .gs) s

/-- PUSH ES (R564). -/
def execPushEs (osz : OpSize) (s : State) : Host.Outcome State Fault Refusal :=
  runInstr (pushSeg osz .es) s

/-- PUSH CS (R564). -/
def execPushCs (osz : OpSize) (s : State) : Host.Outcome State Fault Refusal :=
  runInstr (pushSeg osz .cs) s

/-- PUSH SS (R564). -/
def execPushSs (osz : OpSize) (s : State) : Host.Outcome State Fault Refusal :=
  runInstr (pushSeg osz .ss) s

/-- PUSH DS (R564). -/
def execPushDs (osz : OpSize) (s : State) : Host.Outcome State Fault Refusal :=
  runInstr (pushSeg osz .ds) s

/-- PUSH FS (R564). -/
def execPushFs (osz : OpSize) (s : State) : Host.Outcome State Fault Refusal :=
  runInstr (pushSeg osz .fs) s

/-- PUSH GS (R564). -/
def execPushGs (osz : OpSize) (s : State) : Host.Outcome State Fault Refusal :=
  runInstr (pushSeg osz .gs) s

/-- LES (R565). -/
def execLes (osz : OpSize) (r : Gpr) (m : MemOp) (s : State) : Host.Outcome State Fault Refusal :=
  runInstr (loadPointer .es osz r m) s

/-- LDS (R565). -/
def execLds (osz : OpSize) (r : Gpr) (m : MemOp) (s : State) : Host.Outcome State Fault Refusal :=
  runInstr (loadPointer .ds osz r m) s

/-- LFS (R565). -/
def execLfs (osz : OpSize) (r : Gpr) (m : MemOp) (s : State) : Host.Outcome State Fault Refusal :=
  runInstr (loadPointer .fs osz r m) s

/-- LGS (R565). -/
def execLgs (osz : OpSize) (r : Gpr) (m : MemOp) (s : State) : Host.Outcome State Fault Refusal :=
  runInstr (loadPointer .gs osz r m) s

/-- LSS (R566). -/
def execLss (osz : OpSize) (r : Gpr) (m : MemOp) (s : State) : Host.Outcome State Fault Refusal :=
  runInstr (loadPointer .ss osz r m) s

/-- LAR (R570). -/
def execLar (osz : OpSize) (r : Gpr) (rm : Rm) (s : State) : Host.Outcome State Fault Refusal :=
  runInstr (larOp osz r rm) s

/-- LSL (R571). -/
def execLsl (osz : OpSize) (r : Gpr) (rm : Rm) (s : State) : Host.Outcome State Fault Refusal :=
  runInstr (lslOp osz r rm) s

/-- VERR (R572). -/
def execVerr (rm : Rm) (s : State) : Host.Outcome State Fault Refusal :=
  runInstr (verifyOp rm (·.readable)) s

/-- VERW (R573). -/
def execVerw (rm : Rm) (s : State) : Host.Outcome State Fault Refusal :=
  runInstr (verifyOp rm (·.writable)) s

/-- ARPL (R574). -/
def execArpl (rm : Rm) (r : Gpr) (s : State) : Host.Outcome State Fault Refusal :=
  runInstr (arplOp rm r) s

end Sys2Proof.Machine
end

