-- ==== Sys2Proof/Machine/System.lean ====
section
/-!
DEFINITION. System instructions (`spec/40_system_instructions.md` R480 to R543): table registers, control and debug
registers, TLB and caches, halt, identification, and the flag instructions.
-/
namespace Sys2Proof.Machine

/-- Priv0 (R481): #GP(0) outside privilege level 0. -/
def priv0 : M Unit := do
  let c ← getCpu
  if c.pe && (c.fl.vm || c.cpl != 0#2) then raise (.gp 0#32)

/-- The segment check of a 6-byte pseudo-descriptor as a whole (`spec/22_protection.md` R262, D120). -/
def tableOperand (m : MemOp) (write : Bool) : B Unit := do
  let c ← regs
  match segCheck c m.segment (m.off c) 6 write with
  | some e => raiseB e
  | none => pure ()

/-- The 6 bytes that LGDT and LIDT load (R482): with a 16-bit operand size the base has 24 bits. -/
def loadTableReg (osz : OpSize) (m : MemOp) : M TableReg := do
  onBus (tableOperand m false)
  let limit ← loadMem 16 m
  let base ← loadAt 32 m 2
  return { base := (match osz with
    | .w16 => base &&& 0x00FFFFFF#32
    | .w32 => base), limit }

/-- LGDT (R482). -/
def lgdtOp (osz : OpSize) (m : MemOp) : M Unit := do
  priv0
  let t ← loadTableReg osz m
  modCpu fun c => { c with gdtr := t }
  serialize

/-- LIDT (R484). -/
def lidtOp (osz : OpSize) (m : MemOp) : M Unit := do
  priv0
  let t ← loadTableReg osz m
  modCpu fun c => { c with idtr := t, smm.lidtDone := true }
  serialize

/-- The base that SGDT and SIDT store (R483, R485): with a 16-bit operand size its top byte is a free value (U125;
log 10). -/
def storedBase (osz : OpSize) (base : W32) : B W32 :=
  match osz with
  | .w16 => do return (← free).extractLsb' 24 8 ++ base.extractLsb' 0 24
  | .w32 => pure base

/-- SGDT and SIDT (R483, R485). The limit and the base are two accesses, and both are checked before either is stored, so
that a fault changes nothing (`spec/61_exception_reference.md` R977). -/
def storeTableReg (osz : OpSize) (m : MemOp) (t : TableReg) : M Unit := do
  let c ← getCpu
  onBus do
    tableOperand m true
    let p ← memPrepare m.segment (m.off c) 2 2 true
    let q ← memPrepare m.segment (m.off c + 2#32) 4 4 true
    let base ← storedBase osz t.base
    writePhys p (leBytes 2 t.limit.toNat)
    writePhys q (leBytes 4 base.toNat)

/-- The descriptor of a local table or a task, in the GDT (R486, R488; the error code: log 40). -/
def systemDesc (s : W16) (types : List Nat) : B Desc := do
  raiseIf (selTi s) (.gp (selCode s))
  let d ← fetchOr s (.gp (selCode s))
  raiseIf (!d.isSys types) (.gp (selCode s))
  raiseIf (!d.p) (.np (selCode s))
  return d

/-- LLDT (R486). -/
def lldtOp (rm : Rm) : M Unit := do
  protOnly
  priv0
  let s ← readSel rm
  if selNull s then modCpu fun c => { c with ldtr := c.ldtr.nulled s }
  else
    let d ← onBus (systemDesc s [2])
    modCpu fun c => { c with ldtr := d.reg s }
  serialize

/-- LTR (R488). -/
def ltrOp (rm : Rm) : M Unit := do
  protOnly
  priv0
  let s ← readSel rm
  onBus (raiseIf (selNull s) (.gp 0#32))
  let d ← onBus (systemDesc s [1, 9])
  onBus (setBusy d)
  modCpu fun c => { c with tr := { d.reg s with typ := d.typ ||| 2#4 } }
  serialize

/-- SLDT (R487). -/
def sldtOp (osz : OpSize) (rm : Rm) : M Unit := do
  protOnly
  writeSel osz rm (← getCpu).ldtr.sel 0#16 4

/-- STR (R489). -/
def strOp (osz : OpSize) (rm : Rm) : M Unit := do
  protOnly
  writeSel osz rm (← getCpu).tr.sel 0#16 4

/-- CR0 with its reserved bits fixed (R491). -/
def cr0Value (v : W32) : W32 := (v &&& 0xE005003F#32) ||| 0x10#32

/-- Load the page-directory-pointer registers (`spec/21_paging.md` R226). -/
def loadPdptes (cr3 : W32) : M Unit := do
  let (a, b, d, e) ← onBus (readPdptes cr3)
  modCpu fun c => { c with ctl.pdpte0 := a, ctl.pdpte1 := b, ctl.pdpte2 := d, ctl.pdpte3 := e }

/-- MOV to CR0 (R491). -/
def writeCr0 (v : W32) : M Unit := do
  let c ← getCpu
  if bit v 31 && !bit v 0 then raise (.gp 0#32)
  if bit v 29 && !bit v 30 then raise (.gp 0#32)
  let n := cr0Value v
  if bit n 31 && !c.pg && bit c.ctl.cr4 5 then loadPdptes c.ctl.cr3
  modCpu fun c => { c with ctl.cr0 := n }
  if bit n 31 != c.pg || bit n 0 != c.pe then onBus (modBus Bus.flushAll)

/-- MOV to CR3 (R495). -/
def writeCr3 (v : W32) : M Unit := do
  let c ← getCpu
  if c.pg && bit c.ctl.cr4 5 then loadPdptes v
  modCpu fun c => { c with ctl.cr3 := v }
  onBus (modBus Bus.flushLocal)

/-- The bits of CR4 that may not be set: the reserved ones, and PAE in SMM, where it is not supported (R496,
`spec/63_smm.md` R1110, R1136; log 53). -/
def Cpu.cr4Forbidden (c : Cpu) : W32 := if c.smm.inSmm then 0xFFFFF820#32 else 0xFFFFF800#32

/-- MOV to CR4 (R496). -/
def writeCr4 (v : W32) : M Unit := do
  let c ← getCpu
  if v &&& c.cr4Forbidden ≠ 0#32 then raise (.gp 0#32)
  if bit v 5 && !bit c.ctl.cr4 5 && c.pg then loadPdptes c.ctl.cr3
  modCpu fun c => { c with ctl.cr4 := v }
  if (v ^^^ c.ctl.cr4) &&& 0xB0#32 ≠ 0#32 then onBus (modBus Bus.flushAll)

/-- MOV to a control register (R490 to R497). The status flags are free values after it (U126; log 9). After a change of PG
instructions that are already fetched may execute with the old one (R497; log 52). -/
def movToCr (n : BitVec 3) (r : Gpr) : M Unit := do
  priv0
  let c ← getCpu
  let v := c.gpr.get r
  match n.toNat with
  | 0 => writeCr0 v
  | 2 => modCpu fun c => { c with ctl.cr2 := v }
  | 3 => writeCr3 v
  | 4 => writeCr4 v
  | _ => raise .ud
  freeStatus
  serialize
  let pg := (← getCpu).pg
  onBus (modBus fun b => { b with oldPg := pg != c.pg })

/-- Control register n; none for the numbers that name no register (R494). -/
def Ctl.get (c : Ctl) (n : BitVec 3) : Option W32 :=
  match n.toNat with
  | 0 => some c.cr0
  | 2 => some c.cr2
  | 3 => some c.cr3
  | 4 => some c.cr4
  | _ => none

/-- MOV from a control register (R490 to R496). The status flags are free values after it (U126; log 9). -/
def movFromCr (n : BitVec 3) (r : Gpr) : M Unit := do
  priv0
  match (← getCpu).ctl.get n with
  | none => raise .ud
  | some v =>
    modGpr (·.set r v)
    freeStatus

/-- LMSW (R506): CR0 with bits 3:1 of the operand, and PE if the operand sets it. -/
def lmswValue (cr0 : W32) (v : W16) : W32 := (cr0 &&& 0xFFFFFFF1#32) ||| (v.setWidth 32 &&& 0xF#32)

/-- LMSW (R506). -/
def lmswOp (rm : Rm) : M Unit := do
  priv0
  let v ← readSel rm
  let c ← getCpu
  let n := lmswValue c.ctl.cr0 v
  modCpu fun c => { c with ctl.cr0 := n }
  if bit n 0 != c.pe then onBus (modBus Bus.flushAll)
  serialize

/-- SMSW (R507); the upper half of a 32-bit register is a free value (U127; log 10). -/
def smswOp (osz : OpSize) (rm : Rm) : M Unit := do
  let f ← onBus free
  writeSel osz rm ((← getCpu).ctl.cr0.extractLsb' 0 16) (f.extractLsb' 0 16)

/-- CLTS (R508). -/
def cltsOp : M Unit := do
  priv0
  modCpu fun c => { c with ctl.cr0 := c.ctl.cr0 &&& 0xFFFFFFF7#32 }

/-- INVLPG (R512). -/
def invlpgOp (m : MemOp) : M Unit := do
  priv0
  let c ← getCpu
  onBus (modBus (Bus.flushPage ((c.seg.get m.segment).linear (m.off c))))
  serialize

/-- Bytes that INVD may lose: each goes back to an old value, or stays (R513, `spec/24_caches_mtrr.md` R392; log 14). -/
def loseBytes : List Host.Cell → B Unit
  | [] => pure ()
  | (a, old) :: t => do
    if ← freeBit then modBus (Bus.put [(a, old)])
    loseBytes t

/-- The caches hold no line, until they fill again (`spec/24_caches_mtrr.md` R388, R392, R393). -/
def Bus.emptied (b : Bus) : Bus := { b with lossy := [], lines := false }

/-- INVD (`spec/24_caches_mtrr.md` R392). -/
def invdOp : M Unit := do
  priv0
  onBus (do loseBytes (← getBus).lossy)
  onBus (modBus Bus.emptied)
  serialize

/-- WBINVD (`spec/24_caches_mtrr.md` R393). -/
def wbinvdOp : M Unit := do
  priv0
  onBus (modBus Bus.emptied)
  serialize

/-- HLT (R530); where it stands is kept for SMM (`spec/63_smm.md` R1115). -/
def hltOp : M Unit := do
  priv0
  modCpu fun c => { c with hid := { c.hid with run := .halted, haltEip := c.notes.start } }

/-- The feature flags: APIC (bit 9) reads 0 while the APIC is disabled (`spec/62_apic_and_mp.md` R1021). -/
def Cpu.features (c : Cpu) : W32 :=
  if c.msr.apicBase.getLsbD 11 then Config.cpuidFeatures else Config.cpuidFeatures &&& 0xFFFFFDFF#32

/-- EAX, EBX, ECX and EDX of a CPUID leaf (R533). -/
def Cpu.cpuidLeaf (c : Cpu) (leaf : W32) : W32 × W32 × W32 × W32 :=
  if leaf = 0#32 then (Config.cpuidMaxLeaf, 0x756E6547#32, 0x6C65746E#32, 0x49656E69#32)
  else if leaf = 1#32 then (Config.cpuidSignature, 0#32, 0#32, c.features)
  else (Config.cpuidLeaf2 0, Config.cpuidLeaf2 1, Config.cpuidLeaf2 2, Config.cpuidLeaf2 3)

/-- CPUID also leaves the update signature in MSR 8BH (`spec/70_reset_and_hazards.md` R1347). -/
def Cpu.cpuidSignature (c : Cpu) : Cpu :=
  if c.msr.mcuRevision = 0#32 then c else { c with msr.mcuSignature := c.msr.mcuRevision ++ 0#32 }

/-- CPUID (R533). -/
def cpuidOp : M Unit := do
  modCpu fun c =>
    let (a, b, x, d) := c.cpuidLeaf c.gpr.eax
    { c.cpuidSignature with gpr := { c.gpr with eax := a, ebx := b, ecx := x, edx := d } }
  serialize

/-- The privilege to change IF (R540): real-address mode, or CPL <= IOPL. -/
def Cpu.ifAllowed (c : Cpu) : Bool := !c.pe || c.cpl.toNat ≤ c.fl.iopl.toNat

/-- The virtual interrupt flag stands in for IF (R540; `spec/45_v86_and_16bit.md` R843, R853). -/
def Cpu.vifActive (c : Cpu) : Bool :=
  if c.fl.vm then bit c.ctl.cr4 0 else c.cpl == 3#2 && bit c.ctl.cr4 1

/-- IF set by STI; from 0 to 1 it holds off interrupts until after the next instruction (R540). -/
def Cpu.setIf (c : Cpu) : Cpu :=
  if c.fl.if_ then c
  else { c with fl.if_ := true, hid.ssShadow := false, hid.stiShadow := true, notes.newShadow := true }

/-- STI (R540). -/
def stiOp : M Unit := do
  let c ← getCpu
  if c.ifAllowed then modCpu (·.setIf)
  else if c.vifActive then
    if c.fl.vip then raise (.gp 0#32)
    modFl fun f => { f with vif := true }
  else raise (.gp 0#32)

/-- CLI (R541). -/
def cliOp : M Unit := do
  let c ← getCpu
  if c.ifAllowed then modFl fun f => { f with if_ := false }
  else if c.vifActive then modFl fun f => { f with vif := false }
  else raise (.gp 0#32)

/-- In virtual-8086 mode with IOPL < 3 the flag instructions are restricted (R542, R543). -/
def Cpu.v86Restricted (c : Cpu) : Bool := c.v86 && c.fl.iopl != 3#2

/-- The flags that POPF writes (R542). -/
def popfMask (c : Cpu) (osz : OpSize) : W32 :=
  0x4DD5#32 ||| (if c.ifAllowed then 0x200#32 else 0#32) ||| (if !c.pe || c.cpl == 0#2 then 0x3000#32 else 0#32)
    ||| (match osz with
        | .w16 => 0#32
        | .w32 => 0x240000#32)

/-- The flags after POPF; POPFD clears RF (R542). -/
def popfFlags (c : Cpu) (osz : OpSize) (img : W32) : Eflags :=
  let f := c.fl.merge (.ofBits img) (popfMask c osz)
  match osz with
  | .w16 => f
  | .w32 => { f with rf := false }

/-- POPF with the virtual interrupt flag: bit 9 of the image is VIF (`spec/45_v86_and_16bit.md` R843; log 35). -/
def popfVme : M Unit := do
  let img ← peekW .w16 0
  if bit img 8 then raise (.gp 0#32)
  release 2
  modFl fun f => { f.merge (.ofBits img) 0x4DD5#32 with vif := bit img 9 }

/-- POPF (R542). -/
def popfOp (osz : OpSize) : M Unit := do
  let c ← getCpu
  if c.v86Restricted then
    if bit c.ctl.cr4 0 && osz = .w16 then popfVme else raise (.gp 0#32)
  else
    let img ← peekW osz 0
    release osz.bytes
    modFl fun _ => popfFlags c osz img

/-- The image that PUSHF pushes (R543): VM and RF are 0 in it. -/
def pushfImage (f : Eflags) : W32 := f.toBits &&& 0x00FCFFFF#32

/-- PUSHF (R543); with the virtual interrupt flag bit 9 is VIF and IOPL reads 3 (`spec/45_v86_and_16bit.md` R843). -/
def pushfOp (osz : OpSize) : M Unit := do
  let c ← getCpu
  if c.v86Restricted then
    if bit c.ctl.cr4 0 && osz = .w16 then pushW .w16 { c.fl with if_ := c.fl.vif, iopl := 3#2 }.toBits
    else raise (.gp 0#32)
  else pushW osz (pushfImage c.fl)

/-- The debug register that a number names (`spec/65_debug_and_perfmon.md` R1222, R1223). -/
def drNumber (n : BitVec 3) : Nat := if n = 4#3 then 6 else if n = 5#3 then 7 else n.toNat

/-- Debug register n. -/
def Dbg.get (d : Dbg) (n : Nat) : W32 :=
  match n with
  | 0 => d.dr0
  | 1 => d.dr1
  | 2 => d.dr2
  | 3 => d.dr3
  | 6 => d.dr6
  | _ => d.dr7

/-- DR6 with its reserved bits stuck (`spec/65_debug_and_perfmon.md` R1224, U100; log 30). -/
def dr6Value (v : W32) : W32 := (v &&& 0x0000E00F#32) ||| 0xFFFF0FF0#32

/-- DR7 with its reserved bits stuck (`spec/65_debug_and_perfmon.md` R1226, U100; log 30). -/
def dr7Value (v : W32) : W32 := (v &&& 0xFFFF23FF#32) ||| 0x00000400#32

/-- Replace debug register n. -/
def Dbg.set (d : Dbg) (n : Nat) (v : W32) : Dbg :=
  match n with
  | 0 => { d with dr0 := v }
  | 1 => { d with dr1 := v }
  | 2 => { d with dr2 := v }
  | 3 => { d with dr3 := v }
  | 6 => { d with dr6 := dr6Value v }
  | _ => { d with dr7 := dr7Value v }

/-- The checks on a move to or from a debug register (`spec/65_debug_and_perfmon.md` R1222, R1235). -/
def checkDr (n : BitVec 3) : M Unit := do
  let c ← getCpu
  if c.pe && !c.smm.inSmm && (c.fl.vm || c.cpl != 0#2) then raise (.gp 0#32)
  if (n = 4#3 ∨ n = 5#3) ∧ bit c.ctl.cr4 3 then raise .ud
  if bit c.dbg.dr7 13 then raise (.db 0x2000#32)

/-- MOV to a debug register (`spec/65_debug_and_perfmon.md` R1222). -/
def movToDr (n : BitVec 3) (r : Gpr) : M Unit := do
  checkDr n
  modCpu fun c => { c with dbg := c.dbg.set (drNumber n) (c.gpr.get r) }
  serialize

/-- MOV from a debug register (`spec/65_debug_and_perfmon.md` R1222). -/
def movFromDr (n : BitVec 3) (r : Gpr) : M Unit := do
  checkDr n
  modCpu fun c => { c with gpr := c.gpr.set r (c.dbg.get (drNumber n)) }

/-- Put 64 bits in EDX:EAX. -/
def setEdxEax (v : W64) : M Unit :=
  modGpr fun g => { g with eax := v.extractLsb' 0 32, edx := v.extractLsb' 32 32 }

/-- RDTSC (`spec/65_debug_and_perfmon.md` R1262). -/
def rdtscOp : M Unit := do
  let c ← getCpu
  if c.pe && bit c.ctl.cr4 2 && c.cpl != 0#2 then raise (.gp 0#32)
  setEdxEax c.msr.tsc

/-- RDPMC (`spec/65_debug_and_perfmon.md` R1270). -/
def rdpmcOp : M Unit := do
  let c ← getCpu
  if c.pe && !bit c.ctl.cr4 8 && c.cpl != 0#2 then raise (.gp 0#32)
  if c.gpr.ecx = 0#32 then setEdxEax (c.msr.perfCtr0.setWidth 64)
  else if c.gpr.ecx = 1#32 then setEdxEax (c.msr.perfCtr1.setWidth 64)
  else raise (.gp 0#32)

/-- SGDT (R483). -/
def execSgdt (osz : OpSize) (m : MemOp) (s : State) : Host.Outcome State Fault Refusal :=
  runInstr (do storeTableReg osz m (← getCpu).gdtr) s

/-- SIDT (R485). -/
def execSidt (osz : OpSize) (m : MemOp) (s : State) : Host.Outcome State Fault Refusal :=
  runInstr (do storeTableReg osz m (← getCpu).idtr) s

/-- LGDT (R482). -/
def execLgdt (osz : OpSize) (m : MemOp) (s : State) : Host.Outcome State Fault Refusal :=
  runInstr (lgdtOp osz m) s

/-- LIDT (R484). -/
def execLidt (osz : OpSize) (m : MemOp) (s : State) : Host.Outcome State Fault Refusal :=
  runInstr (lidtOp osz m) s

/-- SMSW (R507). -/
def execSmsw (osz : OpSize) (rm : Rm) (s : State) : Host.Outcome State Fault Refusal :=
  runInstr (smswOp osz rm) s

/-- LMSW (R506). -/
def execLmsw (rm : Rm) (s : State) : Host.Outcome State Fault Refusal :=
  runInstr (lmswOp rm) s

/-- INVLPG (R512). -/
def execInvlpg (m : MemOp) (s : State) : Host.Outcome State Fault Refusal :=
  runInstr (invlpgOp m) s

/-- SLDT (R487). -/
def execSldt (osz : OpSize) (rm : Rm) (s : State) : Host.Outcome State Fault Refusal :=
  runInstr (sldtOp osz rm) s

/-- STR (R489). -/
def execStr (osz : OpSize) (rm : Rm) (s : State) : Host.Outcome State Fault Refusal :=
  runInstr (strOp osz rm) s

/-- LLDT (R486). -/
def execLldt (rm : Rm) (s : State) : Host.Outcome State Fault Refusal :=
  runInstr (lldtOp rm) s

/-- LTR (R488). -/
def execLtr (rm : Rm) (s : State) : Host.Outcome State Fault Refusal :=
  runInstr (ltrOp rm) s

/-- CLTS (R508). -/
def execClts (s : State) : Host.Outcome State Fault Refusal :=
  runInstr (cltsOp) s

/-- INVD (R513, `spec/24_caches_mtrr.md` R392). -/
def execInvd (s : State) : Host.Outcome State Fault Refusal :=
  runInstr (invdOp) s

/-- WBINVD (R513, `spec/24_caches_mtrr.md` R393). -/
def execWbinvd (s : State) : Host.Outcome State Fault Refusal :=
  runInstr (wbinvdOp) s

/-- UD2 (`spec/61_exception_reference.md` R966). -/
def execUd2 (s : State) : Host.Outcome State Fault Refusal :=
  runInstr (raise .ud) s

/-- MOV r32, CRn (R490). -/
def execMovRCr (n : BitVec 3) (r : Gpr) (s : State) : Host.Outcome State Fault Refusal :=
  runInstr (movFromCr n r) s

/-- MOV r32, DRn (`spec/65_debug_and_perfmon.md` R1222). -/
def execMovRDr (n : BitVec 3) (r : Gpr) (s : State) : Host.Outcome State Fault Refusal :=
  runInstr (movFromDr n r) s

/-- MOV CRn, r32 (R490). -/
def execMovCrR (n : BitVec 3) (r : Gpr) (s : State) : Host.Outcome State Fault Refusal :=
  runInstr (movToCr n r) s

/-- MOV DRn, r32 (`spec/65_debug_and_perfmon.md` R1222). -/
def execMovDrR (n : BitVec 3) (r : Gpr) (s : State) : Host.Outcome State Fault Refusal :=
  runInstr (movToDr n r) s

/-- RDTSC (`spec/65_debug_and_perfmon.md` R1262). -/
def execRdtsc (s : State) : Host.Outcome State Fault Refusal :=
  runInstr (rdtscOp) s

/-- RDPMC (`spec/65_debug_and_perfmon.md` R1270). -/
def execRdpmc (s : State) : Host.Outcome State Fault Refusal :=
  runInstr (rdpmcOp) s

/-- CPUID (R533). -/
def execCpuid (s : State) : Host.Outcome State Fault Refusal :=
  runInstr (cpuidOp) s

/-- HLT (R530). -/
def execHlt (s : State) : Host.Outcome State Fault Refusal :=
  runInstr (hltOp) s

/-- STI (R540). -/
def execSti (s : State) : Host.Outcome State Fault Refusal :=
  runInstr (stiOp) s

/-- CLI (R541). -/
def execCli (s : State) : Host.Outcome State Fault Refusal :=
  runInstr (cliOp) s

/-- PUSHF (R543). -/
def execPushf (osz : OpSize) (s : State) : Host.Outcome State Fault Refusal :=
  runInstr (pushfOp osz) s

/-- POPF (R542). -/
def execPopf (osz : OpSize) (s : State) : Host.Outcome State Fault Refusal :=
  runInstr (popfOp osz) s

end Sys2Proof.Machine
end

