-- ==== Sys2Proof/Machine/Msr.lean ====
section
/-!
DEFINITION. Model-specific registers: RDMSR and WRMSR (`spec/40_system_instructions.md` R520, R521), for every MSR of
`spec/10_state.md` R86 and BBL_CR_OVRD (`spec/70_reset_and_hazards.md` R1344).
-/
namespace Sys2Proof.Machine

/-- The index of a fixed-range MTRR by its address (`spec/24_caches_mtrr.md` R400). -/
def mtrrFixIndex (a : Nat) : Option Nat :=
  if a = 0x250 then some 0
  else if a = 0x258 then some 1
  else if a = 0x259 then some 2
  else if 0x268 ≤ a ∧ a < 0x270 then some (a - 0x268 + 3)
  else none

/-- The registers of machine-check bank i: CTL, STATUS and ADDR (`spec/64_machine_check.md` R1176). -/
def Msrs.bankGet (m : Msrs) (i k : Nat) : Option W64 :=
  match k with
  | 0 => some (m.mcCtl.toList.getD i 0#64)
  | 1 => some (m.mcStatus.toList.getD i 0#64)
  | 2 => some (m.mcAddr.toList.getD i 0#64)
  | _ => none

/-- The value of the MSR at an address; none if no MSR is there, or if reading it faults. 0H and 1H show the bank that reports
external bus errors (`spec/64_machine_check.md` R1172). 17H, which R520 and the table of
`spec/10_state.md` R86 leave out, can be read, as `spec/70_reset_and_hazards.md` R1344 says (log 36). -/
def Msrs.get (m : Msrs) (a : Nat) : Option W64 :=
  match a with
  | 0x00 => m.bankGet Config.busErrorBank.val 2
  | 0x01 => m.bankGet Config.busErrorBank.val 1
  | 0x10 => some m.tsc
  | 0x17 => some m.bblCrOvrd
  | 0x1B => some m.apicBase
  | 0x79 => some 0#64
  | 0x8B => some m.mcuSignature
  | 0xC1 => some (m.perfCtr0.setWidth 64)
  | 0xC2 => some (m.perfCtr1.setWidth 64)
  | 0xFE => some Config.mtrrCap
  | 0x179 => some Config.mcgCap
  | 0x17A => some m.mcgStatus
  | 0x186 => some (m.perfEvtSel0.setWidth 64)
  | 0x187 => some (m.perfEvtSel1.setWidth 64)
  | 0x1D9 => some m.debugCtl
  | 0x1DB => some (m.lastBranchFrom.setWidth 64)
  | 0x1DC => some (m.lastBranchTo.setWidth 64)
  | 0x1DD => some (m.lastExcFrom.setWidth 64)
  | 0x1DE => some (m.lastExcTo.setWidth 64)
  | 0x277 => some m.pat
  | 0x2FF => some m.mtrrDefType
  | a =>
    if 0x200 ≤ a ∧ a < 0x210 then
      some ((if a % 2 = 0 then m.mtrrPhysBase else m.mtrrPhysMask).toList.getD ((a - 0x200) / 2) 0#64)
    else if 0x400 ≤ a ∧ a < 0x414 then m.bankGet ((a - 0x400) / 4) (a % 4)
    else (mtrrFixIndex a).map (m.mtrrFix.toList.getD · 0#64)

/-- Is a branch-record MSR undefined at this time (`spec/65_debug_and_perfmon.md` R1246, U102; log 32)? -/
def Msrs.traceFree (m : Msrs) (a : Nat) : Bool := m.debugCtl.getLsbD 6 && 0x1DB ≤ a && a ≤ 0x1DE

/-- RDMSR (R520). -/
def rdmsrOp : M Unit := do
  priv0
  let c ← getCpu
  let a := c.gpr.ecx.toNat
  if c.msr.traceFree a then
    let f ← onBus free
    setEdxEax (f.setWidth 64)
  else
    match c.msr.get a with
    | none => raise (.gp 0#32)
    | some v => setEdxEax v

/-- A type that an MTRR field may hold (`spec/24_caches_mtrr.md` R386, R402). -/
def mtrrTypeOk (t : Byte) : Bool := t == 0#8 || t == 1#8 || t == 4#8 || t == 5#8 || t == 6#8

/-- A type that a PAT field may hold (`spec/24_caches_mtrr.md` R430). -/
def patTypeOk (t : Byte) : Bool := mtrrTypeOk t || t == 7#8

/-- Do all eight fields of a register pass the test? -/
def allFields (ok : Byte → Bool) (v : W64) : Bool := (List.range 8).all fun k => ok (v.extractLsb' (8 * k) 8)

/-- Does a value keep to the bits of a mask? -/
def within (v mask : W64) : Bool := v &&& ~~~mask == 0#64

/-- The new APIC_BASE: BSP is not written (`spec/62_apic_and_mp.md` R1021; log 36). -/
def apicBaseValue (old v : W64) : W64 := (v &&& 0xFFFFFFFFFFFFFEFF#64) ||| (old &&& 0x100#64)

/-- WRMSR to machine-check bank i (`spec/64_machine_check.md` R1177 to R1180). R1177 does not say which bits of MCi_CTL are
implemented: all 64 are, in every bank, which is the model's choice (log 36). -/
def Msrs.bankSet (m : Msrs) (i k : Nat) (v : W64) : Option Msrs :=
  match k with
  | 0 =>
    if v = 0#64 ∨ v = 0xFFFFFFFFFFFFFFFF#64 then some { m with mcCtl := m.mcCtl.setIfInBounds i v } else none
  | 1 => if v = 0#64 then some { m with mcStatus := m.mcStatus.setIfInBounds i v } else none
  | 2 => if within v 0xFFFFFFFFF#64 then some { m with mcAddr := m.mcAddr.setIfInBounds i v } else none
  | _ => none

/-- Write if the value is one that the register accepts. -/
def accepts (ok : Bool) (m : Msrs) : Option Msrs := if ok then some m else none

/-- The registers after WRMSR; none for #GP(0): no such MSR, a read-only one, a reserved bit or a forbidden encoding
(R521, `spec/61_exception_reference.md` R973 item 23). That a write of the read-only register 17H raises #GP(0) is the
model's choice (log 36). -/
def Msrs.set (m : Msrs) (a : Nat) (v : W64) : Option Msrs :=
  let lo : W32 := v.extractLsb' 0 32
  match a with
  | 0x00 => m.bankSet Config.busErrorBank.val 2 v
  | 0x01 => m.bankSet Config.busErrorBank.val 1 v
  | 0x10 => some { m with tsc := lo.setWidth 64 }
  | 0x1B => accepts (within v 0xFFFFFF900#64) { m with apicBase := apicBaseValue m.apicBase v }
  | 0x8B => some { m with mcuSignature := v }
  | 0xC1 => some { m with perfCtr0 := lo.signExtend 40 }
  | 0xC2 => some { m with perfCtr1 := lo.signExtend 40 }
  | 0x17A => accepts (within v 0x7#64) { m with mcgStatus := v }
  | 0x186 => accepts (within v 0xFFDFFFFF#64) { m with perfEvtSel0 := lo }
  | 0x187 => accepts (within v 0xFF9FFFFF#64) { m with perfEvtSel1 := lo }
  | 0x1D9 => accepts (within v 0x7F#64) { m with debugCtl := v }
  | 0x1DB => accepts (within v 0xFFFFFFFF#64) m
  | 0x1DC => accepts (within v 0xFFFFFFFF#64) m
  | 0x1DD => accepts (within v 0xFFFFFFFF#64) m
  | 0x1DE => accepts (within v 0xFFFFFFFF#64) m
  | 0x277 => accepts (allFields patTypeOk v) { m with pat := v }
  | 0x2FF => accepts (within v 0xCFF#64 && mtrrTypeOk (v.extractLsb' 0 8)) { m with mtrrDefType := v }
  | a =>
    if 0x200 ≤ a ∧ a < 0x210 then
      if a % 2 = 0 then
        accepts (within v 0xFFFFFF0FF#64 && mtrrTypeOk (v.extractLsb' 0 8))
          { m with mtrrPhysBase := m.mtrrPhysBase.setIfInBounds ((a - 0x200) / 2) v }
      else
        accepts (within v 0xFFFFFF800#64) { m with mtrrPhysMask := m.mtrrPhysMask.setIfInBounds ((a - 0x200) / 2) v }
    else if 0x400 ≤ a ∧ a < 0x414 then m.bankSet ((a - 0x400) / 4) (a % 4) v
    else
      match mtrrFixIndex a with
      | none => none
      | some i => accepts (allFields mtrrTypeOk v) { m with mtrrFix := m.mtrrFix.setIfInBounds i v }

/-- Is this the address of an MTRR? Writing one drops every cached translation (`spec/21_paging.md` R241). -/
def isMtrr (a : Nat) : Bool := a == 0x2FF || (0x200 ≤ a && a < 0x210) || (mtrrFixIndex a).isSome

/-- The sum of the doublewords in a block (`spec/70_reset_and_hazards.md` R1345). -/
def dwordSum : List Byte → W32
  | a :: b :: c :: d :: t => BitVec.ofNat 32 (leNat [a, b, c, d]) + dwordSum t
  | _ => 0#32

/-- A doubleword of a block. -/
def dwordAt (block : List Byte) (off : Nat) : W32 := BitVec.ofNat 32 (leNat ((block.drop off).take 4))

/-- The update that a block holds, if it is one for this processor: its revision (`spec/70_reset_and_hazards.md`
R1344, R1345; log 33). -/
def updateRevision (m : Msrs) (block : List Byte) : Option W32 :=
  if dwordAt block 0 = 1#32 ∧ dwordAt block 20 = 1#32 ∧ dwordAt block 12 = Config.cpuidSignature
    ∧ bit (dwordAt block 24) (m.bblCrOvrd.extractLsb' 50 3).toNat ∧ dwordSum block = 0#32
  then some (dwordAt block 4) else none

/-- WRMSR to 79H: load a microcode update, whose data starts at the linear address in EAX
(`spec/70_reset_and_hazards.md` R1346, D61; log 33). -/
def loadUpdate (v : W64) : M Unit := do
  if !within v 0xFFFFFFFF#64 then raise (.gp 0#32)
  let block ← onBus (linBytes (v.extractLsb' 0 32 - 48#32) 2048 false)
  match updateRevision (← getCpu).msr block with
  | none => pure ()
  | some r => modCpu fun c => { c with msr.mcuRevision := r }

/-- The branch-record MSRs keep undefined contents when TR is cleared (U102; log 32). -/
def freeRecords : M Unit := do
  let a ← onBus free
  let b ← onBus free
  let d ← onBus free
  let e ← onBus free
  modCpu fun c => { c with
    msr.lastBranchFrom := a, msr.lastBranchTo := b, msr.lastExcFrom := d, msr.lastExcTo := e }

/-- WRMSR (R521). -/
def wrmsrOp : M Unit := do
  priv0
  let c ← getCpu
  let a := c.gpr.ecx.toNat
  let v : W64 := c.gpr.edx ++ c.gpr.eax
  if a = 0x79 then loadUpdate v
  else
    match c.msr.set a v with
    | none => raise (.gp 0#32)
    | some m =>
      modCpu fun c => { c with msr := m }
      if isMtrr a then onBus (modBus Bus.flushAll)
      if a = 0x1D9 ∧ c.msr.debugCtl.getLsbD 6 ∧ !v.getLsbD 6 then freeRecords
  serialize

/-- RDMSR (`spec/40_system_instructions.md` R520). -/
def execRdmsr (s : State) : Host.Outcome State Fault Refusal :=
  runInstr (rdmsrOp) s

/-- WRMSR (`spec/40_system_instructions.md` R521). -/
def execWrmsr (s : State) : Host.Outcome State Fault Refusal :=
  runInstr (wrmsrOp) s

end Sys2Proof.Machine
end

