-- ==== Sys2Proof/Machine/Smm.lean ====
section
/-!
DEFINITION. System management mode (`spec/63_smm.md` R1110 to R1145): entry and RSM.
-/
namespace Sys2Proof.Machine

/-- The fields of the state save map that hold values (R1121): offset, bytes, value. -/
def smmMap (c : Cpu) : List (Nat × Nat × Nat) :=
  [(0x7FFC, 4, c.ctl.cr0.toNat), (0x7FF8, 4, c.ctl.cr3.toNat), (0x7FF4, 4, c.fl.toBits.toNat),
   (0x7FF0, 4, c.eip.toNat), (0x7FEC, 4, c.gpr.edi.toNat), (0x7FE8, 4, c.gpr.esi.toNat),
   (0x7FE4, 4, c.gpr.ebp.toNat), (0x7FE0, 4, c.gpr.esp.toNat), (0x7FDC, 4, c.gpr.ebx.toNat),
   (0x7FD8, 4, c.gpr.edx.toNat), (0x7FD4, 4, c.gpr.ecx.toNat), (0x7FD0, 4, c.gpr.eax.toNat),
   (0x7FCC, 4, c.dbg.dr6.toNat), (0x7FC8, 4, c.dbg.dr7.toNat), (0x7FC4, 2, c.tr.sel.toNat),
   (0x7FC0, 2, c.ldtr.sel.toNat), (0x7FBC, 2, c.seg.gs.sel.toNat), (0x7FB8, 2, c.seg.fs.sel.toNat),
   (0x7FB4, 2, c.seg.ds.sel.toNat), (0x7FB0, 2, c.seg.ss.sel.toNat), (0x7FAC, 2, c.seg.cs.sel.toNat),
   (0x7FA8, 2, c.seg.es.sel.toNat), (0x7F02, 2, if c.hid.run = .halted then 1 else 0), (0x7F00, 2, 0),
   (0x7EFC, 4, Config.smmRevision.toNat), (0x7EF8, 4, c.smm.smbase.toNat)]

/-- The physical addresses of n bytes of the map. -/
def smmAddrs (c : Cpu) (off n : Nat) : List Nat :=
  (List.range n).map fun i => (c.smm.smbase + BitVec.ofNat 32 (0x8000 + off + i)).toNat

/-- The memory types of physical addresses, accessed without paging. -/
def typesOf : List Nat → B (List MemType)
  | [] => return []
  | a :: t => do return (← typeOrRefuse none a) :: (← typesOf t)

/-- The bytes of the map as a physical access. SMRAM is ordinary memory (D90): its type comes from the MTRRs, and the access is
refused as every other where they define none (`spec/24_caches_mtrr.md` R406, U61) and with CD = NW = 1 and lines in the caches
(R385, D70; log 22). -/
def smmPhys (off n : Nat) : B Phys := do
  let c ← regs
  if incoherent c (← getBus) then refuseB .cacheIncoherent
  let as := smmAddrs c off n
  return { la := c.smm.smbase + BitVec.ofNat 32 (0x8000 + off), addrs := as, types := ← typesOf as, leaves := [] }

/-- Write the map to SMRAM. The processor's own accesses to it reach memory, not the APIC page (log 17). Translations may be
loaded before each store and after the last (`spec/21_paging.md` R236, `spec/24_caches_mtrr.md` R397; log 12). -/
def writeMap : List (Nat × Nat × Nat) → B Unit
  | [] => speculate
  | (off, n, v) :: t => do
    speculate
    let p ← smmPhys off n
    modBus (Bus.store (← regs) p (leBytes n v))
    writeMap t

/-- Bytes of the map as they are now. -/
def mapBytes (off n : Nat) : B (List Byte) := do
  let p ← smmPhys off n
  let bytes := (← getBus).readBytes p.addrs
  modBus Bus.accessed
  return bytes

/-- A field of the map as it is now. -/
def mapField (off n : Nat) : B Nat := do return leNat (← mapBytes off n)

/-- The reserved ranges of the map, and the reserved upper halves of the selector slots (R1121): offset, bytes. -/
def smmReserved : List (Nat × Nat) :=
  [(0x7FC6, 2), (0x7FC2, 2), (0x7FBE, 2), (0x7FBA, 2), (0x7FB6, 2), (0x7FB2, 2), (0x7FAE, 2), (0x7FAA, 2),
   (0x7F04, 164), (0x7E00, 248)]

/-- The reserved bytes of the map as they are now. -/
def mapReserved : List (Nat × Nat) → B (List Byte)
  | [] => return []
  | (off, n) :: t => do return (← mapBytes off n) ++ (← mapReserved t)

/-- Eight free general registers (R1112, U70; log 22). -/
def freeGprs : B Gprs := do
  return { eax := ← free, ecx := ← free, edx := ← free, ebx := ← free, esp := ← free, ebp := ← free, esi := ← free
           edi := ← free }

/-- A segment register on entry (R1135). -/
def SegReg.smm (sel : W16) (base : W32) : SegReg := { SegReg.realMode sel base with limit := 0xFFFFFFFF#32 }

/-- The segment registers on entry (R1135). -/
def SegRegs.smm (smbase : W32) : SegRegs :=
  let z := SegReg.smm 0#16 0#32
  { es := z, cs := .smm ((smbase >>> 4).extractLsb' 0 16) smbase, ss := z, ds := z, fs := z, gs := z }

/-- EnterSMM (R1112). Entry drops the old bytes of stores into code as a serializing instruction does, which
`spec/23_ordering.md` R353 does not list: the model's choice (log 13). -/
def enterSmm : M Unit := do
  let c ← getCpu
  onBus (writeMap (smmMap c))
  let reserved ← onBus (mapReserved smmReserved)
  let g ← onBus freeGprs
  let dr6 ← onBus free
  modCpu fun c => { c with
    gpr := g, fl := .reset, eip := 0x8000#32, seg := .smm c.smm.smbase, cpl := 0#2
    ctl.cr0 := c.ctl.cr0 &&& 0x7FFFFFF2#32, ctl.cr4 := 0#32
    dbg.dr6 := dr6Value dr6, dbg.dr7 := 0x400#32
    smm.inSmm := true, smm.smiBlocked := true, smm.nmiBlockedBySmm := true, smm.lidtDone := false
    smm.ioRestartEip := c.notes.ioEip
    smm.saved := some
      { cr0 := c.ctl.cr0, cr3 := c.ctl.cr3, cr4 := c.ctl.cr4, dr6 := c.dbg.dr6, dr7 := c.dbg.dr7, segs := c.seg
        ldtrSel := c.ldtr.sel, trSel := c.tr.sel, halted := c.hid.run == .halted, haltEip := c.hid.haltEip
        cpl := c.cpl, reserved }
    hid := { c.hid with run := .running, ssShadow := false, stiShadow := false, pendingDb := none } }
  serialize

/-- The images that the handler must not modify, other than CR0 (R1121): offset, bytes, value. -/
def readOnlyImages (v : SmmSaved) : List (Nat × Nat × Nat) :=
  [(0x7FF8, 4, v.cr3.toNat), (0x7FCC, 4, v.dr6.toNat), (0x7FC8, 4, v.dr7.toNat), (0x7FC4, 2, v.trSel.toNat),
   (0x7FC0, 2, v.ldtrSel.toNat), (0x7FBC, 2, v.segs.gs.sel.toNat), (0x7FB8, 2, v.segs.fs.sel.toNat),
   (0x7FB4, 2, v.segs.ds.sel.toNat), (0x7FB0, 2, v.segs.ss.sel.toNat), (0x7FAC, 2, v.segs.cs.sel.toNat),
   (0x7FA8, 2, v.segs.es.sel.toNat), (0x7EFC, 4, Config.smmRevision.toNat)]

/-- Refuse if an image, other than those of CR0 and of the reserved bytes, has been modified (U71). -/
def checkImages : List (Nat × Nat × Nat) → B Unit
  | [] => pure ()
  | (off, n, v) :: t => do
    if (← mapField off n) ≠ v then refuseB .smmMapModified
    checkImages t

/-- An image of CR0 or CR4 that makes RSM shut the processor down (R1116). -/
def rsmInvalid (cr0 cr4 : W32) : Bool :=
  (bit cr0 31 && !bit cr0 0) || (bit cr0 29 && !bit cr0 30) || cr4 &&& 0xFFFFF800#32 != 0#32

/-- The general registers in the map. -/
def mapGprs : B Gprs := do
  let f (off : Nat) : B W32 := do return BitVec.ofNat 32 (← mapField off 4)
  return { eax := ← f 0x7FD0, ecx := ← f 0x7FD4, edx := ← f 0x7FD8, ebx := ← f 0x7FDC, esp := ← f 0x7FE0
           ebp := ← f 0x7FE4, esi := ← f 0x7FE8, edi := ← f 0x7FEC }

/-- EIP after RSM: the HLT, which is executed again, if the handler leaves the restart flag set (R1142); the I/O instruction
if it asks for its restart (R1145). A restart without an I/O instruction goes to a free value (log 22). -/
def rsmEip (v : SmmSaved) (halt : Bool) (io : Nat) : B W32 := do
  let eip : W32 := BitVec.ofNat 32 (← mapField 0x7FF0 4)
  if halt then return v.haltEip
  else if io = 0xFF then
    match (← regs).smm.ioRestartEip with
    | some e => return e
    | none => free
  else return eip

/-- The registers that RSM loads from the map and from what SMM entry saved (R1115, R1121, R1122). -/
def Cpu.resumed (c : Cpu) (v : SmmSaved) (cr0 : W32) (g : Gprs) (fl eip : W32) : Cpu :=
  { c with
    gpr := g, fl := .ofBits fl, eip, seg := v.segs, cpl := v.cpl, ldtr.sel := v.ldtrSel, tr.sel := v.trSel
    ctl.cr0 := cr0, ctl.cr3 := v.cr3, ctl.cr4 := v.cr4, dbg.dr6 := v.dr6, dbg.dr7 := v.dr7, notes.keepRf := true }

/-- SMM is left (R1115, R1139). -/
def Cpu.leftSmm (c : Cpu) (smbase : W32) : Cpu :=
  { c with
    smm := { c.smm with
      smbase, inSmm := false, smiBlocked := false, nmiBlockedBySmm := false, saved := none, ioRestartEip := none }
    hid := { c.hid with run := .running, nmiBlocked := false, ssShadow := false, stiShadow := false } }

/-- The cached translations that RSM drops, as moves of its values to CR0, CR3 and CR4 would (`spec/21_paging.md` R240,
R241; `spec/23_ordering.md` R354). -/
def Bus.resumed (c : Cpu) (cr0 cr4 : W32) (b : Bus) : Bus :=
  if (c.ctl.cr0 ^^^ cr0) &&& 0x80000001#32 ≠ 0#32 ∨ (c.ctl.cr4 ^^^ cr4) &&& 0xB0#32 ≠ 0#32 then b.flushAll
  else b.flushLocal

/-- RSM in SMM (R1115, R1116), `v` being what entry saved: an image that may not be modified must be as entry left it, but
an image of CR0 that is illegal shuts the processor down with all of the registers loaded, still in SMM; the reserved bits
of CR0 are fixed then as MOV fixes them, and CPL is 0, as it is in SMM (`spec/10_state.md` R52; log 22). Of the restart word
of R1142 bit 0 alone is looked at, whatever the handler has put into the reserved bits 15:1: the model's choice (log 22). -/
def rsmLoad (v : SmmSaved) : M Unit := do
  let c ← getCpu
  onBus (checkImages (readOnlyImages v))
  if (← onBus (mapReserved smmReserved)) ≠ v.reserved then throw (.refuse .smmMapModified)
  let cr0 : W32 := BitVec.ofNat 32 (← onBus (mapField 0x7FFC 4))
  let halt ← onBus (mapField 0x7F02 2)
  let io ← onBus (mapField 0x7F00 2)
  if (halt.testBit 0 && !v.halted) || (io ≠ 0 ∧ io ≠ 0xFF) then throw (.refuse .smmMapModified)
  let eip ← onBus (rsmEip v (halt.testBit 0) io)
  let g ← onBus mapGprs
  let fl ← onBus (mapField 0x7FF4 4)
  let base ← onBus (mapField 0x7EF8 4)
  let invalid := rsmInvalid cr0 v.cr4
  if !invalid ∧ cr0 ≠ v.cr0 then throw (.refuse .smmMapModified)
  let cr0 := if invalid then cr0Value cr0 else cr0
  modCpu fun c => c.resumed v cr0 g (BitVec.ofNat 32 fl) eip
  onBus (modBus (Bus.resumed c cr0 v.cr4))
  serialize
  if invalid then modCpu fun c => { c with cpl := 0#2, hid.run := .shutdown }
  else modCpu (·.leftSmm (BitVec.ofNat 32 base))

/-- RSM (R1115, R1116). -/
def rsmOp : M Unit := do
  let c ← getCpu
  if !c.smm.inSmm then raise .ud
  match c.smm.saved with
  | none => throw (.refuse .smmMapModified)
  | some v => rsmLoad v

/-- RSM (R1115). -/
def execRsm (s : State) : Host.Outcome State Fault Refusal :=
  runInstr (rsmOp) s

end Sys2Proof.Machine
end

