-- ==== Sys2Proof/Machine/Dispatch.lean ====
section
/-!
DEFINITION. One arm per instruction: each calls the meaning of that instruction.
-/
namespace Sys2Proof.Machine

def exec (i : Instr) (s : State) : Host.Outcome State Fault Refusal :=
  match i with
  | .sgdt osz m => Sys2Proof.Machine.execSgdt osz m s
  | .sidt osz m => Sys2Proof.Machine.execSidt osz m s
  | .lgdt osz m => Sys2Proof.Machine.execLgdt osz m s
  | .lidt osz m => Sys2Proof.Machine.execLidt osz m s
  | .smsw osz rm => Sys2Proof.Machine.execSmsw osz rm s
  | .lmsw rm => Sys2Proof.Machine.execLmsw rm s
  | .invlpg m => Sys2Proof.Machine.execInvlpg m s
  | .sldt osz rm => Sys2Proof.Machine.execSldt osz rm s
  | .str osz rm => Sys2Proof.Machine.execStr osz rm s
  | .lldt rm => Sys2Proof.Machine.execLldt rm s
  | .ltr rm => Sys2Proof.Machine.execLtr rm s
  | .verr rm => Sys2Proof.Machine.execVerr rm s
  | .verw rm => Sys2Proof.Machine.execVerw rm s
  | .lar osz r rm => Sys2Proof.Machine.execLar osz r rm s
  | .lsl osz r rm => Sys2Proof.Machine.execLsl osz r rm s
  | .clts => Sys2Proof.Machine.execClts s
  | .invd => Sys2Proof.Machine.execInvd s
  | .wbinvd => Sys2Proof.Machine.execWbinvd s
  | .ud2 => Sys2Proof.Machine.execUd2 s
  | .movRCr n r => Sys2Proof.Machine.execMovRCr n r s
  | .movRDr n r => Sys2Proof.Machine.execMovRDr n r s
  | .movCrR n r => Sys2Proof.Machine.execMovCrR n r s
  | .movDrR n r => Sys2Proof.Machine.execMovDrR n r s
  | .wrmsr => Sys2Proof.Machine.execWrmsr s
  | .rdtsc => Sys2Proof.Machine.execRdtsc s
  | .rdmsr => Sys2Proof.Machine.execRdmsr s
  | .rdpmc => Sys2Proof.Machine.execRdpmc s
  | .emms => Sys2Proof.Machine.execEmms s
  | .jccRel cc rel => Sys2Proof.Machine.execJccRel cc rel s
  | .pushFs osz => Sys2Proof.Machine.execPushFs osz s
  | .popFs osz => Sys2Proof.Machine.execPopFs osz s
  | .cpuid => Sys2Proof.Machine.execCpuid s
  | .pushGs osz => Sys2Proof.Machine.execPushGs osz s
  | .popGs osz => Sys2Proof.Machine.execPopGs osz s
  | .rsm => Sys2Proof.Machine.execRsm s
  | .fxsave m => Sys2Proof.Machine.execFxsave m s
  | .fxrstor m => Sys2Proof.Machine.execFxrstor m s
  | .ldmxcsr m => Sys2Proof.Machine.execLdmxcsr m s
  | .stmxcsr m => Sys2Proof.Machine.execStmxcsr m s
  | .sfence => Sys2Proof.Machine.execSfence s
  | .lss osz r m => Sys2Proof.Machine.execLss osz r m s
  | .lfs osz r m => Sys2Proof.Machine.execLfs osz r m s
  | .lgs osz r m => Sys2Proof.Machine.execLgs osz r m s
  | .addRm8R8 lock rm r => Sys2Proof.Machine.execAddRm8R8 lock rm r s
  | .addRmR lock osz rm r => Sys2Proof.Machine.execAddRmR lock osz rm r s
  | .addR8Rm8 r rm => Sys2Proof.Machine.execAddR8Rm8 r rm s
  | .addRRm osz r rm => Sys2Proof.Machine.execAddRRm osz r rm s
  | .addAlImm8 imm => Sys2Proof.Machine.execAddAlImm8 imm s
  | .addEaxImm imm => Sys2Proof.Machine.execAddEaxImm imm s
  | .addRm8Imm8 lock rm imm => Sys2Proof.Machine.execAddRm8Imm8 lock rm imm s
  | .addRmImm lock rm imm => Sys2Proof.Machine.execAddRmImm lock rm imm s
  | .addRmImm8 lock osz rm imm => Sys2Proof.Machine.execAddRmImm8 lock osz rm imm s
  | .pushEs osz => Sys2Proof.Machine.execPushEs osz s
  | .popEs osz => Sys2Proof.Machine.execPopEs osz s
  | .orRm8R8 lock rm r => Sys2Proof.Machine.execOrRm8R8 lock rm r s
  | .orRmR lock osz rm r => Sys2Proof.Machine.execOrRmR lock osz rm r s
  | .orR8Rm8 r rm => Sys2Proof.Machine.execOrR8Rm8 r rm s
  | .orRRm osz r rm => Sys2Proof.Machine.execOrRRm osz r rm s
  | .orAlImm8 imm => Sys2Proof.Machine.execOrAlImm8 imm s
  | .orEaxImm imm => Sys2Proof.Machine.execOrEaxImm imm s
  | .orRm8Imm8 lock rm imm => Sys2Proof.Machine.execOrRm8Imm8 lock rm imm s
  | .orRmImm lock rm imm => Sys2Proof.Machine.execOrRmImm lock rm imm s
  | .orRmImm8 lock osz rm imm => Sys2Proof.Machine.execOrRmImm8 lock osz rm imm s
  | .pushCs osz => Sys2Proof.Machine.execPushCs osz s
  | .pushSs osz => Sys2Proof.Machine.execPushSs osz s
  | .popSs osz => Sys2Proof.Machine.execPopSs osz s
  | .pushDs osz => Sys2Proof.Machine.execPushDs osz s
  | .popDs osz => Sys2Proof.Machine.execPopDs osz s
  | .andRm8R8 lock rm r => Sys2Proof.Machine.execAndRm8R8 lock rm r s
  | .andRmR lock osz rm r => Sys2Proof.Machine.execAndRmR lock osz rm r s
  | .andR8Rm8 r rm => Sys2Proof.Machine.execAndR8Rm8 r rm s
  | .andRRm osz r rm => Sys2Proof.Machine.execAndRRm osz r rm s
  | .andAlImm8 imm => Sys2Proof.Machine.execAndAlImm8 imm s
  | .andEaxImm imm => Sys2Proof.Machine.execAndEaxImm imm s
  | .andRm8Imm8 lock rm imm => Sys2Proof.Machine.execAndRm8Imm8 lock rm imm s
  | .andRmImm lock rm imm => Sys2Proof.Machine.execAndRmImm lock rm imm s
  | .andRmImm8 lock osz rm imm => Sys2Proof.Machine.execAndRmImm8 lock osz rm imm s
  | .subRm8R8 lock rm r => Sys2Proof.Machine.execSubRm8R8 lock rm r s
  | .subRmR lock osz rm r => Sys2Proof.Machine.execSubRmR lock osz rm r s
  | .subR8Rm8 r rm => Sys2Proof.Machine.execSubR8Rm8 r rm s
  | .subRRm osz r rm => Sys2Proof.Machine.execSubRRm osz r rm s
  | .subAlImm8 imm => Sys2Proof.Machine.execSubAlImm8 imm s
  | .subEaxImm imm => Sys2Proof.Machine.execSubEaxImm imm s
  | .subRm8Imm8 lock rm imm => Sys2Proof.Machine.execSubRm8Imm8 lock rm imm s
  | .subRmImm lock rm imm => Sys2Proof.Machine.execSubRmImm lock rm imm s
  | .subRmImm8 lock osz rm imm => Sys2Proof.Machine.execSubRmImm8 lock osz rm imm s
  | .xorRm8R8 lock rm r => Sys2Proof.Machine.execXorRm8R8 lock rm r s
  | .xorRmR lock osz rm r => Sys2Proof.Machine.execXorRmR lock osz rm r s
  | .xorR8Rm8 r rm => Sys2Proof.Machine.execXorR8Rm8 r rm s
  | .xorRRm osz r rm => Sys2Proof.Machine.execXorRRm osz r rm s
  | .xorAlImm8 imm => Sys2Proof.Machine.execXorAlImm8 imm s
  | .xorEaxImm imm => Sys2Proof.Machine.execXorEaxImm imm s
  | .xorRm8Imm8 lock rm imm => Sys2Proof.Machine.execXorRm8Imm8 lock rm imm s
  | .xorRmImm lock rm imm => Sys2Proof.Machine.execXorRmImm lock rm imm s
  | .xorRmImm8 lock osz rm imm => Sys2Proof.Machine.execXorRmImm8 lock osz rm imm s
  | .cmpRm8R8 rm r => Sys2Proof.Machine.execCmpRm8R8 rm r s
  | .cmpRmR osz rm r => Sys2Proof.Machine.execCmpRmR osz rm r s
  | .cmpR8Rm8 r rm => Sys2Proof.Machine.execCmpR8Rm8 r rm s
  | .cmpRRm osz r rm => Sys2Proof.Machine.execCmpRRm osz r rm s
  | .cmpAlImm8 imm => Sys2Proof.Machine.execCmpAlImm8 imm s
  | .cmpEaxImm imm => Sys2Proof.Machine.execCmpEaxImm imm s
  | .cmpRm8Imm8 rm imm => Sys2Proof.Machine.execCmpRm8Imm8 rm imm s
  | .cmpRmImm rm imm => Sys2Proof.Machine.execCmpRmImm rm imm s
  | .cmpRmImm8 osz rm imm => Sys2Proof.Machine.execCmpRmImm8 osz rm imm s
  | .incR osz r => Sys2Proof.Machine.execIncR osz r s
  | .decR osz r => Sys2Proof.Machine.execDecR osz r s
  | .pushR osz r => Sys2Proof.Machine.execPushR osz r s
  | .popR osz r => Sys2Proof.Machine.execPopR osz r s
  | .bound osz r m => Sys2Proof.Machine.execBound osz r m s
  | .arpl rm r => Sys2Proof.Machine.execArpl rm r s
  | .pushImm imm => Sys2Proof.Machine.execPushImm imm s
  | .pushImm8 osz imm => Sys2Proof.Machine.execPushImm8 osz imm s
  | .jccRel8 osz cc imm => Sys2Proof.Machine.execJccRel8 osz cc imm s
  | .testRm8R8 rm r => Sys2Proof.Machine.execTestRm8R8 rm r s
  | .testRmR osz rm r => Sys2Proof.Machine.execTestRmR osz rm r s
  | .xchgRm8R8 lock rm r => Sys2Proof.Machine.execXchgRm8R8 lock rm r s
  | .xchgRmR lock osz rm r => Sys2Proof.Machine.execXchgRmR lock osz rm r s
  | .movRm8R8 rm r => Sys2Proof.Machine.execMovRm8R8 rm r s
  | .movRmR osz rm r => Sys2Proof.Machine.execMovRmR osz rm r s
  | .movR8Rm8 r rm => Sys2Proof.Machine.execMovR8Rm8 r rm s
  | .movRRm osz r rm => Sys2Proof.Machine.execMovRRm osz r rm s
  | .movRmSreg osz rm sr => Sys2Proof.Machine.execMovRmSreg osz rm sr s
  | .lea osz r m => Sys2Proof.Machine.execLea osz r m s
  | .movSregRm sr rm => Sys2Proof.Machine.execMovSregRm sr rm s
  | .popRm osz rm => Sys2Proof.Machine.execPopRm osz rm s
  | .nop => Sys2Proof.Machine.execNop s
  | .xchgEaxR osz r => Sys2Proof.Machine.execXchgEaxR osz r s
  | .callFarPtr p => Sys2Proof.Machine.execCallFarPtr p s
  | .wait => Sys2Proof.Machine.execWait s
  | .pushf osz => Sys2Proof.Machine.execPushf osz s
  | .popf osz => Sys2Proof.Machine.execPopf osz s
  | .testAlImm8 imm => Sys2Proof.Machine.execTestAlImm8 imm s
  | .testEaxImm imm => Sys2Proof.Machine.execTestEaxImm imm s
  | .movR8Imm8 r imm => Sys2Proof.Machine.execMovR8Imm8 r imm s
  | .movRImm r imm => Sys2Proof.Machine.execMovRImm r imm s
  | .retNearImm osz imm => Sys2Proof.Machine.execRetNearImm osz imm s
  | .retNear osz => Sys2Proof.Machine.execRetNear osz s
  | .les osz r m => Sys2Proof.Machine.execLes osz r m s
  | .lds osz r m => Sys2Proof.Machine.execLds osz r m s
  | .movRm8Imm8 rm imm => Sys2Proof.Machine.execMovRm8Imm8 rm imm s
  | .movRmImm rm imm => Sys2Proof.Machine.execMovRmImm rm imm s
  | .retFarImm osz imm => Sys2Proof.Machine.execRetFarImm osz imm s
  | .retFar osz => Sys2Proof.Machine.execRetFar osz s
  | .int3 => Sys2Proof.Machine.execInt3 s
  | .intN imm => Sys2Proof.Machine.execIntN imm s
  | .into => Sys2Proof.Machine.execInto s
  | .iret osz => Sys2Proof.Machine.execIret osz s
  | .fninit => Sys2Proof.Machine.execFninit s
  | .inAlImm8 imm => Sys2Proof.Machine.execInAlImm8 imm s
  | .inEaxImm8 osz imm => Sys2Proof.Machine.execInEaxImm8 osz imm s
  | .outImm8Al imm => Sys2Proof.Machine.execOutImm8Al imm s
  | .outImm8Eax osz imm => Sys2Proof.Machine.execOutImm8Eax osz imm s
  | .callRel imm => Sys2Proof.Machine.execCallRel imm s
  | .jmpRel imm => Sys2Proof.Machine.execJmpRel imm s
  | .jmpFarPtr p => Sys2Proof.Machine.execJmpFarPtr p s
  | .jmpRel8 osz imm => Sys2Proof.Machine.execJmpRel8 osz imm s
  | .inAlDx => Sys2Proof.Machine.execInAlDx s
  | .inEaxDx osz => Sys2Proof.Machine.execInEaxDx osz s
  | .outDxAl => Sys2Proof.Machine.execOutDxAl s
  | .outDxEax osz => Sys2Proof.Machine.execOutDxEax osz s
  | .hlt => Sys2Proof.Machine.execHlt s
  | .testRm8Imm8 rm imm => Sys2Proof.Machine.execTestRm8Imm8 rm imm s
  | .divRm8 rm => Sys2Proof.Machine.execDivRm8 rm s
  | .idivRm8 rm => Sys2Proof.Machine.execIdivRm8 rm s
  | .testRmImm rm imm => Sys2Proof.Machine.execTestRmImm rm imm s
  | .divRm osz rm => Sys2Proof.Machine.execDivRm osz rm s
  | .idivRm osz rm => Sys2Proof.Machine.execIdivRm osz rm s
  | .cli => Sys2Proof.Machine.execCli s
  | .sti => Sys2Proof.Machine.execSti s
  | .incRm8 lock rm => Sys2Proof.Machine.execIncRm8 lock rm s
  | .decRm8 lock rm => Sys2Proof.Machine.execDecRm8 lock rm s
  | .incRm lock osz rm => Sys2Proof.Machine.execIncRm lock osz rm s
  | .decRm lock osz rm => Sys2Proof.Machine.execDecRm lock osz rm s
  | .callRm osz rm => Sys2Proof.Machine.execCallRm osz rm s
  | .callFarMem osz m => Sys2Proof.Machine.execCallFarMem osz m s
  | .jmpRm osz rm => Sys2Proof.Machine.execJmpRm osz rm s
  | .jmpFarMem osz m => Sys2Proof.Machine.execJmpFarMem osz m s
  | .pushRm osz rm => Sys2Proof.Machine.execPushRm osz rm s

end Sys2Proof.Machine
end

