-- ==== Sys2Proof/Decode.lean ====
section
/-!
DEFINITION. The decoder (`spec/30_encoding.md` R464 to R471), total on any bytes, and after it the encoder.
A byte sequence that is no row of the table is refused by name (R462, D128); the register forms of
memory-only operands and an illegal LOCK are #UD (R461, R462); needing a byte beyond the given ones is `more`.
-/
namespace Sys2Proof.Decode

/-- Why decoding stops without an instruction. -/
inductive Why where
  /-- Another byte is needed. -/
  | more
  /-- The invalid-opcode exception (R461, R462). -/
  | ud
  /-- The bytes are no row of the opcode table (R462, D128). -/
  | noRow
  /-- Opcodes D6H and F1H: no #UD, and no stated effect (R455 item 4, U14). -/
  | reservedOpcode
  deriving DecidableEq, Repr

/-- What decoding answers. -/
inductive Answer where
  | ok (i : Instr) (len : Nat)
  | stop (w : Why)
  deriving DecidableEq, Repr

/-- A parser of instruction bytes. -/
abbrev P := EStateM Why (List Byte)

/-- The next byte. -/
def byte : P Byte := fun bs =>
  match bs with
  | [] => .error .more []
  | b :: t => .ok b t

/-- A little-endian word (R450). -/
def word : P W16 := do
  let a ← byte
  let b ← byte
  pure (b ++ a)

/-- A little-endian doubleword (R450). -/
def dword : P W32 := do
  let a ← word
  let b ← word
  pure (b ++ a)

/-- The prefixes seen so far (R465), with the code segment's default size D (R457). -/
structure Ctx where
  d : Bool
  lock : Bool
  seg : Option Seg
  p66 : Bool
  p67 : Bool
  deriving DecidableEq, Repr

/-- Operand size 32 iff D xor (66H present) (R457). -/
def Ctx.osz (c : Ctx) : OpSize := if c.d ^^ c.p66 then .w32 else .w16
/-- Address size 32 iff D xor (67H present) (R457). -/
def Ctx.a32 (c : Ctx) : Bool := c.d ^^ c.p67

/-- One prefix byte's effect (R465); `none` if the byte is no prefix. F2H and F3H have none here. -/
def Ctx.add (c : Ctx) (b : Byte) : Option Ctx :=
  if b = 0x66#8 then some { c with p66 := true }
  else if b = 0x67#8 then some { c with p67 := true }
  else if b = 0xF0#8 then some { c with lock := true }
  else if b = 0x2E#8 then some { c with seg := some .cs }
  else if b = 0x36#8 then some { c with seg := some .ss }
  else if b = 0x3E#8 then some { c with seg := some .ds }
  else if b = 0x26#8 then some { c with seg := some .es }
  else if b = 0x64#8 then some { c with seg := some .fs }
  else if b = 0x65#8 then some { c with seg := some .gs }
  else if b = 0xF2#8 then some c
  else if b = 0xF3#8 then some c
  else none

/-- Read prefixes and the first opcode byte. The fuel is the length limit of R454. -/
def prefixes : Nat → Ctx → P (Ctx × Byte)
  | 0, _ => throw .more
  | n + 1, c => do
    let b ← byte
    match c.add b with
    | some c' => prefixes n c'
    | none => pure (c, b)

/-- General register by number (R466). -/
def gpr (n : BitVec 3) : Gpr :=
  if n = 0#3 then .eax else if n = 1#3 then .ecx else if n = 2#3 then .edx else if n = 3#3 then .ebx
  else if n = 4#3 then .esp else if n = 5#3 then .ebp else if n = 6#3 then .esi else .edi

/-- Byte register by number (R466). -/
def gpr8 (n : BitVec 3) : Gpr8 :=
  if n = 0#3 then .al else if n = 1#3 then .cl else if n = 2#3 then .dl else if n = 3#3 then .bl
  else if n = 4#3 then .ah else if n = 5#3 then .ch else if n = 6#3 then .dh else .bh

/-- Registers of a 16-bit address by `r/m` (R468). -/
def base16 (n : BitVec 3) : Base16 :=
  if n = 0#3 then .bxsi else if n = 1#3 then .bxdi else if n = 2#3 then .bpsi else if n = 3#3 then .bpdi
  else if n = 4#3 then .si else if n = 5#3 then .di else if n = 6#3 then .bp else .bx

/-- Condition by number (R597). -/
def cond (n : BitVec 4) : Cond :=
  if n = 0#4 then .o else if n = 1#4 then .no else if n = 2#4 then .b else if n = 3#4 then .ae
  else if n = 4#4 then .e else if n = 5#4 then .ne else if n = 6#4 then .be else if n = 7#4 then .a
  else if n = 8#4 then .s else if n = 9#4 then .ns else if n = 10#4 then .p else if n = 11#4 then .np
  else if n = 12#4 then .l else if n = 13#4 then .ge else if n = 14#4 then .le else .g

/-- The displacement of a 16-bit form by `mod` (R468). -/
def disp16 (mod : BitVec 2) : P Disp16 := do
  if mod = 1#2 then return .d8 (← byte)
  else if mod = 2#2 then return .d16 (← word)
  else return .none

/-- The displacement of a 32-bit form by `mod` (R467). -/
def disp32 (mod : BitVec 2) : P Disp32 := do
  if mod = 1#2 then return .d8 (← byte)
  else if mod = 2#2 then return .d32 (← dword)
  else return .none

/-- A 16-bit memory operand, `mod` ≠ 3 (R468). -/
def ea16 (mod : BitVec 2) (rm : BitVec 3) : P Ea := do
  if mod = 0#2 ∧ rm = 6#3 then return .abs16 (← word)
  else return .base16 (base16 rm) (← disp16 mod)

/-- The SIB byte and what follows it (R467). -/
def eaSib (mod : BitVec 2) : P Ea := do
  let s ← byte
  let scale := s.extractLsb' 6 2
  let idx := s.extractLsb' 3 3
  let base := s.extractLsb' 0 3
  let index := if idx = 4#3 then none else some (gpr idx)
  if mod = 0#2 ∧ base = 5#3 then return .sibNoBase scale index (← dword)
  else return .sib scale index (gpr base) (← disp32 mod)

/-- A 32-bit memory operand, `mod` ≠ 3 (R467). -/
def ea32 (mod : BitVec 2) (rm : BitVec 3) : P Ea := do
  if rm = 4#3 then eaSib mod
  else if mod = 0#2 ∧ rm = 5#3 then return .abs32 (← dword)
  else return .base32 (gpr rm) (← disp32 mod)

/-- The ModR/M byte: its `reg` field, and its operand with the register still a number (R466). -/
def modrm (c : Ctx) : P (BitVec 3 × RegMem (BitVec 3)) := do
  let b ← byte
  let mod := b.extractLsb' 6 2
  let reg := b.extractLsb' 3 3
  let rm := b.extractLsb' 0 3
  if mod = 3#2 then return (reg, .reg rm)
  else if c.a32 then return (reg, .mem ⟨c.seg, ← ea32 mod rm⟩)
  else return (reg, .mem ⟨c.seg, ← ea16 mod rm⟩)

/-- The operand as an `r/m16/32`. -/
def asRm : RegMem (BitVec 3) → Rm
  | .reg n => .reg (gpr n)
  | .mem m => .mem m

/-- The operand as an `r/m8`. -/
def asRm8 : RegMem (BitVec 3) → Rm8
  | .reg n => .reg (gpr8 n)
  | .mem m => .mem m

/-- A memory-only operand: the register form is #UD (R462). -/
def asMem : RegMem (BitVec 3) → P MemOp
  | .reg _ => throw .ud
  | .mem m => pure m

/-- An immediate of the operand size. -/
def immv (c : Ctx) : P ImmV :=
  match c.osz with
  | .w16 => do return .i16 (← word)
  | .w32 => do return .i32 (← dword)

/-- A far pointer: offset by operand size, then the selector (R469). -/
def farPtr (c : Ctx) : P FarPtr :=
  match c.osz with
  | .w16 => do
    let o ← word
    let s ← word
    return .p16 o s
  | .w32 => do
    let o ← dword
    let s ← word
    return .p32 o s

/-- The ModR/M byte of the moves to and from control and debug registers: `mod` is ignored (R471). -/
def crOperand : P (BitVec 3 × BitVec 3) := do
  let b ← byte
  return (b.extractLsb' 3 3, b.extractLsb' 0 3)

/-- Finish an instruction that LOCK may not precede (R461). -/
def done (c : Ctx) (i : Instr) : P Instr := if c.lock then throw .ud else pure i

/-- Finish an instruction that LOCK may precede if its destination is memory (R461). -/
def doneLock {ρ : Type} (c : Ctx) (rm : RegMem ρ) (i : Bool → Instr) : P Instr :=
  match rm with
  | .reg _ => if c.lock then throw .ud else pure (i false)
  | .mem _ => pure (i c.lock)

/-- Two-byte opcodes 00H to 0FH. -/
def two0 (c : Ctx) (b : Byte) : P Instr :=
  if b = 0x01#8 then do
      let (reg, rm) ← modrm c
      if reg = 0#3 then do done c (.sgdt c.osz (← asMem rm))
      else if reg = 1#3 then do done c (.sidt c.osz (← asMem rm))
      else if reg = 2#3 then do done c (.lgdt c.osz (← asMem rm))
      else if reg = 3#3 then do done c (.lidt c.osz (← asMem rm))
      else if reg = 4#3 then done c (.smsw c.osz (asRm rm))
      else if reg = 6#3 then done c (.lmsw (asRm rm))
      else if reg = 7#3 then do done c (.invlpg (← asMem rm))
      else throw .noRow
  else if b = 0x00#8 then do
      let (reg, rm) ← modrm c
      if reg = 0#3 then done c (.sldt c.osz (asRm rm))
      else if reg = 1#3 then done c (.str c.osz (asRm rm))
      else if reg = 2#3 then done c (.lldt (asRm rm))
      else if reg = 3#3 then done c (.ltr (asRm rm))
      else if reg = 4#3 then done c (.verr (asRm rm))
      else if reg = 5#3 then done c (.verw (asRm rm))
      else throw .noRow
  else if b = 0x02#8 then do let (reg, rm) ← modrm c; done c (.lar c.osz (gpr reg) (asRm rm))
  else if b = 0x03#8 then do let (reg, rm) ← modrm c; done c (.lsl c.osz (gpr reg) (asRm rm))
  else if b = 0x06#8 then done c .clts
  else if b = 0x08#8 then done c .invd
  else if b = 0x09#8 then done c .wbinvd
  else if b = 0x0b#8 then done c .ud2
  else throw .noRow

/-- Two-byte opcodes 20H to 2FH. -/
def two2 (c : Ctx) (b : Byte) : P Instr :=
  if b = 0x20#8 then do let (reg, r) ← crOperand; done c (.movRCr reg (gpr r))
  else if b = 0x21#8 then do let (reg, r) ← crOperand; done c (.movRDr reg (gpr r))
  else if b = 0x22#8 then do let (reg, r) ← crOperand; done c (.movCrR reg (gpr r))
  else if b = 0x23#8 then do let (reg, r) ← crOperand; done c (.movDrR reg (gpr r))
  else throw .noRow

/-- Two-byte opcodes 30H to 3FH. -/
def two3 (c : Ctx) (b : Byte) : P Instr :=
  if b = 0x30#8 then done c .wrmsr
  else if b = 0x31#8 then done c .rdtsc
  else if b = 0x32#8 then done c .rdmsr
  else if b = 0x33#8 then done c .rdpmc
  else throw .noRow

/-- Two-byte opcodes 70H to 7FH. -/
def two7 (c : Ctx) (b : Byte) : P Instr :=
  if b = 0x77#8 then done c .emms
  else throw .noRow

/-- Two-byte opcodes 80H to 8FH. -/
def two8 (c : Ctx) (b : Byte) : P Instr :=
  if b &&& 0xf0#8 = 0x80#8 then do done c (.jccRel (cond (b.extractLsb' 0 4)) (← immv c))
  else throw .noRow

/-- Two-byte opcodes A0H to AFH. -/
def twoA (c : Ctx) (b : Byte) : P Instr :=
  if b = 0xa0#8 then done c (.pushFs c.osz)
  else if b = 0xa1#8 then done c (.popFs c.osz)
  else if b = 0xa2#8 then done c .cpuid
  else if b = 0xa8#8 then done c (.pushGs c.osz)
  else if b = 0xa9#8 then done c (.popGs c.osz)
  else if b = 0xaa#8 then done c .rsm
  else if b = 0xae#8 then do
      let (reg, rm) ← modrm c
      if reg = 0#3 then do done c (.fxsave (← asMem rm))
      else if reg = 1#3 then do done c (.fxrstor (← asMem rm))
      else if reg = 2#3 then do done c (.ldmxcsr (← asMem rm))
      else if reg = 3#3 then do done c (.stmxcsr (← asMem rm))
      else if reg = 7#3 ∧ rm = .reg 0#3 then done c .sfence
      else throw .noRow
  else throw .noRow

/-- Two-byte opcodes B0H to BFH. -/
def twoB (c : Ctx) (b : Byte) : P Instr :=
  if b = 0xb2#8 then do let (reg, rm) ← modrm c; done c (.lss c.osz (gpr reg) (← asMem rm))
  else if b = 0xb4#8 then do let (reg, rm) ← modrm c; done c (.lfs c.osz (gpr reg) (← asMem rm))
  else if b = 0xb5#8 then do let (reg, rm) ← modrm c; done c (.lgs c.osz (gpr reg) (← asMem rm))
  else throw .noRow

/-- The second opcode byte after 0FH (R470, R471). -/
def opcode2 (c : Ctx) (b : Byte) : P Instr :=
  if b.extractLsb' 4 4 = 0x0#4 then two0 c b
  else if b.extractLsb' 4 4 = 0x2#4 then two2 c b
  else if b.extractLsb' 4 4 = 0x3#4 then two3 c b
  else if b.extractLsb' 4 4 = 0x7#4 then two7 c b
  else if b.extractLsb' 4 4 = 0x8#4 then two8 c b
  else if b.extractLsb' 4 4 = 0xa#4 then twoA c b
  else if b.extractLsb' 4 4 = 0xb#4 then twoB c b
  else throw .noRow

/-- One-byte opcodes 00H to 0FH. -/
def one0 (c : Ctx) (b : Byte) : P Instr :=
  if b = 0x00#8 then do let (reg, rm) ← modrm c; doneLock c rm (.addRm8R8 · (asRm8 rm) (gpr8 reg))
  else if b = 0x01#8 then do let (reg, rm) ← modrm c; doneLock c rm (.addRmR · c.osz (asRm rm) (gpr reg))
  else if b = 0x02#8 then do let (reg, rm) ← modrm c; done c (.addR8Rm8 (gpr8 reg) (asRm8 rm))
  else if b = 0x03#8 then do let (reg, rm) ← modrm c; done c (.addRRm c.osz (gpr reg) (asRm rm))
  else if b = 0x04#8 then do done c (.addAlImm8 (← byte))
  else if b = 0x05#8 then do done c (.addEaxImm (← immv c))
  else if b = 0x06#8 then done c (.pushEs c.osz)
  else if b = 0x07#8 then done c (.popEs c.osz)
  else if b = 0x08#8 then do let (reg, rm) ← modrm c; doneLock c rm (.orRm8R8 · (asRm8 rm) (gpr8 reg))
  else if b = 0x09#8 then do let (reg, rm) ← modrm c; doneLock c rm (.orRmR · c.osz (asRm rm) (gpr reg))
  else if b = 0x0a#8 then do let (reg, rm) ← modrm c; done c (.orR8Rm8 (gpr8 reg) (asRm8 rm))
  else if b = 0x0b#8 then do let (reg, rm) ← modrm c; done c (.orRRm c.osz (gpr reg) (asRm rm))
  else if b = 0x0c#8 then do done c (.orAlImm8 (← byte))
  else if b = 0x0d#8 then do done c (.orEaxImm (← immv c))
  else if b = 0x0e#8 then done c (.pushCs c.osz)
  else if b = 0x0f#8 then do opcode2 c (← byte)
  else throw .noRow

/-- One-byte opcodes 10H to 1FH. -/
def one1 (c : Ctx) (b : Byte) : P Instr :=
  if b = 0x16#8 then done c (.pushSs c.osz)
  else if b = 0x17#8 then done c (.popSs c.osz)
  else if b = 0x1e#8 then done c (.pushDs c.osz)
  else if b = 0x1f#8 then done c (.popDs c.osz)
  else throw .noRow

/-- One-byte opcodes 20H to 2FH. -/
def one2 (c : Ctx) (b : Byte) : P Instr :=
  if b = 0x20#8 then do let (reg, rm) ← modrm c; doneLock c rm (.andRm8R8 · (asRm8 rm) (gpr8 reg))
  else if b = 0x21#8 then do let (reg, rm) ← modrm c; doneLock c rm (.andRmR · c.osz (asRm rm) (gpr reg))
  else if b = 0x22#8 then do let (reg, rm) ← modrm c; done c (.andR8Rm8 (gpr8 reg) (asRm8 rm))
  else if b = 0x23#8 then do let (reg, rm) ← modrm c; done c (.andRRm c.osz (gpr reg) (asRm rm))
  else if b = 0x24#8 then do done c (.andAlImm8 (← byte))
  else if b = 0x25#8 then do done c (.andEaxImm (← immv c))
  else if b = 0x28#8 then do let (reg, rm) ← modrm c; doneLock c rm (.subRm8R8 · (asRm8 rm) (gpr8 reg))
  else if b = 0x29#8 then do let (reg, rm) ← modrm c; doneLock c rm (.subRmR · c.osz (asRm rm) (gpr reg))
  else if b = 0x2a#8 then do let (reg, rm) ← modrm c; done c (.subR8Rm8 (gpr8 reg) (asRm8 rm))
  else if b = 0x2b#8 then do let (reg, rm) ← modrm c; done c (.subRRm c.osz (gpr reg) (asRm rm))
  else if b = 0x2c#8 then do done c (.subAlImm8 (← byte))
  else if b = 0x2d#8 then do done c (.subEaxImm (← immv c))
  else throw .noRow

/-- One-byte opcodes 30H to 3FH. -/
def one3 (c : Ctx) (b : Byte) : P Instr :=
  if b = 0x30#8 then do let (reg, rm) ← modrm c; doneLock c rm (.xorRm8R8 · (asRm8 rm) (gpr8 reg))
  else if b = 0x31#8 then do let (reg, rm) ← modrm c; doneLock c rm (.xorRmR · c.osz (asRm rm) (gpr reg))
  else if b = 0x32#8 then do let (reg, rm) ← modrm c; done c (.xorR8Rm8 (gpr8 reg) (asRm8 rm))
  else if b = 0x33#8 then do let (reg, rm) ← modrm c; done c (.xorRRm c.osz (gpr reg) (asRm rm))
  else if b = 0x34#8 then do done c (.xorAlImm8 (← byte))
  else if b = 0x35#8 then do done c (.xorEaxImm (← immv c))
  else if b = 0x38#8 then do let (reg, rm) ← modrm c; done c (.cmpRm8R8 (asRm8 rm) (gpr8 reg))
  else if b = 0x39#8 then do let (reg, rm) ← modrm c; done c (.cmpRmR c.osz (asRm rm) (gpr reg))
  else if b = 0x3a#8 then do let (reg, rm) ← modrm c; done c (.cmpR8Rm8 (gpr8 reg) (asRm8 rm))
  else if b = 0x3b#8 then do let (reg, rm) ← modrm c; done c (.cmpRRm c.osz (gpr reg) (asRm rm))
  else if b = 0x3c#8 then do done c (.cmpAlImm8 (← byte))
  else if b = 0x3d#8 then do done c (.cmpEaxImm (← immv c))
  else throw .noRow

/-- One-byte opcodes 40H to 4FH. -/
def one4 (c : Ctx) (b : Byte) : P Instr :=
  if b &&& 0xf8#8 = 0x40#8 then done c (.incR c.osz (gpr (b.extractLsb' 0 3)))
  else if b &&& 0xf8#8 = 0x48#8 then done c (.decR c.osz (gpr (b.extractLsb' 0 3)))
  else throw .noRow

/-- One-byte opcodes 50H to 5FH. -/
def one5 (c : Ctx) (b : Byte) : P Instr :=
  if b &&& 0xf8#8 = 0x50#8 then done c (.pushR c.osz (gpr (b.extractLsb' 0 3)))
  else if b &&& 0xf8#8 = 0x58#8 then done c (.popR c.osz (gpr (b.extractLsb' 0 3)))
  else throw .noRow

/-- One-byte opcodes 60H to 6FH. -/
def one6 (c : Ctx) (b : Byte) : P Instr :=
  if b = 0x62#8 then do let (reg, rm) ← modrm c; done c (.bound c.osz (gpr reg) (← asMem rm))
  else if b = 0x63#8 then do let (reg, rm) ← modrm c; done c (.arpl (asRm rm) (gpr reg))
  else if b = 0x68#8 then do done c (.pushImm (← immv c))
  else if b = 0x6a#8 then do done c (.pushImm8 c.osz (← byte))
  else throw .noRow

/-- One-byte opcodes 70H to 7FH. -/
def one7 (c : Ctx) (b : Byte) : P Instr :=
  if b &&& 0xf0#8 = 0x70#8 then do done c (.jccRel8 c.osz (cond (b.extractLsb' 0 4)) (← byte))
  else throw .noRow

/-- One-byte opcodes 80H to 8FH. -/
def one8 (c : Ctx) (b : Byte) : P Instr :=
  if b = 0x80#8 then do
      let (reg, rm) ← modrm c
      if reg = 0#3 then do let i ← byte; doneLock c rm (.addRm8Imm8 · (asRm8 rm) i)
      else if reg = 1#3 then do let i ← byte; doneLock c rm (.orRm8Imm8 · (asRm8 rm) i)
      else if reg = 4#3 then do let i ← byte; doneLock c rm (.andRm8Imm8 · (asRm8 rm) i)
      else if reg = 5#3 then do let i ← byte; doneLock c rm (.subRm8Imm8 · (asRm8 rm) i)
      else if reg = 6#3 then do let i ← byte; doneLock c rm (.xorRm8Imm8 · (asRm8 rm) i)
      else if reg = 7#3 then do done c (.cmpRm8Imm8 (asRm8 rm) (← byte))
      else throw .noRow
  else if b = 0x81#8 then do
      let (reg, rm) ← modrm c
      if reg = 0#3 then do let i ← immv c; doneLock c rm (.addRmImm · (asRm rm) i)
      else if reg = 1#3 then do let i ← immv c; doneLock c rm (.orRmImm · (asRm rm) i)
      else if reg = 4#3 then do let i ← immv c; doneLock c rm (.andRmImm · (asRm rm) i)
      else if reg = 5#3 then do let i ← immv c; doneLock c rm (.subRmImm · (asRm rm) i)
      else if reg = 6#3 then do let i ← immv c; doneLock c rm (.xorRmImm · (asRm rm) i)
      else if reg = 7#3 then do done c (.cmpRmImm (asRm rm) (← immv c))
      else throw .noRow
  else if b = 0x83#8 then do
      let (reg, rm) ← modrm c
      if reg = 0#3 then do let i ← byte; doneLock c rm (.addRmImm8 · c.osz (asRm rm) i)
      else if reg = 1#3 then do let i ← byte; doneLock c rm (.orRmImm8 · c.osz (asRm rm) i)
      else if reg = 4#3 then do let i ← byte; doneLock c rm (.andRmImm8 · c.osz (asRm rm) i)
      else if reg = 5#3 then do let i ← byte; doneLock c rm (.subRmImm8 · c.osz (asRm rm) i)
      else if reg = 6#3 then do let i ← byte; doneLock c rm (.xorRmImm8 · c.osz (asRm rm) i)
      else if reg = 7#3 then do done c (.cmpRmImm8 c.osz (asRm rm) (← byte))
      else throw .noRow
  else if b = 0x84#8 then do let (reg, rm) ← modrm c; done c (.testRm8R8 (asRm8 rm) (gpr8 reg))
  else if b = 0x85#8 then do let (reg, rm) ← modrm c; done c (.testRmR c.osz (asRm rm) (gpr reg))
  else if b = 0x86#8 then do let (reg, rm) ← modrm c; doneLock c rm (.xchgRm8R8 · (asRm8 rm) (gpr8 reg))
  else if b = 0x87#8 then do let (reg, rm) ← modrm c; doneLock c rm (.xchgRmR · c.osz (asRm rm) (gpr reg))
  else if b = 0x88#8 then do let (reg, rm) ← modrm c; done c (.movRm8R8 (asRm8 rm) (gpr8 reg))
  else if b = 0x89#8 then do let (reg, rm) ← modrm c; done c (.movRmR c.osz (asRm rm) (gpr reg))
  else if b = 0x8a#8 then do let (reg, rm) ← modrm c; done c (.movR8Rm8 (gpr8 reg) (asRm8 rm))
  else if b = 0x8b#8 then do let (reg, rm) ← modrm c; done c (.movRRm c.osz (gpr reg) (asRm rm))
  else if b = 0x8c#8 then do let (reg, rm) ← modrm c; done c (.movRmSreg c.osz (asRm rm) reg)
  else if b = 0x8d#8 then do let (reg, rm) ← modrm c; done c (.lea c.osz (gpr reg) (← asMem rm))
  else if b = 0x8e#8 then do let (reg, rm) ← modrm c; done c (.movSregRm reg (asRm rm))
  else if b = 0x8f#8 then do
      let (reg, rm) ← modrm c
      if reg = 0#3 then done c (.popRm c.osz (asRm rm))
      else throw .noRow
  else throw .noRow

/-- One-byte opcodes 90H to 9FH. -/
def one9 (c : Ctx) (b : Byte) : P Instr :=
  if b = 0x90#8 then done c .nop
  else if b &&& 0xf8#8 = 0x90#8 then done c (.xchgEaxR c.osz (gpr (b.extractLsb' 0 3)))
  else if b = 0x9a#8 then do done c (.callFarPtr (← farPtr c))
  else if b = 0x9b#8 then done c .wait
  else if b = 0x9c#8 then done c (.pushf c.osz)
  else if b = 0x9d#8 then done c (.popf c.osz)
  else throw .noRow

/-- One-byte opcodes A0H to AFH. -/
def oneA (c : Ctx) (b : Byte) : P Instr :=
  if b = 0xa8#8 then do done c (.testAlImm8 (← byte))
  else if b = 0xa9#8 then do done c (.testEaxImm (← immv c))
  else throw .noRow

/-- One-byte opcodes B0H to BFH. -/
def oneB (c : Ctx) (b : Byte) : P Instr :=
  if b &&& 0xf8#8 = 0xb0#8 then do done c (.movR8Imm8 (gpr8 (b.extractLsb' 0 3)) (← byte))
  else if b &&& 0xf8#8 = 0xb8#8 then do done c (.movRImm (gpr (b.extractLsb' 0 3)) (← immv c))
  else throw .noRow

/-- One-byte opcodes C0H to CFH. -/
def oneC (c : Ctx) (b : Byte) : P Instr :=
  if b = 0xc2#8 then do done c (.retNearImm c.osz (← word))
  else if b = 0xc3#8 then done c (.retNear c.osz)
  else if b = 0xc4#8 then do let (reg, rm) ← modrm c; done c (.les c.osz (gpr reg) (← asMem rm))
  else if b = 0xc5#8 then do let (reg, rm) ← modrm c; done c (.lds c.osz (gpr reg) (← asMem rm))
  else if b = 0xc6#8 then do
      let (reg, rm) ← modrm c
      if reg = 0#3 then do done c (.movRm8Imm8 (asRm8 rm) (← byte))
      else throw .noRow
  else if b = 0xc7#8 then do
      let (reg, rm) ← modrm c
      if reg = 0#3 then do done c (.movRmImm (asRm rm) (← immv c))
      else throw .noRow
  else if b = 0xca#8 then do done c (.retFarImm c.osz (← word))
  else if b = 0xcb#8 then done c (.retFar c.osz)
  else if b = 0xcc#8 then done c .int3
  else if b = 0xcd#8 then do done c (.intN (← byte))
  else if b = 0xce#8 then done c .into
  else if b = 0xcf#8 then done c (.iret c.osz)
  else throw .noRow

/-- One-byte opcodes D0H to DFH. -/
def oneD (c : Ctx) (b : Byte) : P Instr :=
  if b = 0xdb#8 then do
      let (reg, rm) ← modrm c
      if reg = 4#3 ∧ rm = .reg 3#3 then done c .fninit
      else throw .noRow
  else if b = 0xd6#8 then throw .reservedOpcode
  else throw .noRow

/-- One-byte opcodes E0H to EFH. -/
def oneE (c : Ctx) (b : Byte) : P Instr :=
  if b = 0xe4#8 then do done c (.inAlImm8 (← byte))
  else if b = 0xe5#8 then do done c (.inEaxImm8 c.osz (← byte))
  else if b = 0xe6#8 then do done c (.outImm8Al (← byte))
  else if b = 0xe7#8 then do done c (.outImm8Eax c.osz (← byte))
  else if b = 0xe8#8 then do done c (.callRel (← immv c))
  else if b = 0xe9#8 then do done c (.jmpRel (← immv c))
  else if b = 0xea#8 then do done c (.jmpFarPtr (← farPtr c))
  else if b = 0xeb#8 then do done c (.jmpRel8 c.osz (← byte))
  else if b = 0xec#8 then done c .inAlDx
  else if b = 0xed#8 then done c (.inEaxDx c.osz)
  else if b = 0xee#8 then done c .outDxAl
  else if b = 0xef#8 then done c (.outDxEax c.osz)
  else throw .noRow

/-- One-byte opcodes F0H to FFH. -/
def oneF (c : Ctx) (b : Byte) : P Instr :=
  if b = 0xf4#8 then done c .hlt
  else if b = 0xf6#8 then do
      let (reg, rm) ← modrm c
      if reg = 0#3 then do done c (.testRm8Imm8 (asRm8 rm) (← byte))
      else if reg = 6#3 then done c (.divRm8 (asRm8 rm))
      else if reg = 7#3 then done c (.idivRm8 (asRm8 rm))
      else throw .noRow
  else if b = 0xf7#8 then do
      let (reg, rm) ← modrm c
      if reg = 0#3 then do done c (.testRmImm (asRm rm) (← immv c))
      else if reg = 6#3 then done c (.divRm c.osz (asRm rm))
      else if reg = 7#3 then done c (.idivRm c.osz (asRm rm))
      else throw .noRow
  else if b = 0xfa#8 then done c .cli
  else if b = 0xfb#8 then done c .sti
  else if b = 0xfe#8 then do
      let (reg, rm) ← modrm c
      if reg = 0#3 then doneLock c rm (.incRm8 · (asRm8 rm))
      else if reg = 1#3 then doneLock c rm (.decRm8 · (asRm8 rm))
      else throw .noRow
  else if b = 0xff#8 then do
      let (reg, rm) ← modrm c
      if reg = 0#3 then doneLock c rm (.incRm · c.osz (asRm rm))
      else if reg = 1#3 then doneLock c rm (.decRm · c.osz (asRm rm))
      else if reg = 2#3 then done c (.callRm c.osz (asRm rm))
      else if reg = 3#3 then do done c (.callFarMem c.osz (← asMem rm))
      else if reg = 4#3 then done c (.jmpRm c.osz (asRm rm))
      else if reg = 5#3 then do done c (.jmpFarMem c.osz (← asMem rm))
      else if reg = 6#3 then done c (.pushRm c.osz (asRm rm))
      else throw .noRow
  else if b = 0xf1#8 then throw .reservedOpcode
  else throw .noRow

/-- The first opcode byte (R470, R471). -/
def opcode (c : Ctx) (b : Byte) : P Instr :=
  if b.extractLsb' 4 4 = 0x0#4 then one0 c b
  else if b.extractLsb' 4 4 = 0x1#4 then one1 c b
  else if b.extractLsb' 4 4 = 0x2#4 then one2 c b
  else if b.extractLsb' 4 4 = 0x3#4 then one3 c b
  else if b.extractLsb' 4 4 = 0x4#4 then one4 c b
  else if b.extractLsb' 4 4 = 0x5#4 then one5 c b
  else if b.extractLsb' 4 4 = 0x6#4 then one6 c b
  else if b.extractLsb' 4 4 = 0x7#4 then one7 c b
  else if b.extractLsb' 4 4 = 0x8#4 then one8 c b
  else if b.extractLsb' 4 4 = 0x9#4 then one9 c b
  else if b.extractLsb' 4 4 = 0xa#4 then oneA c b
  else if b.extractLsb' 4 4 = 0xb#4 then oneB c b
  else if b.extractLsb' 4 4 = 0xc#4 then oneC c b
  else if b.extractLsb' 4 4 = 0xd#4 then oneD c b
  else if b.extractLsb' 4 4 = 0xe#4 then oneE c b
  else if b.extractLsb' 4 4 = 0xf#4 then oneF c b
  else throw .noRow


/-- The instruction in `bs` for a code segment with default size `d`, or why there is none. -/
def decode (d : Bool) (bs : List Byte) : Answer :=
  match (do let (c, b) ← prefixes 15 ⟨d, false, none, false, false⟩; opcode c b : P Instr) bs with
  | .ok i rest => .ok i (bs.length - rest.length)
  | .error w _ => .stop w

end Sys2Proof.Decode

namespace Sys2Proof.Encode

/-- Number of a general register (R466). -/
def gpr : Gpr → BitVec 3
  | .eax => 0 | .ecx => 1 | .edx => 2 | .ebx => 3 | .esp => 4 | .ebp => 5 | .esi => 6 | .edi => 7

/-- Number of a byte register (R466). -/
def gpr8 : Gpr8 → BitVec 3
  | .al => 0 | .cl => 1 | .dl => 2 | .bl => 3 | .ah => 4 | .ch => 5 | .dh => 6 | .bh => 7

/-- `r/m` of a 16-bit form (R468). -/
def base16 : Base16 → BitVec 3
  | .bxsi => 0 | .bxdi => 1 | .bpsi => 2 | .bpdi => 3 | .si => 4 | .di => 5 | .bp => 6 | .bx => 7

/-- Number of a condition (R597). -/
def cond : Cond → BitVec 4
  | .o => 0 | .no => 1 | .b => 2 | .ae => 3 | .e => 4 | .ne => 5 | .be => 6 | .a => 7
  | .s => 8 | .ns => 9 | .p => 10 | .np => 11 | .l => 12 | .ge => 13 | .le => 14 | .g => 15

/-- A word, low byte first. -/
def word (v : W16) : List Byte := [v.extractLsb' 0 8, v.extractLsb' 8 8]

/-- A doubleword, low byte first. -/
def dword (v : W32) : List Byte :=
  [v.extractLsb' 0 8, v.extractLsb' 8 8, v.extractLsb' 16 8, v.extractLsb' 24 8]

/-- `mod` and the displacement bytes of a 16-bit form. -/
def disp16 : Disp16 → BitVec 2 × List Byte
  | .none => (0, [])
  | .d8 d => (1, [d])
  | .d16 d => (2, word d)

/-- `mod` and the displacement bytes of a 32-bit form. -/
def disp32 : Disp32 → BitVec 2 × List Byte
  | .none => (0, [])
  | .d8 d => (1, [d])
  | .d32 d => (2, dword d)

/-- The index field of a SIB byte; 4 is none (R467). -/
def index : Option Gpr → BitVec 3
  | none => 4
  | some r => gpr r

/-- ModR/M, SIB and displacement of a memory operand (R466 to R468). -/
def ea (reg : BitVec 3) : Ea → List Byte
  | .abs16 d => (0#2 ++ reg ++ 6#3) :: word d
  | .base16 b d => ((disp16 d).1 ++ reg ++ base16 b) :: (disp16 d).2
  | .abs32 d => (0#2 ++ reg ++ 5#3) :: dword d
  | .base32 r d => ((disp32 d).1 ++ reg ++ gpr r) :: (disp32 d).2
  | .sib s i b d => ((disp32 d).1 ++ reg ++ 4#3) :: (s ++ index i ++ gpr b) :: (disp32 d).2
  | .sibNoBase s i d => (0#2 ++ reg ++ 4#3) :: (s ++ index i ++ 5#3) :: dword d

/-- ModR/M and what belongs to it. -/
def modrm {ρ : Type} (num : ρ → BitVec 3) (reg : BitVec 3) : RegMem ρ → List Byte
  | .reg r => [3#2 ++ reg ++ num r]
  | .mem m => ea reg m.ea

/-- An immediate of the operand size. -/
def immv : ImmV → List Byte
  | .i16 v => word v
  | .i32 v => dword v

/-- A far pointer. -/
def farPtr : FarPtr → List Byte
  | .p16 o s => word o ++ word s
  | .p32 o s => dword o ++ word s

/-- The operand size of a far pointer. -/
def farSize : FarPtr → OpSize
  | .p16 _ _ => .w16
  | .p32 _ _ => .w32

/-- Is the address size of a memory operand 32? -/
def ea32 : Ea → Bool
  | .abs16 _ => false
  | .base16 _ _ => false
  | .abs32 _ => true
  | .base32 _ _ => true
  | .sib _ _ _ _ => true
  | .sibNoBase _ _ _ => true

/-- The segment-override prefix (R465). -/
def seg : Seg → Byte
  | .es => 0x26 | .cs => 0x2E | .ss => 0x36 | .ds => 0x3E | .fs => 0x64 | .gs => 0x65

/-- The memory operand of an `r/m`, if it is one. -/
def memOf {ρ : Type} : RegMem ρ → Option MemOp
  | .reg _ => none
  | .mem m => some m

/-- LOCK, if asked for. -/
def lockByte : Bool → List Byte
  | true => [0xF0]
  | false => []

/-- 66H where the operand size is not the default one (R457). -/
def oszByte (d : Bool) : Option OpSize → List Byte
  | none => []
  | some .w16 => if d then [0x66] else []
  | some .w32 => if d then [] else [0x66]

/-- The segment override and 67H of a memory operand (R457, R465). -/
def memBytes (d : Bool) : Option MemOp → List Byte
  | none => []
  | some m => (match m.seg with | none => [] | some s => [seg s])
      ++ (if d == ea32 m.ea then [] else [0x67])

/-- The prefixes, in the order LOCK, 66H, segment, 67H. -/
def pfx (d lock : Bool) (osz : Option OpSize) (m : Option MemOp) : List Byte :=
  lockByte lock ++ oszByte d osz ++ memBytes d m

end Sys2Proof.Encode

namespace Sys2Proof

open Encode in
/-- The bytes of a well-formed instruction in a code segment with default size `d` (R470). -/
def encode (d : Bool) : Instr → List Byte
  | .sgdt osz m => pfx d false (some osz) (some m) ++ [0x0f#8, 0x01#8] ++ ea 0#3 m.ea
  | .sidt osz m => pfx d false (some osz) (some m) ++ [0x0f#8, 0x01#8] ++ ea 1#3 m.ea
  | .lgdt osz m => pfx d false (some osz) (some m) ++ [0x0f#8, 0x01#8] ++ ea 2#3 m.ea
  | .lidt osz m => pfx d false (some osz) (some m) ++ [0x0f#8, 0x01#8] ++ ea 3#3 m.ea
  | .smsw osz rm => pfx d false (some osz) (memOf rm) ++ [0x0f#8, 0x01#8] ++ modrm gpr 4#3 rm
  | .lmsw rm => pfx d false none (memOf rm) ++ [0x0f#8, 0x01#8] ++ modrm gpr 6#3 rm
  | .invlpg m => pfx d false none (some m) ++ [0x0f#8, 0x01#8] ++ ea 7#3 m.ea
  | .sldt osz rm => pfx d false (some osz) (memOf rm) ++ [0x0f#8, 0x00#8] ++ modrm gpr 0#3 rm
  | .str osz rm => pfx d false (some osz) (memOf rm) ++ [0x0f#8, 0x00#8] ++ modrm gpr 1#3 rm
  | .lldt rm => pfx d false none (memOf rm) ++ [0x0f#8, 0x00#8] ++ modrm gpr 2#3 rm
  | .ltr rm => pfx d false none (memOf rm) ++ [0x0f#8, 0x00#8] ++ modrm gpr 3#3 rm
  | .verr rm => pfx d false none (memOf rm) ++ [0x0f#8, 0x00#8] ++ modrm gpr 4#3 rm
  | .verw rm => pfx d false none (memOf rm) ++ [0x0f#8, 0x00#8] ++ modrm gpr 5#3 rm
  | .lar osz r rm => pfx d false (some osz) (memOf rm) ++ [0x0f#8, 0x02#8] ++ modrm gpr (gpr r) rm
  | .lsl osz r rm => pfx d false (some osz) (memOf rm) ++ [0x0f#8, 0x03#8] ++ modrm gpr (gpr r) rm
  | .clts => [0x0f#8, 0x06#8]
  | .invd => [0x0f#8, 0x08#8]
  | .wbinvd => [0x0f#8, 0x09#8]
  | .ud2 => [0x0f#8, 0x0b#8]
  | .movRCr n r => [0x0f#8, 0x20#8] ++ [3#2 ++ n ++ gpr r]
  | .movRDr n r => [0x0f#8, 0x21#8] ++ [3#2 ++ n ++ gpr r]
  | .movCrR n r => [0x0f#8, 0x22#8] ++ [3#2 ++ n ++ gpr r]
  | .movDrR n r => [0x0f#8, 0x23#8] ++ [3#2 ++ n ++ gpr r]
  | .wrmsr => [0x0f#8, 0x30#8]
  | .rdtsc => [0x0f#8, 0x31#8]
  | .rdmsr => [0x0f#8, 0x32#8]
  | .rdpmc => [0x0f#8, 0x33#8]
  | .emms => [0x0f#8, 0x77#8]
  | .jccRel cc rel => pfx d false (some rel.size) none ++ [0x0f#8, (0x80#8 ||| (cond cc).setWidth 8)] ++ immv rel
  | .pushFs osz => pfx d false (some osz) none ++ [0x0f#8, 0xa0#8]
  | .popFs osz => pfx d false (some osz) none ++ [0x0f#8, 0xa1#8]
  | .cpuid => [0x0f#8, 0xa2#8]
  | .pushGs osz => pfx d false (some osz) none ++ [0x0f#8, 0xa8#8]
  | .popGs osz => pfx d false (some osz) none ++ [0x0f#8, 0xa9#8]
  | .rsm => [0x0f#8, 0xaa#8]
  | .fxsave m => pfx d false none (some m) ++ [0x0f#8, 0xae#8] ++ ea 0#3 m.ea
  | .fxrstor m => pfx d false none (some m) ++ [0x0f#8, 0xae#8] ++ ea 1#3 m.ea
  | .ldmxcsr m => pfx d false none (some m) ++ [0x0f#8, 0xae#8] ++ ea 2#3 m.ea
  | .stmxcsr m => pfx d false none (some m) ++ [0x0f#8, 0xae#8] ++ ea 3#3 m.ea
  | .sfence => [0x0f#8, 0xae#8] ++ [3#2 ++ 7#3 ++ 0#3]
  | .lss osz r m => pfx d false (some osz) (some m) ++ [0x0f#8, 0xb2#8] ++ ea (gpr r) m.ea
  | .lfs osz r m => pfx d false (some osz) (some m) ++ [0x0f#8, 0xb4#8] ++ ea (gpr r) m.ea
  | .lgs osz r m => pfx d false (some osz) (some m) ++ [0x0f#8, 0xb5#8] ++ ea (gpr r) m.ea
  | .addRm8R8 lock rm r => pfx d lock none (memOf rm) ++ [0x00#8] ++ modrm gpr8 (gpr8 r) rm
  | .addRmR lock osz rm r => pfx d lock (some osz) (memOf rm) ++ [0x01#8] ++ modrm gpr (gpr r) rm
  | .addR8Rm8 r rm => pfx d false none (memOf rm) ++ [0x02#8] ++ modrm gpr8 (gpr8 r) rm
  | .addRRm osz r rm => pfx d false (some osz) (memOf rm) ++ [0x03#8] ++ modrm gpr (gpr r) rm
  | .addAlImm8 imm => [0x04#8] ++ [imm]
  | .addEaxImm imm => pfx d false (some imm.size) none ++ [0x05#8] ++ immv imm
  | .addRm8Imm8 lock rm imm => pfx d lock none (memOf rm) ++ [0x80#8] ++ modrm gpr8 0#3 rm ++ [imm]
  | .addRmImm lock rm imm => pfx d lock (some imm.size) (memOf rm) ++ [0x81#8] ++ modrm gpr 0#3 rm ++ immv imm
  | .addRmImm8 lock osz rm imm => pfx d lock (some osz) (memOf rm) ++ [0x83#8] ++ modrm gpr 0#3 rm ++ [imm]
  | .pushEs osz => pfx d false (some osz) none ++ [0x06#8]
  | .popEs osz => pfx d false (some osz) none ++ [0x07#8]
  | .orRm8R8 lock rm r => pfx d lock none (memOf rm) ++ [0x08#8] ++ modrm gpr8 (gpr8 r) rm
  | .orRmR lock osz rm r => pfx d lock (some osz) (memOf rm) ++ [0x09#8] ++ modrm gpr (gpr r) rm
  | .orR8Rm8 r rm => pfx d false none (memOf rm) ++ [0x0a#8] ++ modrm gpr8 (gpr8 r) rm
  | .orRRm osz r rm => pfx d false (some osz) (memOf rm) ++ [0x0b#8] ++ modrm gpr (gpr r) rm
  | .orAlImm8 imm => [0x0c#8] ++ [imm]
  | .orEaxImm imm => pfx d false (some imm.size) none ++ [0x0d#8] ++ immv imm
  | .orRm8Imm8 lock rm imm => pfx d lock none (memOf rm) ++ [0x80#8] ++ modrm gpr8 1#3 rm ++ [imm]
  | .orRmImm lock rm imm => pfx d lock (some imm.size) (memOf rm) ++ [0x81#8] ++ modrm gpr 1#3 rm ++ immv imm
  | .orRmImm8 lock osz rm imm => pfx d lock (some osz) (memOf rm) ++ [0x83#8] ++ modrm gpr 1#3 rm ++ [imm]
  | .pushCs osz => pfx d false (some osz) none ++ [0x0e#8]
  | .pushSs osz => pfx d false (some osz) none ++ [0x16#8]
  | .popSs osz => pfx d false (some osz) none ++ [0x17#8]
  | .pushDs osz => pfx d false (some osz) none ++ [0x1e#8]
  | .popDs osz => pfx d false (some osz) none ++ [0x1f#8]
  | .andRm8R8 lock rm r => pfx d lock none (memOf rm) ++ [0x20#8] ++ modrm gpr8 (gpr8 r) rm
  | .andRmR lock osz rm r => pfx d lock (some osz) (memOf rm) ++ [0x21#8] ++ modrm gpr (gpr r) rm
  | .andR8Rm8 r rm => pfx d false none (memOf rm) ++ [0x22#8] ++ modrm gpr8 (gpr8 r) rm
  | .andRRm osz r rm => pfx d false (some osz) (memOf rm) ++ [0x23#8] ++ modrm gpr (gpr r) rm
  | .andAlImm8 imm => [0x24#8] ++ [imm]
  | .andEaxImm imm => pfx d false (some imm.size) none ++ [0x25#8] ++ immv imm
  | .andRm8Imm8 lock rm imm => pfx d lock none (memOf rm) ++ [0x80#8] ++ modrm gpr8 4#3 rm ++ [imm]
  | .andRmImm lock rm imm => pfx d lock (some imm.size) (memOf rm) ++ [0x81#8] ++ modrm gpr 4#3 rm ++ immv imm
  | .andRmImm8 lock osz rm imm => pfx d lock (some osz) (memOf rm) ++ [0x83#8] ++ modrm gpr 4#3 rm ++ [imm]
  | .subRm8R8 lock rm r => pfx d lock none (memOf rm) ++ [0x28#8] ++ modrm gpr8 (gpr8 r) rm
  | .subRmR lock osz rm r => pfx d lock (some osz) (memOf rm) ++ [0x29#8] ++ modrm gpr (gpr r) rm
  | .subR8Rm8 r rm => pfx d false none (memOf rm) ++ [0x2a#8] ++ modrm gpr8 (gpr8 r) rm
  | .subRRm osz r rm => pfx d false (some osz) (memOf rm) ++ [0x2b#8] ++ modrm gpr (gpr r) rm
  | .subAlImm8 imm => [0x2c#8] ++ [imm]
  | .subEaxImm imm => pfx d false (some imm.size) none ++ [0x2d#8] ++ immv imm
  | .subRm8Imm8 lock rm imm => pfx d lock none (memOf rm) ++ [0x80#8] ++ modrm gpr8 5#3 rm ++ [imm]
  | .subRmImm lock rm imm => pfx d lock (some imm.size) (memOf rm) ++ [0x81#8] ++ modrm gpr 5#3 rm ++ immv imm
  | .subRmImm8 lock osz rm imm => pfx d lock (some osz) (memOf rm) ++ [0x83#8] ++ modrm gpr 5#3 rm ++ [imm]
  | .xorRm8R8 lock rm r => pfx d lock none (memOf rm) ++ [0x30#8] ++ modrm gpr8 (gpr8 r) rm
  | .xorRmR lock osz rm r => pfx d lock (some osz) (memOf rm) ++ [0x31#8] ++ modrm gpr (gpr r) rm
  | .xorR8Rm8 r rm => pfx d false none (memOf rm) ++ [0x32#8] ++ modrm gpr8 (gpr8 r) rm
  | .xorRRm osz r rm => pfx d false (some osz) (memOf rm) ++ [0x33#8] ++ modrm gpr (gpr r) rm
  | .xorAlImm8 imm => [0x34#8] ++ [imm]
  | .xorEaxImm imm => pfx d false (some imm.size) none ++ [0x35#8] ++ immv imm
  | .xorRm8Imm8 lock rm imm => pfx d lock none (memOf rm) ++ [0x80#8] ++ modrm gpr8 6#3 rm ++ [imm]
  | .xorRmImm lock rm imm => pfx d lock (some imm.size) (memOf rm) ++ [0x81#8] ++ modrm gpr 6#3 rm ++ immv imm
  | .xorRmImm8 lock osz rm imm => pfx d lock (some osz) (memOf rm) ++ [0x83#8] ++ modrm gpr 6#3 rm ++ [imm]
  | .cmpRm8R8 rm r => pfx d false none (memOf rm) ++ [0x38#8] ++ modrm gpr8 (gpr8 r) rm
  | .cmpRmR osz rm r => pfx d false (some osz) (memOf rm) ++ [0x39#8] ++ modrm gpr (gpr r) rm
  | .cmpR8Rm8 r rm => pfx d false none (memOf rm) ++ [0x3a#8] ++ modrm gpr8 (gpr8 r) rm
  | .cmpRRm osz r rm => pfx d false (some osz) (memOf rm) ++ [0x3b#8] ++ modrm gpr (gpr r) rm
  | .cmpAlImm8 imm => [0x3c#8] ++ [imm]
  | .cmpEaxImm imm => pfx d false (some imm.size) none ++ [0x3d#8] ++ immv imm
  | .cmpRm8Imm8 rm imm => pfx d false none (memOf rm) ++ [0x80#8] ++ modrm gpr8 7#3 rm ++ [imm]
  | .cmpRmImm rm imm => pfx d false (some imm.size) (memOf rm) ++ [0x81#8] ++ modrm gpr 7#3 rm ++ immv imm
  | .cmpRmImm8 osz rm imm => pfx d false (some osz) (memOf rm) ++ [0x83#8] ++ modrm gpr 7#3 rm ++ [imm]
  | .incR osz r => pfx d false (some osz) none ++ [(0x40#8 ||| (gpr r).setWidth 8)]
  | .decR osz r => pfx d false (some osz) none ++ [(0x48#8 ||| (gpr r).setWidth 8)]
  | .pushR osz r => pfx d false (some osz) none ++ [(0x50#8 ||| (gpr r).setWidth 8)]
  | .popR osz r => pfx d false (some osz) none ++ [(0x58#8 ||| (gpr r).setWidth 8)]
  | .bound osz r m => pfx d false (some osz) (some m) ++ [0x62#8] ++ ea (gpr r) m.ea
  | .arpl rm r => pfx d false none (memOf rm) ++ [0x63#8] ++ modrm gpr (gpr r) rm
  | .pushImm imm => pfx d false (some imm.size) none ++ [0x68#8] ++ immv imm
  | .pushImm8 osz imm => pfx d false (some osz) none ++ [0x6a#8] ++ [imm]
  | .jccRel8 osz cc imm => pfx d false (some osz) none ++ [(0x70#8 ||| (cond cc).setWidth 8)] ++ [imm]
  | .testRm8R8 rm r => pfx d false none (memOf rm) ++ [0x84#8] ++ modrm gpr8 (gpr8 r) rm
  | .testRmR osz rm r => pfx d false (some osz) (memOf rm) ++ [0x85#8] ++ modrm gpr (gpr r) rm
  | .xchgRm8R8 lock rm r => pfx d lock none (memOf rm) ++ [0x86#8] ++ modrm gpr8 (gpr8 r) rm
  | .xchgRmR lock osz rm r => pfx d lock (some osz) (memOf rm) ++ [0x87#8] ++ modrm gpr (gpr r) rm
  | .movRm8R8 rm r => pfx d false none (memOf rm) ++ [0x88#8] ++ modrm gpr8 (gpr8 r) rm
  | .movRmR osz rm r => pfx d false (some osz) (memOf rm) ++ [0x89#8] ++ modrm gpr (gpr r) rm
  | .movR8Rm8 r rm => pfx d false none (memOf rm) ++ [0x8a#8] ++ modrm gpr8 (gpr8 r) rm
  | .movRRm osz r rm => pfx d false (some osz) (memOf rm) ++ [0x8b#8] ++ modrm gpr (gpr r) rm
  | .movRmSreg osz rm sr => pfx d false (some osz) (memOf rm) ++ [0x8c#8] ++ modrm gpr sr rm
  | .lea osz r m => pfx d false (some osz) (some m) ++ [0x8d#8] ++ ea (gpr r) m.ea
  | .movSregRm sr rm => pfx d false none (memOf rm) ++ [0x8e#8] ++ modrm gpr sr rm
  | .popRm osz rm => pfx d false (some osz) (memOf rm) ++ [0x8f#8] ++ modrm gpr 0#3 rm
  | .nop => [0x90#8]
  | .xchgEaxR osz r => pfx d false (some osz) none ++ [(0x90#8 ||| (gpr r).setWidth 8)]
  | .callFarPtr p => pfx d false (some (farSize p)) none ++ [0x9a#8] ++ farPtr p
  | .wait => [0x9b#8]
  | .pushf osz => pfx d false (some osz) none ++ [0x9c#8]
  | .popf osz => pfx d false (some osz) none ++ [0x9d#8]
  | .testAlImm8 imm => [0xa8#8] ++ [imm]
  | .testEaxImm imm => pfx d false (some imm.size) none ++ [0xa9#8] ++ immv imm
  | .movR8Imm8 r imm => [(0xb0#8 ||| (gpr8 r).setWidth 8)] ++ [imm]
  | .movRImm r imm => pfx d false (some imm.size) none ++ [(0xb8#8 ||| (gpr r).setWidth 8)] ++ immv imm
  | .retNearImm osz imm => pfx d false (some osz) none ++ [0xc2#8] ++ word imm
  | .retNear osz => pfx d false (some osz) none ++ [0xc3#8]
  | .les osz r m => pfx d false (some osz) (some m) ++ [0xc4#8] ++ ea (gpr r) m.ea
  | .lds osz r m => pfx d false (some osz) (some m) ++ [0xc5#8] ++ ea (gpr r) m.ea
  | .movRm8Imm8 rm imm => pfx d false none (memOf rm) ++ [0xc6#8] ++ modrm gpr8 0#3 rm ++ [imm]
  | .movRmImm rm imm => pfx d false (some imm.size) (memOf rm) ++ [0xc7#8] ++ modrm gpr 0#3 rm ++ immv imm
  | .retFarImm osz imm => pfx d false (some osz) none ++ [0xca#8] ++ word imm
  | .retFar osz => pfx d false (some osz) none ++ [0xcb#8]
  | .int3 => [0xcc#8]
  | .intN imm => [0xcd#8] ++ [imm]
  | .into => [0xce#8]
  | .iret osz => pfx d false (some osz) none ++ [0xcf#8]
  | .fninit => [0xdb#8] ++ [3#2 ++ 4#3 ++ 3#3]
  | .inAlImm8 imm => [0xe4#8] ++ [imm]
  | .inEaxImm8 osz imm => pfx d false (some osz) none ++ [0xe5#8] ++ [imm]
  | .outImm8Al imm => [0xe6#8] ++ [imm]
  | .outImm8Eax osz imm => pfx d false (some osz) none ++ [0xe7#8] ++ [imm]
  | .callRel imm => pfx d false (some imm.size) none ++ [0xe8#8] ++ immv imm
  | .jmpRel imm => pfx d false (some imm.size) none ++ [0xe9#8] ++ immv imm
  | .jmpFarPtr p => pfx d false (some (farSize p)) none ++ [0xea#8] ++ farPtr p
  | .jmpRel8 osz imm => pfx d false (some osz) none ++ [0xeb#8] ++ [imm]
  | .inAlDx => [0xec#8]
  | .inEaxDx osz => pfx d false (some osz) none ++ [0xed#8]
  | .outDxAl => [0xee#8]
  | .outDxEax osz => pfx d false (some osz) none ++ [0xef#8]
  | .hlt => [0xf4#8]
  | .testRm8Imm8 rm imm => pfx d false none (memOf rm) ++ [0xf6#8] ++ modrm gpr8 0#3 rm ++ [imm]
  | .divRm8 rm => pfx d false none (memOf rm) ++ [0xf6#8] ++ modrm gpr8 6#3 rm
  | .idivRm8 rm => pfx d false none (memOf rm) ++ [0xf6#8] ++ modrm gpr8 7#3 rm
  | .testRmImm rm imm => pfx d false (some imm.size) (memOf rm) ++ [0xf7#8] ++ modrm gpr 0#3 rm ++ immv imm
  | .divRm osz rm => pfx d false (some osz) (memOf rm) ++ [0xf7#8] ++ modrm gpr 6#3 rm
  | .idivRm osz rm => pfx d false (some osz) (memOf rm) ++ [0xf7#8] ++ modrm gpr 7#3 rm
  | .cli => [0xfa#8]
  | .sti => [0xfb#8]
  | .incRm8 lock rm => pfx d lock none (memOf rm) ++ [0xfe#8] ++ modrm gpr8 0#3 rm
  | .decRm8 lock rm => pfx d lock none (memOf rm) ++ [0xfe#8] ++ modrm gpr8 1#3 rm
  | .incRm lock osz rm => pfx d lock (some osz) (memOf rm) ++ [0xff#8] ++ modrm gpr 0#3 rm
  | .decRm lock osz rm => pfx d lock (some osz) (memOf rm) ++ [0xff#8] ++ modrm gpr 1#3 rm
  | .callRm osz rm => pfx d false (some osz) (memOf rm) ++ [0xff#8] ++ modrm gpr 2#3 rm
  | .callFarMem osz m => pfx d false (some osz) (some m) ++ [0xff#8] ++ ea 3#3 m.ea
  | .jmpRm osz rm => pfx d false (some osz) (memOf rm) ++ [0xff#8] ++ modrm gpr 4#3 rm
  | .jmpFarMem osz m => pfx d false (some osz) (some m) ++ [0xff#8] ++ ea 5#3 m.ea
  | .pushRm osz rm => pfx d false (some osz) (memOf rm) ++ [0xff#8] ++ modrm gpr 6#3 rm

/-- The instruction the decoder reads from the `nbits` bits of `w`: byte k is bits 8k+7 to 8k, the bytes after
them are 0, and the code segment has D = 0, as after reset (log 6). -/
def decodeTableWord (nbits w : Nat) : Option Instr :=
  match Decode.decode false (List.ofFn fun k : Fin 15 => BitVec.ofNat 8 ((w % 2 ^ nbits) >>> (8 * k.val))) with
  | .ok i _ => some i
  | .stop _ => none

end Sys2Proof
end

