-- ==== Sys2Proof/Machine/Events.lean ====
section
/-!
DEFINITION. What happens at an instruction boundary instead of an instruction (`spec/60_exceptions.md` R900 to R906):
reset, INIT, machine check, SMI, traps, NMI, interrupts; and what leaves the halted and shutdown states.
-/
namespace Sys2Proof.Machine

/-- What the next step does (`spec/60_exceptions.md` R906). -/
inductive Happening where
  | reset
  | machineCheck (e : McEvent)
  | binit
  | debugTrap (p : PendingDb)
  | flush
  | smi
  | init
  | nmi
  | extInt
  | apicInt
  | startup (vec : Byte)
  /-- No instruction is executed: halted, shut down, waiting for a SIPI, or stopped by STPCLK#. -/
  | idle
  | instruction
  deriving DecidableEq, Repr

/-- An NMI can be taken (`spec/60_exceptions.md` R901, R905; `spec/63_smm.md` R1139). -/
def Cpu.nmiOpen (c : Cpu) : Bool := !c.hid.nmiBlocked && !c.smm.nmiBlockedBySmm && !c.hid.ssShadow

/-- A maskable interrupt can be taken (`spec/60_exceptions.md` R902, R905; `spec/40_system_instructions.md` R540). -/
def Cpu.intOpen (c : Cpu) : Bool := c.fl.if_ && !c.hid.ssShadow && !c.hid.stiShadow

/-- The maskable interrupt that would be taken: the external controller's before the local APIC's (log 19). -/
def maskable (c : Cpu) (b : Bus) : Option Happening :=
  if Apic.extInt c b then some .extInt
  else if Apic.enabled c && b.apic.intrUp then some .apicInt
  else none

/-- Classes 5 and below of the priority table: external interrupts, else the next instruction. The order within the class,
NMI before a maskable interrupt, is the model's choice (U13; log 54). -/
def interruptOr (c : Cpu) (b : Bus) (rest : Happening) : Happening :=
  if b.ev.nmi && c.nmiOpen then .nmi
  else if c.intOpen then (maskable c b).getD rest
  else rest

/-- Classes 3 and below: external hardware interventions, traps on the previous instruction, the rest. The order within
class 3 is FLUSH#, which comes before an SMI (`spec/63_smm.md` R1130), SMI, INIT, STPCLK#: the model's choice where it is
implementation dependent (U13; log 54). -/
def externalOr (c : Cpu) (b : Bus) (rest : Happening) : Happening :=
  if b.ev.flush then .flush
  else if b.ev.smi && !c.smm.smiBlocked then .smi
  else if b.ev.init && !c.smm.inSmm then .init
  else if b.ev.stpclk then .idle
  else
    match c.hid.pendingDb with
    | some p => if c.hid.ssShadow then interruptOr c b rest else .debugTrap p
    | none => interruptOr c b rest

/-- A processor that runs, or is halted: the whole priority table (`spec/60_exceptions.md` R906). -/
def activeNext (c : Cpu) (b : Bus) (rest : Happening) : Happening :=
  match b.ev.mc with
  | some e => .machineCheck e
  | none =>
    if b.ev.binit then .binit else
    match c.hid.pendingDb with
    | some p => if p.bt then .debugTrap p else externalOr c b rest
    | none => externalOr c b rest

/-- A processor in shutdown (`spec/60_exceptions.md` R917). FLUSH# is still recognised (`spec/63_smm.md` R1117). In an NMI
handler only a hardware reset ends shutdown. An SMI ends it, but in SMM it is held, so that it does not end the shutdown
that RSM enters; an NMI or an INIT ends that too (R1117; log 37). -/
def shutdownNext (c : Cpu) (b : Bus) : Happening :=
  if b.ev.flush then .flush
  else if c.hid.nmiBlocked then .idle
  else if b.ev.smi && !c.smm.smiBlocked then .smi
  else if b.ev.init then .init
  else if b.ev.nmi then .nmi
  else .idle

/-- A processor that waits for a start-up IPI (`spec/62_apic_and_mp.md` R1043); it also responds to BINIT# (R1075), with a
machine-check event, which is the model's choice (`takeBinit`; log 26). An INIT
that arrives here is taken, and the processor goes on waiting: `spec/10_state.md` R114 leaves the case to a file that gives no
word on it, so this is the model's choice (log 63). -/
def waitingNext (b : Bus) : Happening :=
  match b.ev.sipi with
  | some v => .startup v
  | none => if b.ev.binit then .binit else if b.ev.init then .init else .idle

/-- What the next step does. -/
def happening (c : Cpu) (b : Bus) : Happening :=
  if b.ev.reset then .reset
  else
    match c.hid.run with
    | .running => activeNext c b .instruction
    | .halted => activeNext c b .idle
    | .shutdown => shutdownNext c b
    | .waitForSipi => waitingNext b

/-- Registers that a hardware reset does not initialize keep their contents: machine-check registers, the update
signature, branch records (`spec/70_reset_and_hazards.md` R1305, R1312; log 3). -/
def Msrs.hardReset (m : Msrs) : Msrs :=
  { Msrs.reset with
    mcgStatus := m.mcgStatus, mcCtl := m.mcCtl, mcStatus := m.mcStatus, mcAddr := m.mcAddr
    mcuSignature := m.mcuSignature, bblCrOvrd := m.bblCrOvrd, lastBranchFrom := m.lastBranchFrom
    lastBranchTo := m.lastBranchTo, lastExcFrom := m.lastExcFrom, lastExcTo := m.lastExcTo }

/-- A hardware reset of a running machine: memory stays, but the caches are invalidated without writing back
(`spec/70_reset_and_hazards.md` R1300; log 26). -/
def hardReset : M Unit := do
  onBus (do loseBytes (← getBus).lossy)
  modCpu fun c => { Cpu.reset with msr := c.msr.hardReset }
  onBus (modBus fun b => { b with
    apic := .reset, tlb := [], lines := false, lossy := [], stale := [], oldPg := false, hits := 0#4
    ev := { b.ev with
      reset := false, init := false, binit := false, mc := none, smi := false, nmi := false, flush := false
      sipi := none, apicIn := [], selfIn := [], extMsg := false, flushEnd := false } })

/-- CR0 after INIT: CD and NW stay (`spec/70_reset_and_hazards.md` R1302). -/
def initCr0 (cr0 : W32) : W32 := (cr0 &&& 0x60000000#32) ||| 0x10#32

/-- The registers after INIT (`spec/70_reset_and_hazards.md` R1302; the debug registers too: log 38). -/
def Cpu.afterInit (c : Cpu) : Cpu :=
  { Cpu.reset with
    ctl.cr0 := initCr0 c.ctl.cr0, fpu := c.fpu, sse := c.sse, msr := c.msr
    smm := { Smm.reset with smbase := c.smm.smbase }
    hid.run := if c.msr.apicBase.getLsbD 8 then .running else .waitForSipi }

/-- INIT: the caches stay, the translations go (`spec/70_reset_and_hazards.md` R1300, R1302). The local APIC is as after
power-up (`spec/62_apic_and_mp.md` R1057): it holds no self-interrupt and no ExtINT back. Later fetches see every store so
far (log 13). -/
def takeInit : M Unit := do
  modCpu (·.afterInit)
  onBus (modBus fun b => { b.serialized with
    apic := Apic.afterInit b.apic, tlb := [], ev := { b.ev with init := false, selfIn := [], extMsg := false } })

/-- The start-up IPI (`spec/62_apic_and_mp.md` R1043). Later fetches see every store so far (log 13). -/
def takeStartup (vec : Byte) : M Unit := do
  modCpu fun c => { c with
    seg.cs := { SegReg.realMode (vec ++ 0#8) (vec.setWidth 32 <<< 12) with db := false }
    eip := 0#32, hid.run := .running }
  onBus (modBus fun b => { b.serialized with ev.sipi := none })

/-- The status that a machine-check event writes to its bank (`spec/64_machine_check.md` R1178, R1182). -/
def McEvent.status (e : McEvent) (enabled lost : Bool) : W64 :=
  (BitVec.ofBool true ++ BitVec.ofBool lost ++ BitVec.ofBool e.uc ++ BitVec.ofBool enabled ++ BitVec.ofBool false
    ++ BitVec.ofBool e.addr.isSome ++ BitVec.ofBool e.pcc ++ e.code).setWidth 64

/-- May the event overwrite the bank's status (`spec/64_machine_check.md` R1178; log 41)? -/
def McEvent.overwrites (e : McEvent) (enabled : Bool) (old : W64) : Bool :=
  !old.getLsbD 63
    || (!(e.uc && old.getLsbD 61) && ((enabled && !old.getLsbD 60) || (e.uc && !old.getLsbD 61)))

/-- Is the event enabled by its bit of MCi_CTL? -/
def McEvent.enabled (e : McEvent) (m : Msrs) : Bool := (m.mcCtl.toList.getD e.bank.val 0#64).getLsbD e.enable.val

/-- The bits of a valid status that a new event does not overwrite: time-out, hard error, IERR and AERR while they are set,
and, while UECC is set, UECC and the syndrome (`spec/64_machine_check.md` R1185; log 41). -/
def mcSticky (old : W64) : W64 :=
  if old.getLsbD 63 then
    (old &&& 0x00001C4000000000#64) ||| (if old.getLsbD 45 then 0x007FA00000000000#64 else 0#64)
  else 0#64

/-- A new status, but for the bits that are not overwritten (`spec/64_machine_check.md` R1185). -/
def mcMerge (old new : W64) : W64 := (old &&& mcSticky old) ||| (new &&& ~~~(mcSticky old))

/-- Log the event in its bank; a valid status that is kept gets OVER (`spec/64_machine_check.md` R1178, R1182). -/
def Msrs.logMc (m : Msrs) (e : McEvent) : Msrs :=
  let old := m.mcStatus.toList.getD e.bank.val 0#64
  if e.overwrites (e.enabled m) old then
    { m with
      mcStatus := m.mcStatus.set e.bank.val (mcMerge old (e.status (e.enabled m) (old.getLsbD 63)))
      mcAddr := m.mcAddr.set e.bank.val
        ((e.addr.map (·.setWidth 64)).getD (m.mcAddr.toList.getD e.bank.val 0#64)) }
  else { m with mcStatus := m.mcStatus.set e.bank.val (old ||| 0x4000000000000000#64) }

/-- MCG_STATUS when #MC is generated: MCIP, and RIPV and EIPV as the event says (`spec/64_machine_check.md` R1174). -/
def McEvent.global (e : McEvent) : W64 :=
  (BitVec.ofBool true ++ BitVec.ofBool e.eipv ++ BitVec.ofBool e.ripv).setWidth 64

/-- Log a machine-check event; an uncorrected enabled one raises #MC, or shuts the processor down, and the pending traps
are discarded (`spec/64_machine_check.md` R1170, R1182). -/
def machineCheck (e : McEvent) : M Unit := do
  let c ← getCpu
  modCpu fun c => { c with msr := c.msr.logMc e }
  if e.uc && e.enabled c.msr then
    modCpu fun c => { c with hid.pendingDb := none }
    if !bit c.ctl.cr4 6 || c.msr.mcgStatus.getLsbD 2 then modCpu fun c => { c with hid.run := .shutdown }
    else
      modCpu fun c => { c with msr.mcgStatus := e.global, hid.run := .running }
      takeEvent 18#8 false

/-- A machine-check event (`spec/64_machine_check.md` R1182). -/
def takeMachineCheck (e : McEvent) : M Unit := do
  onBus (modBus fun b => { b with ev.mc := none })
  machineCheck e

/-- The machine-check event of BINIT#: an external error, MCACOD 0003H, in the bank that reports external bus errors
(`spec/64_machine_check.md` R1172, R1183, R1185). What else it reports, an address among it, are free values (log 26). -/
def binitEvent : B McEvent := do
  let lo ← free
  let hi ← free
  let a ← free
  let a' ← free
  return { bank := Config.busErrorBank
           code := (hi.extractLsb' 0 25 ||| 8#25) ++ lo.extractLsb' 16 16 ++ 3#16
           pcc := bit hi 25, uc := true, addr := if bit hi 28 then some (a'.extractLsb' 0 4 ++ a) else none
           enable := ⟨lo.toNat % 64, Nat.mod_lt _ (by decide)⟩
           ripv := bit hi 26, eipv := bit hi 27 }

/-- BINIT#: the processor leaves the halted state and logs an external error (`spec/10_state.md` R114). The same event is taken
where the processor waits for a start-up IPI, and can end the wait in vector 18 or in shutdown: R114 names only the start-up
IPI, `spec/62_apic_and_mp.md` R1075 only a response to BINIT#, and this is the model's choice (log 26). -/
def takeBinit : M Unit := do
  onBus (modBus fun b => { b with ev.binit := false })
  modCpu fun c => { c with hid.run := if c.hid.run = .halted then .running else c.hid.run }
  machineCheck (← onBus binitEvent)

/-- The bits of DR6 that a pending trap reports (`spec/65_debug_and_perfmon.md` R1224). -/
def PendingDb.bits (p : PendingDb) : W32 := p.b.setWidth 32 ||| flagBit p.bs 14 ||| flagBit p.bt 15

/-- A debug trap on the previous instruction (`spec/65_debug_and_perfmon.md` R1233, R1236, R1238 to R1240). -/
def takeDebugTrap (p : PendingDb) : M Unit := do
  modCpu fun c => { c with dbg.dr6 := c.dbg.dr6 ||| p.bits, hid := { c.hid with pendingDb := none, run := .running } }
  takeEvent 1#8 false

/-- An NMI (`spec/60_exceptions.md` R900, R901). -/
def takeNmi : M Unit := do
  onBus (modBus fun b => { b with ev.nmi := false })
  modCpu fun c => { c with hid := { c.hid with nmiBlocked := true, run := .running } }
  takeEvent 2#8 true

/-- A maskable interrupt from the external controller: INTA answers the vector (log 26). -/
def takeExtInt : M Unit := do
  let c ← getCpu
  let vec := (← onBus getBus).ev.inta
  onBus (modBus (Apic.takeExt c))
  modCpu fun c => { c with hid.run := .running }
  takeEvent vec true

/-- A maskable interrupt from the local APIC (`spec/62_apic_and_mp.md` R1046), or its spurious vector (R1049). -/
def takeApicInt : M Unit := do
  let (vec, a) := Apic.dispense (← onBus getBus).apic
  onBus (modBus fun b => { b with apic := a })
  modCpu fun c => { c with hid.run := .running }
  takeEvent vec true

/-- FLUSH#: the caches are written back and invalidated, and every cached translation is dropped (`spec/21_paging.md` R241,
`spec/24_caches_mtrr.md` R399). That the modified lines are written back is the model's choice (log 55). -/
def takeFlush : M Unit := onBus (modBus fun b => { b.emptied.flushAll with ev.flush := false })

/-- An SMI (`spec/63_smm.md` R1111, R1112). -/
def takeSmi : M Unit := do
  onBus (modBus fun b => { b with ev.smi := false })
  enterSmm

/-- The start of a step: nothing noted, no breakpoint matched. The note of an I/O instruction stays for an SMI
that is taken right after it (`spec/63_smm.md` R1145). -/
def Cpu.clearNotes (c : Cpu) : Cpu := { c with notes := { Notes.clear with start := c.eip, ioEip := c.notes.ioEip } }

/-- While caching is not prevented lines may be filled at any time, also of memory that no instruction accesses
(`spec/24_caches_mtrr.md` R388, R397). -/
def fillLines : B Unit := do
  if !(← regs).cd && Mtrr.enabled (← regs) then modBus fun b => { b with lines := true }

/-- The release of FLUSH# drops every cached translation, in every state of the processor (`spec/24_caches_mtrr.md` R399). -/
def Bus.flushReleased (b : Bus) : Bus := if b.ev.flushEnd then { b.flushAll with ev.flushEnd := false } else b

/-- Pins and messages, what the processor fetches ahead of need, then the choice of what happens. A SIPI to a processor that
does not wait for one is ignored (`spec/62_apic_and_mp.md` R1043). -/
def look : M Happening := do
  onBus Apic.poll
  onBus (modBus Bus.flushReleased)
  onBus fillLines
  onBus speculate
  modCpu (·.clearNotes)
  onBus (modBus fun b => { b with hits := 0#4 })
  let c ← getCpu
  if c.hid.run ≠ .waitForSipi then onBus (modBus fun b => { b with ev.sipi := none })
  return happening c (← onBus getBus)

/-- Do what happens instead of an instruction. -/
def takeHappening : Happening → M Unit
  | .reset => hardReset
  | .machineCheck e => takeMachineCheck e
  | .binit => takeBinit
  | .debugTrap p => takeDebugTrap p
  | .flush => takeFlush
  | .smi => takeSmi
  | .init => takeInit
  | .nmi => takeNmi
  | .extInt => takeExtInt
  | .apicInt => takeApicInt
  | .startup v => takeStartup v
  | .idle => pure ()
  | .instruction => pure ()

end Sys2Proof.Machine
end

