-- ==== Sys2Proof/Machine/Fetch.lean ====
section
/-!
DEFINITION. The start and the end of an instruction: the checks before it, fetching and decoding its bytes, and what
follows its completion (`spec/60_exceptions.md` R906, `spec/65_debug_and_perfmon.md` R1231 to R1251).
-/
namespace Sys2Proof.Machine

/-- Is the offset beyond what instructions of the code segment may be fetched from? That is the limit
(`spec/22_protection.md` R262), and in a 16-bit code segment of protected mode FFFFH, above which IP does not reach
(`spec/10_state.md` R32), whatever the limit (log 56). -/
def Cpu.codeEnds (c : Cpu) (off : Nat) : Bool := off > c.seg.cs.limit.toNat || (c.prot && !c.seg.cs.db && off > 0xFFFF)

/-- The byte of the instruction at an offset of the code segment. Past the end #GP(0) is raised; the page checks are those of
a read. -/
def fetchAt (off : Nat) : B Byte := do
  let c ← regs
  raiseIf (c.codeEnds off) (.gp 0#32)
  let p ← checkRange (← physical (c.seg.cs.linear (BitVec.ofNat 32 off)) 1 false c.user)
  if (p.apicOffset c).isSome then refuseB .apicAccessWidth
  fetchByte p.la (p.addrs.headD 0)

/-- Fetch bytes until they are an instruction, or why not. The 16th byte is #GP(0) (`spec/30_encoding.md` R454). -/
def fetchFrom (d : Bool) (eip : Nat) : Nat → List Byte → B (Instr × Nat)
  | fuel, bs =>
    match Decode.decode d bs with
    | .ok i len => pure (i, len)
    | .stop .ud => raiseB .ud
    | .stop .noRow => refuseB .noTableRow
    | .stop .reservedOpcode => refuseB .reservedOpcode
    | .stop .more =>
      match fuel with
      | 0 => raiseB (.gp 0#32)
      | n + 1 => do
        let b ← fetchAt (eip + bs.length)
        fetchFrom d eip n (bs ++ [b])

/-- The instruction at CS:EIP and its length. -/
def fetchInstr : B (Instr × Nat) := do
  let c ← regs
  fetchFrom c.d c.eip.toNat 15 []

/-- The registers with paging as it was before it was switched: off, or on, which takes PE too. -/
def Cpu.otherPg (c : Cpu) : Cpu :=
  { c with ctl.cr0 := if c.pg then c.ctl.cr0 &&& 0x7FFFFFFF#32 else c.ctl.cr0 ||| 0x80000001#32 }

/-- The instruction at CS:EIP and its length. Where it may have been fetched before a change of PG, a free bit decides with
which PG it is; once one is fetched with the new setting, those after it are too (`spec/40_system_instructions.md` R497,
`spec/70_reset_and_hazards.md` R1330; log 52). -/
def fetchNext : B (Instr × Nat) := fun c b =>
  if b.oldPg then
    match freeBit c b with
    | .ok true b => fetchInstr c.otherPg b
    | .ok false b => fetchInstr c { b with oldPg := false }
    | .error e b => .error e b
  else fetchInstr c b

/-- The offset of the next instruction, after one of `len` bytes. Sequential execution does not cut it
(`spec/30_encoding.md` R459, `spec/45_v86_and_16bit.md` R802): past the end of the segment the next fetch faults. -/
def Cpu.following (c : Cpu) (len : Nat) : W32 := c.eip + BitVec.ofNat 32 len

/-- VIF and VIP both set where they are active: #GP(0) before the instruction
(`spec/45_v86_and_16bit.md` R843, R853; with CR4.PVI too: log 35). -/
def Cpu.virtualPending (c : Cpu) : Bool :=
  c.pe && c.fl.vif && c.fl.vip && c.cpl == 3#2 && c.fl.iopl != 3#2 && c.vifActive

/-- The instruction breakpoints: a #DB fault unless RF is set (`spec/65_debug_and_perfmon.md` R1231). -/
def checkBreakpoints : B Unit := do
  let c ← regs
  if undefinedBreakpoint c then refuseB .breakpointSetup
  let h := execMatches c (c.seg.cs.linear c.eip)
  raiseIf (!c.fl.rf && !c.hid.ssShadow && anyEnabled c h) (.db (h.setWidth 32))

/-- Everything before the meaning of an instruction: breakpoints, VIF and VIP, fetch and decode. -/
def beginInstr : M Instr := do
  modCpu fun c => { c with notes.ioEip := none }
  onBus checkBreakpoints
  if (← getCpu).virtualPending then raise (.gp 0#32)
  let (i, len) ← onBus fetchNext
  modCpu fun c => { c with nextEip := c.following len }
  return i

/-- BTF (`spec/65_debug_and_perfmon.md` R1251). -/
def Cpu.btf (c : Cpu) : Bool := c.msr.debugCtl.getLsbD 1

/-- Single step: TF was set at the start and the instruction completed; with BTF set, a branch, interrupt or exception
was taken (`spec/65_debug_and_perfmon.md` R1236, R1251; log 46). -/
def singleStep (tf : Bool) (c : Cpu) : Bool := tf && (if c.btf then c.notes.branched else !c.notes.faulted)

/-- The offset is not that of the next instruction: a branch (`spec/65_debug_and_perfmon.md` R1250, D104). -/
def Cpu.noteBranch (c : Cpu) : Cpu :=
  if !c.notes.branched && c.eip != c.nextEip then
    { c.recordBranch c.notes.start c.eip with notes.branched := true }
  else c

/-- The end of an instruction that completed: branch record and RF. -/
def Cpu.completed (c : Cpu) : Cpu :=
  let c := c.noteBranch
  { c with fl.rf := c.fl.rf && c.notes.keepRf }

/-- The traps that an instruction leaves: matched breakpoints are reported with an enabled one, or with any other
condition (`spec/65_debug_and_perfmon.md` R1225, R1233, R1240). -/
def newTraps (start c : Cpu) (hits : BitVec 4) : PendingDb :=
  let bs := singleStep start.fl.tf c
  let others := bs || c.hid.pendingDb.any (·.bt) || anyEnabled start hits
  { b := if others && !c.notes.faulted then hits else 0#4, bs, bt := false }

/-- The shadows last for one instruction (`spec/10_state.md` R113). They end too with the first step in which the shadowed
instruction is held up with NE = 0 (`Stop.wait`): R745 and R113 do not say so, and this is the model's choice (log 61). -/
def Cpu.dropShadows (c : Cpu) : Cpu :=
  if c.notes.newShadow then c else { c with hid.ssShadow := false, hid.stiShadow := false }

/-- The end of an instruction, `start` being the registers before it. -/
def finish (start : Cpu) (s : State) : State :=
  let c := if s.cpu.notes.faulted then s.cpu else s.cpu.completed
  let c := { c with hid.pendingDb := joinTraps (newTraps start c s.bus.hits) c.hid.pendingDb }
  { s with cpu := c.dropShadows }

/-- Single step on branches after an event at a boundary (`spec/65_debug_and_perfmon.md` R1251). -/
def finishEvent (start : Cpu) (s : State) : State :=
  if start.fl.tf && s.cpu.btf && s.cpu.notes.branched then
    { s with cpu.hid.pendingDb := joinTraps { b := 0#4, bs := true, bt := false } s.cpu.hid.pendingDb }
  else s

/-- The condition of a performance counter in a clock (`spec/65_debug_and_perfmon.md` R1266). -/
def perfCondition (sel : W32) (t : Nat) : Bool :=
  let n := Config.perfEvents (sel.extractLsb' 0 8) (sel.extractLsb' 8 8) t
  let mask := (sel.extractLsb' 24 8).toNat
  if mask = 0 then n > 0 else if bit sel 23 then n < mask else n ≥ mask

/-- What a performance counter adds in a clock (`spec/65_debug_and_perfmon.md` R1266). -/
def perfAdd (sel : W32) (t : Nat) : Nat :=
  if bit sel 18 then (if perfCondition sel t && !perfCondition sel (t - 1) then 1 else 0)
  else if sel.extractLsb' 24 8 = 0#8 then Config.perfEvents (sel.extractLsb' 0 8) (sel.extractLsb' 8 8) t
  else if perfCondition sel t then 1 else 0

/-- Is the counter counting at this privilege level (`spec/65_debug_and_perfmon.md` R1266, R1268)? -/
def perfCounts (c : Cpu) (sel : W32) : Bool :=
  bit c.msr.perfEvtSel0 22 && (if c.cpl = 0#2 then bit sel 17 else bit sel 16)

/-- A counter after a clock, and whether it overflowed into an interrupt (`spec/65_debug_and_perfmon.md` R1275). -/
def perfNext (c : Cpu) (sel : W32) (ctr : BitVec 40) (t : Nat) : BitVec 40 × Bool :=
  if perfCounts c sel then
    let sum := ctr.toNat + perfAdd sel t
    (BitVec.ofNat 40 sum, bit sel 20 && sum ≥ 2 ^ 40)
  else (ctr, false)

/-- One clock: the time-stamp counter (`spec/65_debug_and_perfmon.md` R1260), the performance counters, the APIC
timer (`spec/62_apic_and_mp.md` R1061). -/
def clock (s : State) : State :=
  let c := s.cpu
  let t := c.msr.tsc.toNat
  let (p0, o0) := perfNext c c.msr.perfEvtSel0 c.msr.perfCtr0 t
  let (p1, o1) := perfNext c c.msr.perfEvtSel1 c.msr.perfCtr1 t
  let b := if (o0 || o1) && Apic.enabled c then Apic.perfOverflow s.bus else s.bus
  { cpu := { c with msr.tsc := c.msr.tsc + 1#64, msr.perfCtr0 := p0, msr.perfCtr1 := p1 }
    bus := if Apic.enabled c then { b with apic := Apic.tick b.apic } else b }

/-- n clocks. -/
def clocks : Nat → State → State
  | 0, s => s
  | n + 1, s => clocks n (clock s)

/-- The time that a step takes (`spec/71_timing_and_optimization.md` R1350; log 18). -/
def pass (s : State) : State := clocks Config.clocksPerStep s

/-- Change the next state of an outcome. -/
def mapNext (f : State → State) : Host.Outcome State Fault Refusal → Host.Outcome State Fault Refusal
  | .next s => .next (f s)
  | .fault r => .fault r
  | .refused r => .refused r

/-- A step that executes an instruction, `run` being the meanings. -/
def runNext (run : Instr → State → Host.Outcome State Fault Refusal) (s : State) :
    Host.Outcome State Fault Refusal :=
  mapNext (fun t => pass (finish s.cpu t))
    (match beginInstr s with
     | .ok i t => run i t
     | .error e t => stopped s t e)

/-- A step that takes an event. -/
def runEvent (h : Happening) (s : State) : Host.Outcome State Fault Refusal :=
  mapNext (fun t => pass (finishEvent s.cpu t))
    (match takeHappening h s with
     | .ok _ t => .next t
     | .error e t => stopped s t e)

/-- One step, `run` being the meanings: what happens at the boundary, or the next instruction. -/
def stepWith (run : Instr → State → Host.Outcome State Fault Refusal) (s : State) :
    Host.Outcome State Fault Refusal :=
  match look s with
  | .ok .instruction t => runNext run t
  | .ok h t => runEvent h t
  | .error e t => stopped s t e

/-- The physical address that the fetch of the byte at an offset of the code segment reads. -/
def fetchAddr (s : State) (off : W32) : Nat :=
  let la := s.cpu.seg.cs.linear off
  if s.cpu.pg then
    match walk s.cpu s.bus la false s.cpu.user with
    | .ok e _ _ => e.addr la
    | _ => la.toNat
  else a20 s.cpu s.bus la.toNat

/-- Store the bits of `w`, byte k being bits 8k+7 to 8k, where the next instruction is fetched: 15 bytes. They are fetched
as they are then. -/
def placeInstr (s : State) (w : Nat) : State :=
  let cells := (List.range 15).map fun k => (fetchAddr s (s.cpu.eip + BitVec.ofNat 32 k), BitVec.ofNat 8 (w >>> (8 * k)))
  { s with bus := { s.bus.serialized with mem := s.bus.mem.writeBytes cells } }

end Sys2Proof.Machine
end

