-- ==== Sys2Proof/Machine/Step.lean ====
section
/-!
DEFINITION. One step of the machine.
-/
namespace Sys2Proof.Machine

/-- One step: the event or the instruction at an instruction boundary (`spec/60_exceptions.md` R906). -/
def step (s : State) : Host.Outcome State Fault Refusal := stepWith exec s

/-- The state with an instruction's bits stored where the next step fetches (log 5). -/
def State.withFetchWord (s : State) (nbits w : Nat) : State := placeInstr s (w % 2 ^ nbits)

end Sys2Proof.Machine
end

