-- ==== Sys2Proof/Safety.lean ====
section
/-!
DEFINITION. The terms in which claims are made: safe runs, the legal states, the forms of the two-operand
instructions, and what an access may change in memory.
-/
namespace Sys2Proof.Machine

/-- A step that ends in a state: neither a fault of the model nor a refusal. -/
def Ends (o : Host.Outcome State Fault Refusal) : Prop := ∃ t, o = .next t

/-- A run of n steps. -/
def runs : Nat → State → Host.Outcome State Fault Refusal
  | 0, s => .next s
  | n + 1, s =>
    match step s with
    | .next t => runs n t
    | o => o

/-- A safe run: n steps, none of which is a fault or a refusal. -/
def SafeFor (n : Nat) (s : State) : Prop := Ends (runs n s)

/-- The state in which the meaning of an instruction starts: EIP is past the instruction
(`spec/42_control_transfer.md` R610). -/
def State.past (s : State) : State := { s with cpu := { s.cpu with eip := s.cpu.nextEip } }

/-- Outside privilege level 0 (`spec/40_system_instructions.md` R481). -/
def Cpu.unprivileged (c : Cpu) : Bool := c.pe && (c.fl.vm || c.cpl != 0#2)

/-- The bits of CR0 that nothing changes: reserved bits 0, bit 4 set (`spec/40_system_instructions.md` R491). -/
def Cr0Fixed (v : W32) : Prop := v &&& 0x1FFAFFC0#32 = 0#32 ∧ bit v 4 = true

/-- No paging without protection (`spec/40_system_instructions.md` R491). -/
def Cr0PagingProtected (v : W32) : Prop := bit v 31 = true → bit v 0 = true

/-- NW is not set without CD (`spec/40_system_instructions.md` R491). -/
def Cr0CachesCoherent (v : W32) : Prop := bit v 29 = true → bit v 30 = true

/-- CR0 as MOV may leave it (`spec/40_system_instructions.md` R491). -/
def Cr0Legal (v : W32) : Prop := Cr0Fixed v ∧ Cr0PagingProtected v ∧ Cr0CachesCoherent v

/-- CR4 as it may be: reserved bits 0 (`spec/40_system_instructions.md` R496). -/
def Cr4Legal (v : W32) : Prop := v &&& 0xFFFFF800#32 = 0#32

/-- DR7 as it may be: bit 10 reads 1, bits 11, 12, 14 and 15 read 0 (`spec/65_debug_and_perfmon.md` R1226; log 30). -/
def Dr7Legal (v : W32) : Prop := v &&& 0xDC00#32 = 0x400#32

/-- MXCSR as it may be: reserved bits 0 (`spec/44_fpu_mmx_sse_system.md` R756). -/
def MxcsrLegal (v : W32) : Prop := v &&& 0xFFFF0040#32 = 0#32

/-- What SMM entry saved is legal. -/
def SmmSaved.Legal (v : SmmSaved) : Prop := Cr0Fixed v.cr0 ∧ Cr4Legal v.cr4 ∧ Dr7Legal v.dr7

/-- Registers that no sequence of instructions makes illegal. In SMM, RSM may have loaded an illegal image of CR0 with PG set
and PE clear (`spec/63_smm.md` R1115, R1116). -/
def Cpu.Legal (c : Cpu) : Prop :=
  Cr0Fixed c.ctl.cr0 ∧ (c.smm.inSmm = false → Cr0PagingProtected c.ctl.cr0) ∧ Cr4Legal c.ctl.cr4 ∧ Dr7Legal c.dbg.dr7
    ∧ MxcsrLegal c.sse.mxcsr ∧ ∀ v, c.smm.saved = some v → v.Legal

/-- A legal state: legal registers, and memory in its canonical form. -/
def State.Legal (s : State) : Prop := s.cpu.Legal ∧ s.bus.mem.wf = true

/-- The two-operand instruction of an operation with destination `r/m8` and source `r8`. -/
def Alu.rm8R8 : Alu → Bool → Rm8 → Gpr8 → Instr
  | .add, l, rm, r => .addRm8R8 l rm r
  | .or, l, rm, r => .orRm8R8 l rm r
  | .and, l, rm, r => .andRm8R8 l rm r
  | .sub, l, rm, r => .subRm8R8 l rm r
  | .xor, l, rm, r => .xorRm8R8 l rm r
  | .cmp, _, rm, r => .cmpRm8R8 rm r

/-- Destination `r/m16/32`, source `r16/32`. -/
def Alu.rmR : Alu → Bool → OpSize → Rm → Gpr → Instr
  | .add, l, osz, rm, r => .addRmR l osz rm r
  | .or, l, osz, rm, r => .orRmR l osz rm r
  | .and, l, osz, rm, r => .andRmR l osz rm r
  | .sub, l, osz, rm, r => .subRmR l osz rm r
  | .xor, l, osz, rm, r => .xorRmR l osz rm r
  | .cmp, _, osz, rm, r => .cmpRmR osz rm r

/-- Destination `r8`, source `r/m8`. -/
def Alu.r8Rm8 : Alu → Gpr8 → Rm8 → Instr
  | .add, r, rm => .addR8Rm8 r rm
  | .or, r, rm => .orR8Rm8 r rm
  | .and, r, rm => .andR8Rm8 r rm
  | .sub, r, rm => .subR8Rm8 r rm
  | .xor, r, rm => .xorR8Rm8 r rm
  | .cmp, r, rm => .cmpR8Rm8 r rm

/-- Destination `r16/32`, source `r/m16/32`. -/
def Alu.rRm : Alu → OpSize → Gpr → Rm → Instr
  | .add, osz, r, rm => .addRRm osz r rm
  | .or, osz, r, rm => .orRRm osz r rm
  | .and, osz, r, rm => .andRRm osz r rm
  | .sub, osz, r, rm => .subRRm osz r rm
  | .xor, osz, r, rm => .xorRRm osz r rm
  | .cmp, osz, r, rm => .cmpRRm osz r rm

/-- Destination AL, source an immediate. -/
def Alu.alImm8 : Alu → Byte → Instr
  | .add, imm => .addAlImm8 imm
  | .or, imm => .orAlImm8 imm
  | .and, imm => .andAlImm8 imm
  | .sub, imm => .subAlImm8 imm
  | .xor, imm => .xorAlImm8 imm
  | .cmp, imm => .cmpAlImm8 imm

/-- Destination eAX, source an immediate. -/
def Alu.eaxImm : Alu → ImmV → Instr
  | .add, imm => .addEaxImm imm
  | .or, imm => .orEaxImm imm
  | .and, imm => .andEaxImm imm
  | .sub, imm => .subEaxImm imm
  | .xor, imm => .xorEaxImm imm
  | .cmp, imm => .cmpEaxImm imm

/-- Destination `r/m8`, source an immediate. -/
def Alu.rm8Imm8 : Alu → Bool → Rm8 → Byte → Instr
  | .add, l, rm, imm => .addRm8Imm8 l rm imm
  | .or, l, rm, imm => .orRm8Imm8 l rm imm
  | .and, l, rm, imm => .andRm8Imm8 l rm imm
  | .sub, l, rm, imm => .subRm8Imm8 l rm imm
  | .xor, l, rm, imm => .xorRm8Imm8 l rm imm
  | .cmp, _, rm, imm => .cmpRm8Imm8 rm imm

/-- Destination `r/m16/32`, source an immediate. -/
def Alu.rmImm : Alu → Bool → Rm → ImmV → Instr
  | .add, l, rm, imm => .addRmImm l rm imm
  | .or, l, rm, imm => .orRmImm l rm imm
  | .and, l, rm, imm => .andRmImm l rm imm
  | .sub, l, rm, imm => .subRmImm l rm imm
  | .xor, l, rm, imm => .xorRmImm l rm imm
  | .cmp, _, rm, imm => .cmpRmImm rm imm

/-- Destination `r/m16/32`, source a sign-extended byte. -/
def Alu.rmImm8 : Alu → Bool → OpSize → Rm → Byte → Instr
  | .add, l, osz, rm, imm => .addRmImm8 l osz rm imm
  | .or, l, osz, rm, imm => .orRmImm8 l osz rm imm
  | .and, l, osz, rm, imm => .andRmImm8 l osz rm imm
  | .sub, l, osz, rm, imm => .subRmImm8 l osz rm imm
  | .xor, l, osz, rm, imm => .xorRmImm8 l osz rm imm
  | .cmp, _, osz, rm, imm => .cmpRmImm8 osz rm imm

/-- What a two-operand operation leaves: registers with the general registers `g` and the flags of the operation;
`b1` is memory, but for the count of free values used, of which the logic operations use one for AF. -/
def Alu.Leaves {w : Nat} (op : Alu) (s t : State) (g : Gprs) (b1 : Bus) (x y : BitVec w) : Prop :=
  t.cpu = { s.past.cpu with gpr := g, fl := op.flags s.cpu.fl x y t.cpu.fl.af }
    ∧ t.bus = { b1 with freeCtr := t.bus.freeCtr }

/-- The free values that an operation uses. -/
def Alu.frees (op : Alu) : Nat := if op.isLogic then 1 else 0

/-- From `b` to `b1` no byte of memory changed but those at the addresses `as`; the translation of a linear address may
also set the accessed and dirty flags of page entries, bits 5 and 6 of a byte, and sets none with paging off. -/
def Stored (c : Cpu) (as : List Nat) (b b1 : Bus) : Prop :=
  (b.mem.wf = true → ∀ a, a ∉ as → ∃ x, b1.mem.read a = b.mem.read a ||| (x &&& 0x60#8))
    ∧ (c.pg = false → ∀ a, a ∉ as → b1.mem.read a = b.mem.read a)

/-- Accesses reach memory directly: no paging, caches disabled or memory-type ranges disabled, no alignment check, no
enabled breakpoint, A20M# not asserted; every address is read-write memory, and the caches are coherent. -/
def Cpu.direct (c : Cpu) (b : Bus) : Bool :=
  !c.pg && (bit c.ctl.cr0 30 || !Mtrr.enabled c) && !bit c.ctl.cr0 18 && c.dbg.dr7 &&& 0xFF#32 == 0#32 && !b.ev.a20m
    && b.map.isEmpty && !incoherent c b

/-- The n bytes at seg:off may be read (or written) and lie in memory, not in the APIC page and not across 4 GBytes. -/
def Cpu.reaches (c : Cpu) (seg : Seg) (off : W32) (n : Nat) (write : Bool) : Prop :=
  segCheck c seg off n write = none ∧ ((c.seg.get seg).linear off).toNat + n ≤ 2 ^ 32 ∧ 0 < n
    ∧ ∀ i, i < n → ¬(Apic.enabled c = true ∧ (((c.seg.get seg).linear off).toNat + i) / 4096 = Apic.page c)

/-- The linear address of seg:off. -/
def Cpu.linear (c : Cpu) (seg : Seg) (off : W32) : Nat := ((c.seg.get seg).linear off).toNat

/-- Writing n bytes of the value `v` at seg:off, with an alignment, is possible: `p` are the places of its bytes, `b2`
memory and devices after it. -/
def WritesAt (c : Cpu) (b : Bus) (seg : Seg) (off : W32) (n align v : Nat) (p : Phys) (b2 : Bus) : Prop :=
  ∃ b1, memPrepare seg off n align true c b = .ok p b1 ∧ writePhys p (leBytes n v) c b1 = .ok () b2

/-- The same with the alignment of a value of n bytes. -/
def Writes (c : Cpu) (b : Bus) (seg : Seg) (off : W32) (n v : Nat) (p : Phys) (b2 : Bus) : Prop :=
  WritesAt c b seg off n n v p b2

/-- The value `x` of w bits at seg:off may be replaced by `y`, in one indivisible operation if `lock`
(`spec/23_ordering.md` R341): `p` are the places of its bytes, `b2` memory and devices after it. In between, `frees` free
values are used. -/
def Modifies {w : Nat} (lock : Bool) (c : Cpu) (b : Bus) (seg : Seg) (off : W32) (x y : BitVec w) (frees : Nat) (p : Phys)
    (b2 : Bus) : Prop :=
  ∃ b1, memReadForWrite w seg off c b = .ok (x, p) b1
    ∧ memWriteBack lock p y c { b1 with freeCtr := b1.freeCtr + frees } = .ok () b2

/-- The value `x` at seg:off, where a write is allowed, may be read, and `y` may then be written there
(`spec/41_segment_instructions.md` R574). -/
def MayModify {w : Nat} (c : Cpu) (b : Bus) (seg : Seg) (off : W32) (x y : BitVec w) (p : Phys) (b2 : Bus) : Prop :=
  ∃ b1, memReadMayWrite w seg off c b = .ok (x, p) b1 ∧ memWriteNow p y c b1 = .ok () b2

/-- What a slot of the stack gets: a value; a selector, above which a 32-bit slot holds a free value (U111); or an error code,
whose reserved bits are a free value (`spec/00_scope.md` R17, log 64). -/
inductive Slot where
  | word (v : W32)
  | sel (s : W16)
  | code (mask v : W32)
  deriving DecidableEq, Repr

/-- The value of a slot. -/
def Slot.value (b : Bus) : Slot → W32
  | .word v => v
  | .sel s => (Config.freeWord b.freeCtr).extractLsb' 16 16 ++ s
  | .code mask v => withReserved mask v (Config.freeWord b.freeCtr)

/-- The free values that a slot uses. -/
def Slot.frees (osz : OpSize) : Slot → Nat
  | .word _ => 0
  | .sel _ =>
    match osz with
    | .w16 => 0
    | .w32 => 1
  | .code _ _ => 1

/-- The stack pointer k bytes lower. -/
def Cpu.below (c : Cpu) (k : Nat) : W32 := c.stackMove (-(BitVec.ofNat 32 k))

/-- The n bytes below the stack pointer are in SS (StackRoom, `spec/42_control_transfer.md` R610). -/
def Cpu.hasRoom (c : Cpu) (n : Nat) : Bool := c.seg.ss.limitOk (c.stackOff (c.below n)) n

/-- The n bytes that start k above the top of the stack are in SS. -/
def Cpu.holds (c : Cpu) (k n : Nat) : Bool := c.seg.ss.limitOk (c.stackOff (c.stackMove (BitVec.ofNat 32 k))) n

/-- Slots of a size can be pushed one after the other (`spec/00_scope.md` R12): `as` are the addresses stored to, `c1`
and `b1` registers, memory and devices after it. -/
def Pushes (osz : OpSize) : List Slot → Cpu → Bus → List Nat → Cpu → Bus → Prop
  | [], c, b, as, c1, b1 => as = [] ∧ c1 = c ∧ b1 = b
  | v :: vs, c, b, as, c1, b1 => ∃ p b2 rest,
    Writes c { b with freeCtr := b.freeCtr + v.frees osz } .ss (c.stackOff (c.below osz.bytes)) osz.bytes
        (v.value b).toNat p b2
      ∧ Pushes osz vs (c.setEsp (c.below osz.bytes)) b2 rest c1 b1 ∧ as = p.addrs ++ rest

/-- The address of the access-rights byte of a descriptor, for a write. -/
def rightsAddrs (d : Desc) (c : Cpu) (b : Bus) : List Nat :=
  match physical (d.la + 5#32) 1 true false c b with
  | .ok p _ => p.addrs
  | .error _ _ => []

/-- The addresses that setting the accessed bit of a descriptor stores to. -/
def accessedAddrs (d : Desc) (c : Cpu) (b : Bus) : List Nat := if d.typ.getLsbD 0 then [] else rightsAddrs d c b

/-- The addresses that loading a segment register with a selector stores to: the accessed bit of the descriptor that it
names (`spec/41_segment_instructions.md` R560). -/
def segAddrs (sr : Seg) (sel : W16) (c : Cpu) (b : Bus) : List Nat :=
  if !c.prot || (sr != .ss && selNull sel) then []
  else
    match (if sr = .ss then stackSegment sel c.cpl .gp else dataSegment sel) c b with
    | .ok d b1 => accessedAddrs d c b1
    | .error _ _ => []

/-- What an instruction ends in when it raises an exception, memory and devices being `b` by then. -/
def State.raises (s : State) (e : Exc) (b : Bus) : Host.Outcome State Fault Refusal :=
  stopped s { s with bus := b } (.exc e)

/-- The end of an instruction that is not executed yet: the processor waits before it
(`spec/44_fpu_mmx_sse_system.md` R745). -/
def State.waits (s : State) : Host.Outcome State Fault Refusal :=
  .next { cpu := { s.cpu with notes.faulted := true }, bus := s.bus }

/-- What a division leaves: quotient and remainder in `g`, the six status flags undefined (a free value), the rest as it
was. -/
def Divided (s : State) (g : Gprs) (b1 : Bus) (o : Host.Outcome State Fault Refusal) : Prop :=
  ∃ v, o = .next { cpu := { s.past.cpu with gpr := g, fl := s.cpu.fl.statusFrom v }
                   bus := { b1 with freeCtr := b1.freeCtr + 1 } }

/-- An exception table may be used: not in SMM before LIDT, but for external interrupts (`spec/63_smm.md` R1138;
log 22). -/
def Delivery.tableReady (d : Delivery) (c : Cpu) : Bool := !c.smm.inSmm || c.smm.lidtDone || d.irq

/-- The registers that an exception raised by an instruction is delivered with. -/
def Cpu.taking (c : Cpu) (e : Exc) : Cpu := { c.beforeDelivery e with notes.faulted := true, notes.ioEip := none }

/-- Delivery `d` in real-address mode (`spec/45_v86_and_16bit.md` R806) is possible: FLAGS, CS and IP are pushed, to the
addresses `as`, then `entry` is read from the table; `c1` are the registers after the pushes, `b2` is memory after the
read. -/
def RealDelivery (d : Delivery) (c : Cpu) (b : Bus) (as : List Nat) (c1 : Cpu) (entry : Nat) (b2 : Bus) : Prop :=
  c.pe = false ∧ d.tableReady c = true ∧ 4 * d.vec.toNat + 3 ≤ c.idtr.limit.toNat
    ∧ ∃ b1, Pushes .w16 [.word (d.image c).toBits, .sel d.cs, .word d.retEip] c b as c1 b1
      ∧ sysRead (c.idtr.base + 4#32 * d.vec.setWidth 32) 4 c1 b1 = .ok entry b2

/-- The registers at the first instruction of a handler in real-address mode: IF, TF, RF and AC are clear, CS:IP comes
from the table. -/
def Cpu.inRealHandler (c1 : Cpu) (d : Delivery) (entry : Nat) : Cpu :=
  let e : W32 := BitVec.ofNat 32 entry
  ({ c1 with
    fl := { c1.fl with if_ := false, tf := false, rf := false, ac := false }
    seg.cs := c1.seg.cs.paragraph (e.extractLsb' 16 16)
    eip := (e.extractLsb' 0 16).setWidth 32 } : Cpu).afterDelivery d

/-- The slots that a gate delivery pushes for an image of EFLAGS: the image, CS, EIP and the error code, if there is one
(`spec/60_exceptions.md` R910). -/
def Delivery.frame (d : Delivery) (img : Eflags) : List Slot :=
  [.word img.toBits, .sel d.cs, .word d.retEip] ++ d.code.toList.map (.code d.codeMask)

/-- Delivery `d` in protected mode finds interrupt or trap gate `g` and handler segment `t`
(`spec/60_exceptions.md` R908 to R910). -/
def FindsGate (d : Delivery) (c : Cpu) (b : Bus) (g t : Desc) (b2 : Bus) : Prop :=
  c.prot = true ∧ d.tableReady c = true ∧ g.isSys [5] = false ∧ g.gateOff.toNat ≤ t.limit.toNat
    ∧ ∃ b1, idtGate d c b = .ok g b1 ∧ handlerCode g c b1 = .ok t b2

/-- Delivery at the current privilege level is possible: `as` are the addresses stored to, `c1` the registers after the
pushes, `b4` is memory after it. -/
def SameLevelGate (d : Delivery) (c : Cpu) (b : Bus) (g t : Desc) (as : List Nat) (c1 : Cpu) (b4 : Bus) : Prop :=
  ∃ b2 b3 as1, FindsGate d c b g t b2 ∧ (t.conforming = true ∨ c.cpl.toNat ≤ t.dpl.toNat)
    ∧ c.hasRoom (g.gateSize.bytes * (3 + codeSlots d)) = true
    ∧ Pushes g.gateSize (d.frame (d.image c)) c b2 as1 c1 b3 ∧ setAccessed t c1 b3 = .ok () b4
    ∧ as = as1 ++ accessedAddrs t c1 b3

/-- The registers after the switch to the stack `st` of an inner level (`spec/42_control_transfer.md` R624). -/
def Cpu.onInnerStack (c : Cpu) (cpl : BitVec 2) (st : W16 × Desc × W32) : Cpu :=
  { (c.setSeg .ss (st.2.1.reg st.1)).putSp (bit st.2.1.dw2 22) st.2.2 with cpl := cpl }

/-- Delivery to an inner privilege level is possible: the stack comes from the TSS, and the old SS and ESP are pushed
first (`spec/60_exceptions.md` R910). -/
def InnerLevelGate (d : Delivery) (c : Cpu) (b : Bus) (g t : Desc) (as : List Nat) (c1 : Cpu) (b6 : Bus) : Prop :=
  ∃ b2 b3 b4 b5 st as1, FindsGate d c b g t b2 ∧ t.conforming = false ∧ t.dpl.toNat < c.cpl.toNat
    ∧ innerStack t.dpl c b2 = .ok st b3
    ∧ roomOn st (g.gateSize.bytes * (5 + codeSlots d)) c b3 = .ok () b3
    ∧ setAccessed st.2.1 c b3 = .ok () b4
    ∧ Pushes g.gateSize ([.sel c.seg.ss.sel, .word c.gpr.esp] ++ d.frame (d.image c)) (c.onInnerStack t.dpl st) b4 as1 c1 b5
    ∧ setAccessed t c1 b5 = .ok () b6
    ∧ as = accessedAddrs st.2.1 c b3 ++ as1 ++ accessedAddrs t c1 b5

/-- Delivery from virtual-8086 mode is possible (`spec/45_v86_and_16bit.md` R840, R844): on the stack of level 0 that the
TSS names the registers of the 8086 program are pushed, then the frame of every delivery. -/
def V86Gate (d : Delivery) (c : Cpu) (b : Bus) (g t : Desc) (as : List Nat) (c1 : Cpu) (b6 : Bus) : Prop :=
  c.v86 = true ∧ d.tableReady c = true ∧ g.isSys [5] = false ∧ g.gateOff.toNat ≤ t.limit.toNat
    ∧ ∃ b1 b2 b3 b4 b5 st as1 c2, idtGate d c b = .ok g b1 ∧ handlerCode g c b1 = .ok t b2
      ∧ innerStack 0#2 c b2 = .ok st b3 ∧ roomOn st (4 * (9 + codeSlots d)) c b3 = .ok () b3
      ∧ setAccessed st.2.1 c b3 = .ok () b4
      ∧ Pushes .w32
        ([.sel c.seg.gs.sel, .sel c.seg.fs.sel, .sel c.seg.ds.sel, .sel c.seg.es.sel, .sel c.seg.ss.sel, .word c.gpr.esp]
          ++ d.frame (v86Image c (d.image c)))
        { c.onInnerStack 0#2 st with fl := { c.fl with vm := false } } b4 as1 c2 b5
      ∧ c1 = { c2 with
          seg.gs := c.seg.gs.nulled 0#16, seg.fs := c.seg.fs.nulled 0#16
          seg.ds := c.seg.ds.nulled 0#16, seg.es := c.seg.es.nulled 0#16 }
      ∧ setAccessed t c1 b5 = .ok () b6
      ∧ as = accessedAddrs st.2.1 c b3 ++ as1 ++ accessedAddrs t c1 b5

/-- Delivery through a task gate is possible and ends in `t` (`spec/60_exceptions.md` R914): the task is switched, and the
error code, if there is one, is pushed on the stack of the new task. -/
def TaskGate (d : Delivery) (c : Cpu) (b : Bus) (g : Desc) (t : State) : Prop :=
  c.pe = true ∧ d.tableReady c = true ∧ g.isSys [5] = true
    ∧ ∃ b1 t1, idtGate d c b = .ok g b1
      ∧ taskSwitch .int g.gateSel (d.image c) d.retEip d.cs ⟨c, b1⟩ = .ok () t1
      ∧ pushCode (if t1.cpu.tr.typ.getLsbD 3 then .w32 else .w16) d t1 = .ok () t

/-- EIP in the code segment: in protected mode with D = 0 its upper 16 bits are 0 (`spec/10_state.md` R32; log 56). -/
def Cpu.ipOf (c : Cpu) (eip : W32) : W32 := if c.prot && !c.seg.cs.db then eip &&& 0xFFFF#32 else eip

/-- EIP in the code segment of a descriptor: with D = 0 its upper 16 bits are 0 (`spec/10_state.md` R32; log 56). -/
def Desc.ipOf (d : Desc) (eip : W32) : W32 := if bit d.dw2 22 then eip else eip &&& 0xFFFF#32

/-- The registers at the first instruction of a handler: CS:EIP come from the gate, with `cpl` as the privilege level;
TF, VM, RF and NT are clear, and IF for an interrupt gate (`spec/60_exceptions.md` R910). -/
def Cpu.inGateHandler (c1 : Cpu) (d : Delivery) (g t : Desc) (cpl : BitVec 2) : Cpu :=
  ({ c1.setCs g.gateSel t cpl with eip := t.ipOf g.gateOff, fl := c1.fl.inHandler g } : Cpu).afterDelivery d

/-- Parameters n-1 to 0 on the stack of the registers `c0` are pushed on the new stack (`spec/42_control_transfer.md` R624
step 7). -/
def CopiesParams (c0 : Cpu) (osz : OpSize) : Nat → Cpu → Bus → List Nat → Cpu → Bus → Prop
  | 0, c, b, as, c1, b1 => as = [] ∧ c1 = c ∧ b1 = b
  | n + 1, c, b, as, c1, b1 => ∃ v b2 c2 b3 as1 as2, readParam c0 osz n c0 b = .ok v b2
    ∧ Pushes osz [.word v] c b2 as1 c2 b3 ∧ CopiesParams c0 osz n c2 b3 as2 c1 b1 ∧ as = as1 ++ as2

/-- A call through gate `g` to code segment `d` of an inner level is possible (`spec/42_control_transfer.md` R624): `as` are
the addresses stored to, `c1` the registers after the pushes, `b6` is memory after it. -/
def InnerCall (g d : Desc) (c : Cpu) (b : Bus) (as : List Nat) (c1 : Cpu) (b6 : Bus) : Prop :=
  let osz := g.gateSize
  ∃ st b1 b2 b3 b4 b5 c2 c3 as1 as2 as3, innerStack d.dpl c b = .ok st b1
    ∧ roomOn st (osz.bytes * (4 + g.gateCount)) c b1 = .ok () b1 ∧ setAccessed st.2.1 c b1 = .ok () b2
    ∧ Pushes osz [.sel c.seg.ss.sel, .word c.gpr.esp] (c.onInnerStack d.dpl st) b2 as1 c2 b3
    ∧ CopiesParams c osz g.gateCount c2 b3 as2 c3 b4
    ∧ Pushes osz [.sel c.seg.cs.sel, .word c.eip] c3 b4 as3 c1 b5 ∧ setAccessed d c1 b5 = .ok () b6
    ∧ as = accessedAddrs st.2.1 c b1 ++ as1 ++ as2 ++ as3 ++ accessedAddrs d c1 b5

/-- A return to the outer level of `cs`, whose descriptor is `d`, is possible and ends in `t` (`spec/42_control_transfer.md`
R628, R640): the stack pointer and SS are k bytes above the top of the stack, `extra` bytes are skipped on the outer
stack. A 16-bit return loads SP alone; with `loose` the upper half of ESP is open on a 32-bit stack (log 11). -/
def OuterReturn (loose : Bool) (osz : OpSize) (cs : W16) (d : Desc) (eip : W32) (k : Nat) (extra : W32) (c : Cpu) (b : Bus)
    (as : List Nat) (t : State) : Prop :=
  let level := selRpl cs
  c.holds k (2 * osz.bytes) = true ∧ eip.toNat ≤ d.limit.toNat
    ∧ ∃ esp ssW sd b1 b2 b3 b4 b5, peekW osz k ⟨c, b⟩ = .ok esp ⟨c, b1⟩
      ∧ peekW osz (k + osz.bytes) ⟨c, b1⟩ = .ok ssW ⟨c, b2⟩
      ∧ stackSegment (ssW.extractLsb' 0 16) level .gp c b2 = .ok sd b3
      ∧ (let c1 : Cpu := { c.setCs cs d level with eip := d.ipOf eip }
        let c2 := (c1.setSeg .ss (sd.reg (ssW.extractLsb' 0 16))).putSp (bit sd.dw2 22 && osz == .w32) (esp + extra)
        let opens := loose && bit sd.dw2 22
        setAccessed d c b3 = .ok () b4 ∧ setAccessed sd c1 b4.jumped = .ok () b5
          ∧ as = accessedAddrs d c b3 ++ accessedAddrs sd c1 b4.jumped
          ∧ t = { cpu := (if opens then c2.setEspHigh (Config.freeWord b5.freeCtr) else c2).nullInner level
                  bus := { b5 with freeCtr := b5.freeCtr + if opens then 1 else 0 } })

/-- The registers `c1` after a switch from registers `c` to the task whose TSS, of descriptor `d`, holds `bytes`
(`spec/43_task_management.md` R683, R700, R702, R708; EIP in a 16-bit code segment: `spec/10_state.md` R32, log 56). -/
def TaskLoaded (kind : TaskKind) (sel : W16) (d : Desc) (bytes : List Byte) (c c1 : Cpu) : Prop :=
  let wide := wideTss d.typ
  let word (off : Nat) : W32 := BitVec.ofNat 32 (tssField bytes off 4)
  let half (off : Nat) : W16 := BitVec.ofNat 16 (tssField bytes off 2)
  let low (v : W32) : W16 := v.extractLsb' 0 16
  let fl : Eflags := .ofBits (if wide then word 36 else (half 16).setWidth 32)
  let cs := half (if wide then 76 else 36)
  c1.tr = { d.reg sel with typ := d.typ ||| 2#4 } ∧ c1.ctl.cr0 = c.ctl.cr0 ||| 8#32
    ∧ c1.dbg = { c.dbg with dr7 := c.dbg.dr7 &&& 0xFFFFFFAA#32 }
    ∧ c1.fl = { fl with nt := fl.nt || kind == .call || kind == .int }
    ∧ (let eip := if wide then word 32 else (half 14).setWidth 32
      c1.eip = if c1.seg.cs.db then eip else eip &&& 0xFFFF#32)
    ∧ c1.cpl = (if fl.vm then 3#2 else selRpl cs) ∧ c1.seg.cs.sel = cs
    ∧ c1.seg.es.sel = half (if wide then 72 else 34) ∧ c1.seg.ss.sel = half (if wide then 80 else 38)
    ∧ c1.seg.ds.sel = half (if wide then 84 else 40) ∧ c1.ldtr.sel = half (if wide then 96 else 42)
    ∧ (wide = true → c1.ctl.cr3 = word 28 ∧ c1.seg.fs.sel = half 88 ∧ c1.seg.gs.sel = half 92
      ∧ c1.gpr = { eax := word 40, ecx := word 44, edx := word 48, ebx := word 52, esp := word 56, ebp := word 60
                   esi := word 64, edi := word 68 })
    ∧ (wide = false → c1.ctl.cr3 = c.ctl.cr3
      ∧ low c1.gpr.eax = half 18 ∧ low c1.gpr.ecx = half 20 ∧ low c1.gpr.edx = half 22 ∧ low c1.gpr.ebx = half 24
      ∧ low c1.gpr.esp = half 26 ∧ low c1.gpr.ebp = half 28 ∧ low c1.gpr.esi = half 30 ∧ low c1.gpr.edi = half 32)

/-- The address of the access-rights byte of the descriptor that a selector names. -/
def Cpu.rightsAt (c : Cpu) (sel : W16) : W32 :=
  (if selTi sel then c.ldtr.base else c.gdtr.base) + BitVec.ofNat 32 (8 * (sel.extractLsb' 3 13).toNat + 5)

/-- The bytes that a task switch stores, in this order (`spec/43_task_management.md` R700, R702): the busy flag of the old
task, if TR has a selector (log 24), its registers, the link to it, the busy flag of the new task, in the byte as it is by
then. -/
def State.switchCells (s : State) (kind : TaskKind) (sel : W16) (new : Desc) (img : Eflags) (eip : W32) (cs : W16) :
    List (Nat × Byte) :=
  let c := s.cpu
  let bytes (a n v : Nat) : List (Nat × Byte) := (leBytes n v).zipIdx.map fun (x, i) => (a + i, x)
  let rights (m : Memory) (sel : W16) (f : Byte → Byte) : List (Nat × Byte) :=
    let a := (c.gdtr.base + BitVec.ofNat 32 (8 * (sel.extractLsb' 3 13).toNat + 5)).toNat
    [(a, f (m.read a))]
  let nests := kind == .call || kind == .int
  let cells := (if nests || selNull c.tr.sel then [] else rights s.bus.mem c.tr.sel (· &&& 0xFD#8))
    ++ (savedFields c { img with nt := img.nt && kind != .iret } eip cs (wideTss c.tr.typ)).flatMap
      (fun (off, n, v) => bytes (c.tr.base.toNat + off) n v)
    ++ (if nests then bytes new.base.toNat 2 c.tr.sel.toNat else [])
  cells ++ if kind = .iret then [] else rights (s.bus.mem.writeBytes cells) sel (· ||| 2#8)

/-- The delivery of an event is possible in the mode of the processor: the registers at the first instruction of its handler
are `c1`; `as` are the addresses stored to, `b1` is memory after it. -/
def Delivers (d : Delivery) (c : Cpu) (b : Bus) (as : List Nat) (c1 : Cpu) (b1 : Bus) : Prop :=
  (∃ c2 entry, RealDelivery d c b as c2 entry b1 ∧ c1 = c2.inRealHandler d entry)
    ∨ ∃ c2 g t level, c1 = c2.inGateHandler d g t level
      ∧ ((SameLevelGate d c b g t as c2 b1 ∧ level = c.cpl) ∨ (InnerLevelGate d c b g t as c2 b1 ∧ level = t.dpl)
        ∨ (V86Gate d c b g t as c2 b1 ∧ level = 0#2))

/-- The highest vector that is set in a register of the APIC. -/
def Highest (r : BitVec 256) (v : Nat) : Prop := r.getLsbD v = true ∧ ∀ k, v < k → r.getLsbD k = false

/-- The software interrupts: INT n, INT 3, and INTO with OF = 1 (`spec/42_control_transfer.md` R634 to R636). -/
def SoftInterrupt (i : Instr) (s : State) (v : Byte) : Prop :=
  i = .intN v ∨ (i = .int3 ∧ v = 3#8) ∨ (i = .into ∧ v = 4#8 ∧ s.cpu.fl.of = true)

/-- The page-directory-pointer entries are loaded if `needs` (`spec/21_paging.md` R226): `c1` and `b1` are registers,
memory and devices after it. -/
def LoadsPdptes (needs : Bool) (cr3 : W32) (c : Cpu) (b : Bus) (c1 : Cpu) (b1 : Bus) : Prop :=
  if needs then
    ∃ w x y z, readPdptes cr3 c b = .ok (w, x, y, z) b1
      ∧ c1 = { c with ctl.pdpte0 := w, ctl.pdpte1 := x, ctl.pdpte2 := y, ctl.pdpte3 := z }
  else c1 = c ∧ b1 = b

/-- A move to or from debug register n is allowed (`spec/65_debug_and_perfmon.md` R1222). -/
def Cpu.drAllowed (c : Cpu) (n : BitVec 3) : Bool :=
  (c.smm.inSmm || !c.unprivileged) && !((n == 4#3 || n == 5#3) && bit c.ctl.cr4 3) && !bit c.dbg.dr7 13

/-! The tables of paging, as the rules number their bits: with CR4.PAE = 0 (`spec/21_paging.md` R205), else with 64-bit
entries (R219). -/

/-- The bytes of an entry. -/
def Cpu.entryBytes (c : Cpu) : Nat := if bit c.ctl.cr4 5 then 8 else 4

/-- The address of the page-directory entry of a linear address. -/
def Cpu.pdeAt (c : Cpu) (la : W32) : Nat :=
  if bit c.ctl.cr4 5 then (Walk.pdpte c la).toNat / 2 ^ 12 % 2 ^ 24 * 2 ^ 12 + 8 * (la.toNat / 2 ^ 21 % 2 ^ 9)
  else c.ctl.cr3.toNat / 2 ^ 12 * 2 ^ 12 + 4 * (la.toNat / 2 ^ 22)

/-- The address of the page-table entry of a linear address whose directory entry is `pde`. -/
def Cpu.pteAt (c : Cpu) (la : W32) (pde : Nat) : Nat :=
  pde / 2 ^ 12 % 2 ^ 24 * 2 ^ 12
    + if bit c.ctl.cr4 5 then 8 * (la.toNat / 2 ^ 12 % 2 ^ 9) else 4 * (la.toNat / 2 ^ 12 % 2 ^ 10)

/-- The directory entry maps a page of 4 MBytes, or of 2 MBytes (R205, R219). -/
def Cpu.largePage (c : Cpu) (pde : Nat) : Bool := pde.testBit 7 && (bit c.ctl.cr4 5 || bit c.ctl.cr4 4)

/-- A reserved bit of a directory entry is set that has a named fault (R215). -/
def Cpu.pdeReserved (c : Cpu) (pde : Nat) : Bool :=
  if bit c.ctl.cr4 5 then pde / 2 ^ 36 != 0 || (pde.testBit 7 && pde / 2 ^ 13 % 2 ^ 8 != 0)
  else c.largePage pde && pde / 2 ^ 17 % 2 ^ 5 != 0

/-- The same of a table entry. -/
def Cpu.pteReserved (c : Cpu) (pte : Nat) : Bool := bit c.ctl.cr4 5 && pte / 2 ^ 36 != 0

/-- The bytes of the page. -/
def Cpu.pageBytes (c : Cpu) (pde : Nat) : Nat :=
  if c.largePage pde then (if bit c.ctl.cr4 5 then 2 ^ 21 else 2 ^ 22) else 2 ^ 12

/-- The physical address of the first byte of the page; bits 35:32 of a 4-MByte page are bits 16:13 of its entry
(R205, R224). -/
def Cpu.frameAt (c : Cpu) (pde pte : Nat) : Nat :=
  if c.largePage pde then
    if bit c.ctl.cr4 5 then pde / 2 ^ 21 % 2 ^ 15 * 2 ^ 21
    else pde / 2 ^ 13 % 2 ^ 4 * 2 ^ 32 + pde / 2 ^ 22 % 2 ^ 10 * 2 ^ 22
  else pte / 2 ^ 12 % 2 ^ 24 * 2 ^ 12

/-- The value of n bytes of the SMM state save map (`spec/63_smm.md` R1121). -/
def State.smmField (s : State) (off n : Nat) : Nat := leNat (s.bus.readBytes (smmAddrs s.cpu off n))

end Sys2Proof.Machine
end

