-- ==== Sys2Proof/WellFormed.lean ====
section
/-!
DEFINITION. Which syntax terms an encoding can stand for (`spec/30_encoding.md` R461, R467, R468, R471).
-/
namespace Sys2Proof

/-- The address forms the ModR/M and SIB bytes can express (R467, R468). -/
def Ea.wf : Ea → Bool
  | .abs16 _ => true
  | .base16 b d => !(b == .bp && d == .none)
  | .abs32 _ => true
  | .base32 r d => !(r == .esp) && !(r == .ebp && d == .none)
  | .sib _ i b d => !(i == some .esp) && !(b == .ebp && d == .none)
  | .sibNoBase _ i _ => !(i == some .esp)

/-- A memory operand is well formed when its address is. -/
def MemOp.wf (m : MemOp) : Bool := m.ea.wf

/-- An `r/m` operand is well formed when its memory form is. -/
def RegMem.wf {ρ : Type} : RegMem ρ → Bool
  | .reg _ => true
  | .mem m => m.wf

/-- LOCK needs a memory destination (R461). -/
def lockWf {ρ : Type} (lock : Bool) : RegMem ρ → Bool
  | .reg _ => !lock
  | .mem _ => true

/-- The instructions that some bytes encode. -/
def Instr.wf : Instr → Bool
  | .sgdt _ m => m.wf
  | .sidt _ m => m.wf
  | .lgdt _ m => m.wf
  | .lidt _ m => m.wf
  | .smsw _ rm => rm.wf
  | .lmsw rm => rm.wf
  | .invlpg m => m.wf
  | .sldt _ rm => rm.wf
  | .str _ rm => rm.wf
  | .lldt rm => rm.wf
  | .ltr rm => rm.wf
  | .verr rm => rm.wf
  | .verw rm => rm.wf
  | .lar _ _ rm => rm.wf
  | .lsl _ _ rm => rm.wf
  | .clts => true
  | .invd => true
  | .wbinvd => true
  | .ud2 => true
  | .movRCr _ _ => true
  | .movRDr _ _ => true
  | .movCrR _ _ => true
  | .movDrR _ _ => true
  | .wrmsr => true
  | .rdtsc => true
  | .rdmsr => true
  | .rdpmc => true
  | .emms => true
  | .jccRel _ _ => true
  | .pushFs _ => true
  | .popFs _ => true
  | .cpuid => true
  | .pushGs _ => true
  | .popGs _ => true
  | .rsm => true
  | .fxsave m => m.wf
  | .fxrstor m => m.wf
  | .ldmxcsr m => m.wf
  | .stmxcsr m => m.wf
  | .sfence => true
  | .lss _ _ m => m.wf
  | .lfs _ _ m => m.wf
  | .lgs _ _ m => m.wf
  | .addRm8R8 lock rm _ => lockWf lock rm && rm.wf
  | .addRmR lock _ rm _ => lockWf lock rm && rm.wf
  | .addR8Rm8 _ rm => rm.wf
  | .addRRm _ _ rm => rm.wf
  | .addAlImm8 _ => true
  | .addEaxImm _ => true
  | .addRm8Imm8 lock rm _ => lockWf lock rm && rm.wf
  | .addRmImm lock rm _ => lockWf lock rm && rm.wf
  | .addRmImm8 lock _ rm _ => lockWf lock rm && rm.wf
  | .pushEs _ => true
  | .popEs _ => true
  | .orRm8R8 lock rm _ => lockWf lock rm && rm.wf
  | .orRmR lock _ rm _ => lockWf lock rm && rm.wf
  | .orR8Rm8 _ rm => rm.wf
  | .orRRm _ _ rm => rm.wf
  | .orAlImm8 _ => true
  | .orEaxImm _ => true
  | .orRm8Imm8 lock rm _ => lockWf lock rm && rm.wf
  | .orRmImm lock rm _ => lockWf lock rm && rm.wf
  | .orRmImm8 lock _ rm _ => lockWf lock rm && rm.wf
  | .pushCs _ => true
  | .pushSs _ => true
  | .popSs _ => true
  | .pushDs _ => true
  | .popDs _ => true
  | .andRm8R8 lock rm _ => lockWf lock rm && rm.wf
  | .andRmR lock _ rm _ => lockWf lock rm && rm.wf
  | .andR8Rm8 _ rm => rm.wf
  | .andRRm _ _ rm => rm.wf
  | .andAlImm8 _ => true
  | .andEaxImm _ => true
  | .andRm8Imm8 lock rm _ => lockWf lock rm && rm.wf
  | .andRmImm lock rm _ => lockWf lock rm && rm.wf
  | .andRmImm8 lock _ rm _ => lockWf lock rm && rm.wf
  | .subRm8R8 lock rm _ => lockWf lock rm && rm.wf
  | .subRmR lock _ rm _ => lockWf lock rm && rm.wf
  | .subR8Rm8 _ rm => rm.wf
  | .subRRm _ _ rm => rm.wf
  | .subAlImm8 _ => true
  | .subEaxImm _ => true
  | .subRm8Imm8 lock rm _ => lockWf lock rm && rm.wf
  | .subRmImm lock rm _ => lockWf lock rm && rm.wf
  | .subRmImm8 lock _ rm _ => lockWf lock rm && rm.wf
  | .xorRm8R8 lock rm _ => lockWf lock rm && rm.wf
  | .xorRmR lock _ rm _ => lockWf lock rm && rm.wf
  | .xorR8Rm8 _ rm => rm.wf
  | .xorRRm _ _ rm => rm.wf
  | .xorAlImm8 _ => true
  | .xorEaxImm _ => true
  | .xorRm8Imm8 lock rm _ => lockWf lock rm && rm.wf
  | .xorRmImm lock rm _ => lockWf lock rm && rm.wf
  | .xorRmImm8 lock _ rm _ => lockWf lock rm && rm.wf
  | .cmpRm8R8 rm _ => rm.wf
  | .cmpRmR _ rm _ => rm.wf
  | .cmpR8Rm8 _ rm => rm.wf
  | .cmpRRm _ _ rm => rm.wf
  | .cmpAlImm8 _ => true
  | .cmpEaxImm _ => true
  | .cmpRm8Imm8 rm _ => rm.wf
  | .cmpRmImm rm _ => rm.wf
  | .cmpRmImm8 _ rm _ => rm.wf
  | .incR _ _ => true
  | .decR _ _ => true
  | .pushR _ _ => true
  | .popR _ _ => true
  | .bound _ _ m => m.wf
  | .arpl rm _ => rm.wf
  | .pushImm _ => true
  | .pushImm8 _ _ => true
  | .jccRel8 _ _ _ => true
  | .testRm8R8 rm _ => rm.wf
  | .testRmR _ rm _ => rm.wf
  | .xchgRm8R8 lock rm _ => lockWf lock rm && rm.wf
  | .xchgRmR lock _ rm _ => lockWf lock rm && rm.wf
  | .movRm8R8 rm _ => rm.wf
  | .movRmR _ rm _ => rm.wf
  | .movR8Rm8 _ rm => rm.wf
  | .movRRm _ _ rm => rm.wf
  | .movRmSreg _ rm _ => rm.wf
  | .lea _ _ m => m.wf
  | .movSregRm _ rm => rm.wf
  | .popRm _ rm => rm.wf
  | .nop => true
  | .xchgEaxR _ r => !(r == .eax)
  | .callFarPtr _ => true
  | .wait => true
  | .pushf _ => true
  | .popf _ => true
  | .testAlImm8 _ => true
  | .testEaxImm _ => true
  | .movR8Imm8 _ _ => true
  | .movRImm _ _ => true
  | .retNearImm _ _ => true
  | .retNear _ => true
  | .les _ _ m => m.wf
  | .lds _ _ m => m.wf
  | .movRm8Imm8 rm _ => rm.wf
  | .movRmImm rm _ => rm.wf
  | .retFarImm _ _ => true
  | .retFar _ => true
  | .int3 => true
  | .intN _ => true
  | .into => true
  | .iret _ => true
  | .fninit => true
  | .inAlImm8 _ => true
  | .inEaxImm8 _ _ => true
  | .outImm8Al _ => true
  | .outImm8Eax _ _ => true
  | .callRel _ => true
  | .jmpRel _ => true
  | .jmpFarPtr _ => true
  | .jmpRel8 _ _ => true
  | .inAlDx => true
  | .inEaxDx _ => true
  | .outDxAl => true
  | .outDxEax _ => true
  | .hlt => true
  | .testRm8Imm8 rm _ => rm.wf
  | .divRm8 rm => rm.wf
  | .idivRm8 rm => rm.wf
  | .testRmImm rm _ => rm.wf
  | .divRm _ rm => rm.wf
  | .idivRm _ rm => rm.wf
  | .cli => true
  | .sti => true
  | .incRm8 lock rm => lockWf lock rm && rm.wf
  | .decRm8 lock rm => lockWf lock rm && rm.wf
  | .incRm lock _ rm => lockWf lock rm && rm.wf
  | .decRm lock _ rm => lockWf lock rm && rm.wf
  | .callRm _ rm => rm.wf
  | .callFarMem _ m => m.wf
  | .jmpRm _ rm => rm.wf
  | .jmpFarMem _ m => m.wf
  | .pushRm _ rm => rm.wf

end Sys2Proof
end

