-- ==== Sys2Proof/Certificates/Slice0/Obligations.lean ====
section
/-!
DEFINITION. The statements for the provers. Each says in its docstring which rule it formalises. In all of them `s` is
any state, `s.past` the state in which the meaning starts, with EIP past the instruction, and a bus named `b1`, `b2`
is memory and devices after an access.
-/
open Sys2Proof Sys2Proof.Machine

/-! Encoding, reset, the step. -/

/-- Decoding the bytes of a well-formed instruction gives the instruction back, with its length, in 16-bit and in 32-bit
code segments (R450 to R471). -/
def Obligations.DecodeEncodeAgree : Prop :=
  ∀ (d : Bool) (i : Instr), i.wf = true → Decode.decode d (encode d i) = .ok i (encode d i).length

/-- A step from a legal state ends, if in a state, in a legal state: reserved bits of CR0, CR4, DR7 and MXCSR, outside SMM
PG without PE, and the canonical form of memory; and a step from outside SMM does not bring NW without CD (R491, R496,
R756). In SMM RSM may load an image of CR0 with an illegal combination, and shuts down (R1115, R1116); that its reserved
bits are fixed then is the model's choice (log 22). The clause on DR7 is the model's choice: R1226 gives the bits as
reading 1 or 0 and does not say what a write does with them (U100; log 30). -/
def Obligations.StepKeepsLegal : Prop :=
  ∀ s t : State, step s = .next t →
    (s.Legal → t.Legal)
    ∧ (s.cpu.smm.inSmm = false → Cr0CachesCoherent s.cpu.ctl.cr0 → Cr0CachesCoherent t.cpu.ctl.cr0)

/-- The reset state is legal (R491, R496, R756, R1305). -/
def Obligations.ResetLegal : Prop := State.reset.Legal

/-- What a hardware reset leaves, by Table 8-1 (R1305, R53, R1120): EFLAGS, EIP, CR0 to CR4, the segment registers,
GDTR and IDTR, EDX, debug registers, x87 words, MXCSR, SMBASE, and the APIC base. -/
def Obligations.ResetValues : Prop :=
  let c := State.reset.cpu
  c.fl.toBits = 0x00000002#32 ∧ c.eip = 0x0000FFF0#32 ∧ c.ctl.cr0 = 0x60000010#32 ∧ c.ctl.cr2 = 0#32
    ∧ c.ctl.cr3 = 0#32 ∧ c.ctl.cr4 = 0#32
    ∧ c.seg.cs.sel = 0xF000#16 ∧ c.seg.cs.base = 0xFFFF0000#32 ∧ c.seg.cs.limit = 0xFFFF#32
    ∧ (∀ sr : Seg, sr ≠ .cs →
        (c.seg.get sr).sel = 0#16 ∧ (c.seg.get sr).base = 0#32 ∧ (c.seg.get sr).limit = 0xFFFF#32)
    ∧ c.gdtr = { base := 0#32, limit := 0xFFFF#16 } ∧ c.idtr = { base := 0#32, limit := 0xFFFF#16 }
    ∧ c.gpr.edx = Config.cpuidSignature ∧ c.gpr.eax = 0#32
    ∧ c.dbg = { dr0 := 0#32, dr1 := 0#32, dr2 := 0#32, dr3 := 0#32, dr6 := 0xFFFF0FF0#32, dr7 := 0x00000400#32 }
    ∧ c.fpu.cw = 0x0040#16 ∧ c.fpu.sw = 0#16 ∧ c.fpu.tw = 0x5555#16 ∧ c.sse.mxcsr = 0x1F80#32
    ∧ c.smm.smbase = 0x30000#32 ∧ c.msr.apicBase = 0xFEE00900#64
    ∧ (c.seg.cs.linear c.eip).toNat = 0xFFFFFFF0

/-- A step at whose boundary nothing else happens runs the instruction at CS:EIP: when the bytes there decode to `i`, of
`len` bytes, the step is `exec i` in the state with the next instruction's offset noted, followed by the end of an
instruction and the time it takes (R906, R610). With which PG the bytes are fetched right after a change of PG is open
(R497; log 52). -/
def Obligations.StepRunsDecodedInstruction : Prop :=
  ∀ (s t : State) (i : Instr) (len : Nat) (b1 b2 : Bus),
    look s = .ok .instruction t →
    let c := { t.cpu with notes.ioEip := none }
    checkBreakpoints c t.bus = .ok () b1 → c.virtualPending = false → fetchNext c b1 = .ok (i, len) b2 →
    step s = mapNext (fun u => pass (finish t.cpu u))
      (exec i { cpu := { c with nextEip := c.eip + BitVec.ofNat 32 len }, bus := b2 })

/-- Fetching reads the bytes at CS:EIP: where accesses are direct, memory being read-write everywhere (log 2), nothing
stale is left of older stores (log 13), PG has not just changed (log 52) and the code lies in the segment and outside the
APIC page, bytes in memory that decode to an instruction of their number are fetched as that instruction; where EIP is beyond
the limit, #GP(0) is raised (R450, R262). In a 16-bit code segment of protected mode the code has to lie below 10000H too, and
an EIP above FFFFH raises #GP(0) whatever the limit: the model's choice, drawn from R32 and R459 (log 56). -/
def Obligations.FetchReadsCode : Prop :=
  (∀ (c : Cpu) (b : Bus) (i : Instr) (bs : List Byte),
    c.direct b = true → b.stale = [] → b.oldPg = false → bs ≠ [] → bs.length ≤ 15 →
    Decode.decode c.d bs = .ok i bs.length →
    c.eip.toNat + bs.length ≤ c.seg.cs.limit.toNat + 1 →
    (c.prot = true → c.seg.cs.db = false → c.eip.toNat + bs.length ≤ 0x10000) →
    (∀ k, k < bs.length →
      let a := (c.seg.cs.linear (c.eip + BitVec.ofNat 32 k)).toNat
      ¬(Apic.enabled c = true ∧ a / 4096 = Apic.page c) ∧ b.mem.read a = bs.getD k 0#8) →
    fetchNext c b = .ok (i, bs.length) b)
  ∧ ∀ (c : Cpu) (b : Bus), b.oldPg = false →
    c.seg.cs.limit.toNat < c.eip.toNat ∨ (c.prot = true ∧ c.seg.cs.db = false ∧ 0xFFFF < c.eip.toNat) →
    fetchNext c b = .error (.exc (.gp 0#32)) b

/-- Words written out from the encodings of the rules decode to the instructions they stand for, with the operand size of
a 16-bit segment: `ADD BX, AX`, `MOV AX, 1234H`, `MOV EAX, CR0`, `INT 21H`, `PUSH DS`, `LGDT [EBX]`, `JZ +2`,
`WRMSR`, `FNINIT`, `IN AL, 60H` (R470, R585, R583, R492, R634, R564, R482, R597, R521, R773, R600). -/
def Obligations.DecodesSampleWords : Prop :=
  decodeTableWord 16 0xC301 = some (.addRmR false .w16 (.reg .ebx) .eax)
    ∧ decodeTableWord 24 0x1234B8 = some (.movRImm .eax (.i16 0x1234#16))
    ∧ decodeTableWord 24 0xC0200F = some (.movRCr 0#3 .eax)
    ∧ decodeTableWord 16 0x21CD = some (.intN 0x21#8)
    ∧ decodeTableWord 8 0x1E = some (.pushDs .w16)
    ∧ decodeTableWord 32 0x13010F67 = some (.lgdt .w16 ⟨none, .base32 .ebx .none⟩)
    ∧ decodeTableWord 16 0x0274 = some (.jccRel8 .w16 .e 2#8)
    ∧ decodeTableWord 16 0x300F = some .wrmsr
    ∧ decodeTableWord 16 0xE3DB = some .fninit
    ∧ decodeTableWord 16 0x60E4 = some (.inAlImm8 0x60#8)

/-! Arithmetic and logic. -/

/-- ADD, OR, AND, SUB, XOR and CMP with a register as destination, of 8, 16 or 32 bits, complete, with the result in the
register (CMP writes none; the other bits of a register stay) and the flags of the operation; nothing else changes
(R585 to R590). -/
def Obligations.AluWritesRegister : Prop :=
  (∀ (op : Alu) (s : State) (lock : Bool) (d r : Gpr8) (imm : Byte),
    let g (d : Gpr8) (y : Byte) : Gprs :=
      if op = .cmp then s.cpu.gpr else s.cpu.gpr.set8 d (op.result (s.cpu.gpr.get8 d) y)
    (∃ t, exec (op.rm8R8 lock (.reg d) r) s = .next t
      ∧ op.Leaves s t (g d (s.cpu.gpr.get8 r)) s.bus (s.cpu.gpr.get8 d) (s.cpu.gpr.get8 r))
    ∧ (∃ t, exec (op.rm8Imm8 lock (.reg d) imm) s = .next t ∧ op.Leaves s t (g d imm) s.bus (s.cpu.gpr.get8 d) imm)
    ∧ (∃ t, exec (op.alImm8 imm) s = .next t ∧ op.Leaves s t (g .al imm) s.bus (s.cpu.gpr.get8 .al) imm))
  ∧ (∀ (op : Alu) (s : State) (lock : Bool) (osz : OpSize) (d r : Gpr) (imm8 : Byte) (imm : ImmV),
    let g (osz : OpSize) (d : Gpr) (y : BitVec osz.bits) : Gprs :=
      if op = .cmp then s.cpu.gpr else s.cpu.gpr.setV osz d (op.result (s.cpu.gpr.getV osz d) y)
    (∃ t, exec (op.rmR lock osz (.reg d) r) s = .next t
      ∧ op.Leaves s t (g osz d (s.cpu.gpr.getV osz r)) s.bus (s.cpu.gpr.getV osz d) (s.cpu.gpr.getV osz r))
    ∧ (∃ t, exec (op.rmImm lock (.reg d) imm) s = .next t
      ∧ op.Leaves s t (g imm.size d imm.val) s.bus (s.cpu.gpr.getV imm.size d) imm.val)
    ∧ (∃ t, exec (op.rmImm8 lock osz (.reg d) imm8) s = .next t
      ∧ op.Leaves s t (g osz d (imm8.signExtend osz.bits)) s.bus (s.cpu.gpr.getV osz d) (imm8.signExtend osz.bits))
    ∧ (∃ t, exec (op.eaxImm imm) s = .next t
      ∧ op.Leaves s t (g imm.size .eax imm.val) s.bus (s.cpu.gpr.getV imm.size .eax) imm.val))

/-- ADD, OR, AND, SUB, XOR and CMP of a register with an `r/m` source, register or memory, and CMP of an `r/m` operand
with a register or an immediate, complete where the operand can be read: the result goes to the register (CMP writes
none), the flags are those of the operation, nothing is stored. TEST completes where its operand can be read, with the
flags of AND, and writes nothing (R585 to R591). -/
def Obligations.AluAndTestReadOperand : Prop :=
  (∀ (op : Alu) (s : State) (r : Gpr8) (rm : Rm8) (y : Byte) (b1 : Bus),
    readRm8 rm s.past = .ok y { s.past with bus := b1 } →
    (∃ t, exec (op.r8Rm8 r rm) s = .next t
      ∧ op.Leaves s t (if op = .cmp then s.cpu.gpr else s.cpu.gpr.set8 r (op.result (s.cpu.gpr.get8 r) y)) b1
          (s.cpu.gpr.get8 r) y)
    ∧ Stored s.cpu [] s.bus b1)
  ∧ (∀ (op : Alu) (s : State) (osz : OpSize) (r : Gpr) (rm : Rm) (y : BitVec osz.bits) (b1 : Bus),
    readRm osz rm s.past = .ok y { s.past with bus := b1 } →
    (∃ t, exec (op.rRm osz r rm) s = .next t
      ∧ op.Leaves s t (if op = .cmp then s.cpu.gpr else s.cpu.gpr.setV osz r (op.result (s.cpu.gpr.getV osz r) y)) b1
          (s.cpu.gpr.getV osz r) y)
    ∧ Stored s.cpu [] s.bus b1)
  ∧ (∀ (s : State) (rm : Rm8) (r : Gpr8) (imm x : Byte) (b1 : Bus),
    readRm8 rm s.past = .ok x { s.past with bus := b1 } →
    (∃ t, exec (.cmpRm8R8 rm r) s = .next t ∧ Alu.cmp.Leaves s t s.cpu.gpr b1 x (s.cpu.gpr.get8 r))
    ∧ (∃ t, exec (.cmpRm8Imm8 rm imm) s = .next t ∧ Alu.cmp.Leaves s t s.cpu.gpr b1 x imm)
    ∧ Stored s.cpu [] s.bus b1)
  ∧ (∀ (s : State) (osz : OpSize) (rm : Rm) (r : Gpr) (imm8 : Byte) (x : BitVec osz.bits) (b1 : Bus),
    readRm osz rm s.past = .ok x { s.past with bus := b1 } →
    (∃ t, exec (.cmpRmR osz rm r) s = .next t ∧ Alu.cmp.Leaves s t s.cpu.gpr b1 x (s.cpu.gpr.getV osz r))
    ∧ (∃ t, exec (.cmpRmImm8 osz rm imm8) s = .next t
      ∧ Alu.cmp.Leaves s t s.cpu.gpr b1 x (imm8.signExtend osz.bits))
    ∧ Stored s.cpu [] s.bus b1)
  ∧ (∀ (s : State) (rm : Rm) (imm : ImmV) (x : BitVec imm.size.bits) (b1 : Bus),
    readRm imm.size rm s.past = .ok x { s.past with bus := b1 } →
    (∃ t, exec (.cmpRmImm rm imm) s = .next t ∧ Alu.cmp.Leaves s t s.cpu.gpr b1 x imm.val)
    ∧ Stored s.cpu [] s.bus b1)
  ∧ (∀ (s : State),
      (∀ (rm : Rm8) (r : Gpr8) (imm x : Byte) (b1 : Bus), readRm8 rm s.past = .ok x { s.past with bus := b1 } →
        (∃ t, exec (.testRm8R8 rm r) s = .next t ∧ Alu.and.Leaves s t s.cpu.gpr b1 x (s.cpu.gpr.get8 r))
          ∧ (∃ t, exec (.testRm8Imm8 rm imm) s = .next t ∧ Alu.and.Leaves s t s.cpu.gpr b1 x imm)
          ∧ Stored s.cpu [] s.bus b1)
      ∧ (∀ (osz : OpSize) (rm : Rm) (r : Gpr) (x : BitVec osz.bits) (b1 : Bus),
        readRm osz rm s.past = .ok x { s.past with bus := b1 } →
        (∃ t, exec (.testRmR osz rm r) s = .next t ∧ Alu.and.Leaves s t s.cpu.gpr b1 x (s.cpu.gpr.getV osz r))
          ∧ Stored s.cpu [] s.bus b1)
      ∧ (∀ (rm : Rm) (imm : ImmV) (x : BitVec imm.size.bits) (b1 : Bus),
        readRm imm.size rm s.past = .ok x { s.past with bus := b1 } →
        (∃ t, exec (.testRmImm rm imm) s = .next t ∧ Alu.and.Leaves s t s.cpu.gpr b1 x imm.val)
          ∧ Stored s.cpu [] s.bus b1)
      ∧ (∀ imm : Byte, ∃ t, exec (.testAlImm8 imm) s = .next t
          ∧ Alu.and.Leaves s t s.cpu.gpr s.bus (s.cpu.gpr.get8 .al) imm)
      ∧ (∀ imm : ImmV, ∃ t, exec (.testEaxImm imm) s = .next t
          ∧ Alu.and.Leaves s t s.cpu.gpr s.bus (s.cpu.gpr.getV imm.size .eax) imm.val))

/-- ADD, OR, AND, SUB and XOR with a memory destination complete where the location can be read and written, with LOCK in one
indivisible operation (R341): the result is stored at the place it was read from, the flags are those of the operation, no
register but EIP and no other byte of memory changes (R581, R585 to R590). -/
def Obligations.AluWritesMemory : Prop :=
  ∀ (op : Alu) (s : State) (lock : Bool) (m : MemOp) (p : Phys) (b2 : Bus), op ≠ .cmp →
    (∀ (r : Gpr8) (imm x y : Byte) (i : Instr),
      (i = op.rm8R8 lock (.mem m) r ∧ y = s.cpu.gpr.get8 r) ∨ (i = op.rm8Imm8 lock (.mem m) imm ∧ y = imm) →
      Modifies lock s.past.cpu s.bus m.segment (m.off s.cpu) x (op.result x y) op.frees p b2 →
      ∃ t, exec i s = .next t ∧ op.Leaves s t s.cpu.gpr b2 x y ∧ t.bus = b2 ∧ Stored s.cpu p.addrs s.bus t.bus)
    ∧ (∀ (osz : OpSize) (r : Gpr) (imm8 : Byte) (x y : BitVec osz.bits) (i : Instr),
      (i = op.rmR lock osz (.mem m) r ∧ y = s.cpu.gpr.getV osz r)
        ∨ (i = op.rmImm8 lock osz (.mem m) imm8 ∧ y = imm8.signExtend osz.bits) →
      Modifies lock s.past.cpu s.bus m.segment (m.off s.cpu) x (op.result x y) op.frees p b2 →
      ∃ t, exec i s = .next t ∧ op.Leaves s t s.cpu.gpr b2 x y ∧ t.bus = b2 ∧ Stored s.cpu p.addrs s.bus t.bus)
    ∧ (∀ (imm : ImmV) (x : BitVec imm.size.bits),
      Modifies lock s.past.cpu s.bus m.segment (m.off s.cpu) x (op.result x imm.val) op.frees p b2 →
      ∃ t, exec (op.rmImm lock (.mem m) imm) s = .next t ∧ op.Leaves s t s.cpu.gpr b2 x imm.val ∧ t.bus = b2
        ∧ Stored s.cpu p.addrs s.bus t.bus)

/-- What the flags of an addition and a subtraction say of the numbers (R581): CF is the carry out or the borrow, OF says
that the exact signed result does not fit, ZF and SF are zero and the sign, AF is the carry or borrow of the low four
bits, PF is even parity of the low byte. Of CMP the same flags; INC and DEC are those of 1, but keep CF. -/
def Obligations.AddSubFlagsFollowResult : Prop :=
  ∀ (w : Nat) (f : Eflags) (x y : BitVec w), 8 ≤ w →
    let a := Alu.add.flags f x y false
    let d := Alu.sub.flags f x y false
    (a.cf = true ↔ x.toNat + y.toNat ≥ 2 ^ w) ∧ (d.cf = true ↔ x.toNat < y.toNat)
      ∧ (a.of = true ↔ (x + y).toInt ≠ x.toInt + y.toInt) ∧ (d.of = true ↔ (x - y).toInt ≠ x.toInt - y.toInt)
      ∧ (a.af = true ↔ x.toNat % 16 + y.toNat % 16 ≥ 16) ∧ (d.af = true ↔ x.toNat % 16 < y.toNat % 16)
      ∧ (a.zf = true ↔ x + y = 0#w) ∧ (d.zf = true ↔ x = y)
      ∧ (a.sf = true ↔ (x + y).toInt < 0) ∧ (d.sf = true ↔ (x - y).toInt < 0)
      ∧ (a.pf = true ↔ ((List.range 8).filter fun k => (x + y).getLsbD k).length % 2 = 0)
      ∧ (d.pf = true ↔ ((List.range 8).filter fun k => (x - y).getLsbD k).length % 2 = 0)
      ∧ Alu.cmp.flags f x y false = d
      ∧ f.inc x = { Alu.add.flags f x 1#w false with cf := f.cf }
      ∧ f.dec x = { Alu.sub.flags f x 1#w false with cf := f.cf }

/-- INC and DEC complete: in a register, or in memory that can be read and written (with LOCK in one indivisible operation,
R341), the value is one more or one less, the flags but CF follow, nothing else changes (R592, R593). -/
def Obligations.IncDecStepByOneKeepCarry : Prop :=
  ∀ (s : State) (lock : Bool),
    (∀ (osz : OpSize) (r : Gpr),
      let x := s.cpu.gpr.getV osz r
      let up := { s.past with cpu := { s.past.cpu with gpr := s.cpu.gpr.setV osz r (x + 1#osz.bits), fl := s.cpu.fl.inc x } }
      let down :=
        { s.past with cpu := { s.past.cpu with gpr := s.cpu.gpr.setV osz r (x - 1#osz.bits), fl := s.cpu.fl.dec x } }
      exec (.incR osz r) s = .next up ∧ exec (.incRm lock osz (.reg r)) s = .next up
        ∧ exec (.decR osz r) s = .next down ∧ exec (.decRm lock osz (.reg r)) s = .next down)
    ∧ (∀ r : Gpr8,
      let x := s.cpu.gpr.get8 r
      exec (.incRm8 lock (.reg r)) s = .next
          { s.past with cpu := { s.past.cpu with gpr := s.cpu.gpr.set8 r (x + 1#8), fl := s.cpu.fl.inc x } }
        ∧ exec (.decRm8 lock (.reg r)) s = .next
          { s.past with cpu := { s.past.cpu with gpr := s.cpu.gpr.set8 r (x - 1#8), fl := s.cpu.fl.dec x } })
    ∧ (∀ (osz : OpSize) (m : MemOp) (x : BitVec osz.bits) (p : Phys) (b2 : Bus),
      (Modifies lock s.past.cpu s.bus m.segment (m.off s.cpu) x (x + 1#osz.bits) 0 p b2 →
        exec (.incRm lock osz (.mem m)) s = .next { cpu := { s.past.cpu with fl := s.cpu.fl.inc x }, bus := b2 }
          ∧ Stored s.cpu p.addrs s.bus b2)
      ∧ (Modifies lock s.past.cpu s.bus m.segment (m.off s.cpu) x (x - 1#osz.bits) 0 p b2 →
        exec (.decRm lock osz (.mem m)) s = .next { cpu := { s.past.cpu with fl := s.cpu.fl.dec x }, bus := b2 }
          ∧ Stored s.cpu p.addrs s.bus b2))
    ∧ (∀ (m : MemOp) (x : Byte) (p : Phys) (b2 : Bus),
      (Modifies lock s.past.cpu s.bus m.segment (m.off s.cpu) x (x + 1#8) 0 p b2 →
        exec (.incRm8 lock (.mem m)) s = .next { cpu := { s.past.cpu with fl := s.cpu.fl.inc x }, bus := b2 }
          ∧ Stored s.cpu p.addrs s.bus b2)
      ∧ (Modifies lock s.past.cpu s.bus m.segment (m.off s.cpu) x (x - 1#8) 0 p b2 →
        exec (.decRm8 lock (.mem m)) s = .next { cpu := { s.past.cpu with fl := s.cpu.fl.dec x }, bus := b2 }
          ∧ Stored s.cpu p.addrs s.bus b2))

/-- DIV and IDIV, where the divisor can be read: if it is not 0 and the quotient fits, they complete with quotient and
remainder, truncated toward zero, in AL and AH or in eAX and eDX, and no other general register changes; if it is 0 or
the quotient does not fit, they raise #DE (R599, R602, R960). The six status flags after a division are undefined: the
model makes them a free value, where R599 and R602 let a model leave them unchanged (log 9). -/
def Obligations.DivideWritesQuotientOrRaisesDivideError : Prop :=
  ∀ (s : State),
    (∀ (rm : Rm8) (y : Byte) (b1 : Bus), readRm8 rm s.past = .ok y { s.past with bus := b1 } →
      let x := s.cpu.gpr.getV .w16 .eax
      let g (q r : Byte) := (s.cpu.gpr.set8 .al q).set8 .ah r
      let fits : Prop := y ≠ 0#8 ∧ x.toNat / y.toNat < 2 ^ 8
      let fitsSigned : Prop := y ≠ 0#8 ∧ -(2 ^ 7) ≤ x.toInt.tdiv y.toInt ∧ x.toInt.tdiv y.toInt < 2 ^ 7
      (fits →
        Divided s (g (BitVec.ofNat 8 (x.toNat / y.toNat)) (BitVec.ofNat 8 (x.toNat % y.toNat))) b1 (exec (.divRm8 rm) s))
      ∧ (¬fits → exec (.divRm8 rm) s = s.raises .de b1)
      ∧ (fitsSigned →
        Divided s (g (BitVec.ofInt 8 (x.toInt.tdiv y.toInt)) (BitVec.ofInt 8 (x.toInt.tmod y.toInt))) b1
          (exec (.idivRm8 rm) s))
      ∧ (¬fitsSigned → exec (.idivRm8 rm) s = s.raises .de b1)
      ∧ Stored s.cpu [] s.bus b1)
    ∧ (∀ (osz : OpSize) (rm : Rm) (y : BitVec osz.bits) (b1 : Bus),
      readRm osz rm s.past = .ok y { s.past with bus := b1 } →
      let x := s.cpu.gpr.getV osz .edx ++ s.cpu.gpr.getV osz .eax
      let g (q r : BitVec osz.bits) := (s.cpu.gpr.setV osz .eax q).setV osz .edx r
      let fits : Prop := y ≠ 0#osz.bits ∧ x.toNat / y.toNat < 2 ^ osz.bits
      let fitsSigned : Prop :=
        y ≠ 0#osz.bits ∧ -(2 ^ (osz.bits - 1) : Int) ≤ x.toInt.tdiv y.toInt
          ∧ x.toInt.tdiv y.toInt < 2 ^ (osz.bits - 1)
      (fits →
        Divided s (g (BitVec.ofNat _ (x.toNat / y.toNat)) (BitVec.ofNat _ (x.toNat % y.toNat))) b1
          (exec (.divRm osz rm) s))
      ∧ (¬fits → exec (.divRm osz rm) s = s.raises .de b1)
      ∧ (fitsSigned →
        Divided s (g (BitVec.ofInt _ (x.toInt.tdiv y.toInt)) (BitVec.ofInt _ (x.toInt.tmod y.toInt))) b1
          (exec (.idivRm osz rm) s))
      ∧ (¬fitsSigned → exec (.idivRm osz rm) s = s.raises .de b1)
      ∧ Stored s.cpu [] s.bus b1)

/-! Data movement. -/

/-- MOV completes: to a register from a register or an immediate always, from memory where it can be read, the other bits
of the register staying; to memory where the location can be written, storing the bytes of the source there. All else
stays (R581, R582, R583). -/
def Obligations.MovCopiesOperand : Prop :=
  (∀ (s : State) (d : Gpr) (d8 : Gpr8),
    let r8 (v : Byte) (b : Bus) : State := { cpu := { s.past.cpu with gpr := s.cpu.gpr.set8 d8 v }, bus := b }
    let r (osz : OpSize) (v : BitVec osz.bits) (b : Bus) : State :=
      { cpu := { s.past.cpu with gpr := s.cpu.gpr.setV osz d v }, bus := b }
    (∀ (x : Gpr8) (imm : Byte),
      exec (.movRm8R8 (.reg d8) x) s = .next (r8 (s.cpu.gpr.get8 x) s.bus)
        ∧ exec (.movR8Imm8 d8 imm) s = .next (r8 imm s.bus)
        ∧ exec (.movRm8Imm8 (.reg d8) imm) s = .next (r8 imm s.bus))
    ∧ (∀ (osz : OpSize) (x : Gpr), exec (.movRmR osz (.reg d) x) s = .next (r osz (s.cpu.gpr.getV osz x) s.bus))
    ∧ (∀ imm : ImmV,
      exec (.movRImm d imm) s = .next (r imm.size imm.val s.bus)
        ∧ exec (.movRmImm (.reg d) imm) s = .next (r imm.size imm.val s.bus))
    ∧ (∀ (rm : Rm8) (v : Byte) (b1 : Bus), readRm8 rm s.past = .ok v { s.past with bus := b1 } →
      exec (.movR8Rm8 d8 rm) s = .next (r8 v b1) ∧ Stored s.cpu [] s.bus b1)
    ∧ (∀ (osz : OpSize) (rm : Rm) (v : BitVec osz.bits) (b1 : Bus),
      readRm osz rm s.past = .ok v { s.past with bus := b1 } →
      exec (.movRRm osz d rm) s = .next (r osz v b1) ∧ Stored s.cpu [] s.bus b1))
  ∧ (∀ (s : State) (m : MemOp) (p : Phys) (b2 : Bus),
    let writes (n v : Nat) : Prop := Writes s.past.cpu s.bus m.segment (m.off s.cpu) n v p b2
    let t : State := { s.past with bus := b2 }
    (∀ (x : Gpr8), writes 1 (s.cpu.gpr.get8 x).toNat →
      exec (.movRm8R8 (.mem m) x) s = .next t ∧ Stored s.cpu p.addrs s.bus b2)
    ∧ (∀ (imm : Byte), writes 1 imm.toNat →
      exec (.movRm8Imm8 (.mem m) imm) s = .next t ∧ Stored s.cpu p.addrs s.bus b2)
    ∧ (∀ (osz : OpSize) (x : Gpr), writes osz.bytes (s.cpu.gpr.getV osz x).toNat →
      exec (.movRmR osz (.mem m) x) s = .next t ∧ Stored s.cpu p.addrs s.bus b2)
    ∧ (∀ (imm : ImmV), writes imm.size.bytes imm.val.toNat →
      exec (.movRmImm (.mem m) imm) s = .next t ∧ Stored s.cpu p.addrs s.bus b2))

/-- NOP, encoded `90`, of one byte: the next instruction is next, nothing else changes (R596). -/
def Obligations.NopOnlyAdvances : Prop :=
  (∀ d : Bool, Decode.decode d [0x90#8] = .ok .nop 1) ∧ ∀ s : State, exec .nop s = .next s.past

/-- LEA writes the effective address, cut to the operand size, and reads no memory; SFENCE changes nothing that one
processor sees (R584, R350 item 3; log 28). -/
def Obligations.LeaWritesAddressSfenceOnlyAdvances : Prop :=
  ∀ (s : State) (osz : OpSize) (r : Gpr) (m : MemOp),
    exec (.lea osz r m) s = .next
        { s.past with
          cpu := { s.past.cpu with gpr := s.cpu.gpr.setV osz r ((m.ea.value s.cpu.gpr).setWidth osz.bits) } }
      ∧ exec .sfence s = .next s.past

/-- XCHG completes between registers, and with memory that can be read and written in one locked operation, whether it has the
LOCK prefix or not (R342): the two operands change places, nothing else changes (R598). -/
def Obligations.XchgSwapsOperands : Prop :=
  ∀ (s : State) (lock : Bool),
    (∀ (x y : Gpr8), exec (.xchgRm8R8 lock (.reg x) y) s = .next
      { s.past with
        cpu := { s.past.cpu with gpr := (s.cpu.gpr.set8 y (s.cpu.gpr.get8 x)).set8 x (s.cpu.gpr.get8 y) } })
    ∧ (∀ (osz : OpSize) (x y : Gpr),
      let t (x y : Gpr) : State :=
        { s.past with
          cpu := { s.past.cpu with
            gpr := (s.cpu.gpr.setV osz y (s.cpu.gpr.getV osz x)).setV osz x (s.cpu.gpr.getV osz y) } }
      exec (.xchgRmR lock osz (.reg x) y) s = .next (t x y) ∧ exec (.xchgEaxR osz y) s = .next (t .eax y))
    ∧ (∀ (m : MemOp) (p : Phys) (b2 : Bus),
      (∀ (r : Gpr8) (x : Byte), Modifies true s.past.cpu s.bus m.segment (m.off s.cpu) x (s.cpu.gpr.get8 r) 0 p b2 →
        exec (.xchgRm8R8 lock (.mem m) r) s
            = .next { cpu := { s.past.cpu with gpr := s.cpu.gpr.set8 r x }, bus := b2 }
          ∧ Stored s.cpu p.addrs s.bus b2)
      ∧ (∀ (osz : OpSize) (r : Gpr) (x : BitVec osz.bits),
        Modifies true s.past.cpu s.bus m.segment (m.off s.cpu) x (s.cpu.gpr.getV osz r) 0 p b2 →
        exec (.xchgRmR lock osz (.mem m) r) s
            = .next { cpu := { s.past.cpu with gpr := s.cpu.gpr.setV osz r x }, bus := b2 }
          ∧ Stored s.cpu p.addrs s.bus b2))

/-- PUSH completes where the slot below the stack pointer can be written: the value (of ESP, the value before) is stored
there and ESP, or SP, is lower by the operand size; a segment register gives its selector in the low 16 bits of the slot,
whose upper half is open (log 11). POP completes where the top of the stack can be read: ESP, or SP, is higher by the
operand size, then the value goes to the register, or to memory whose address is computed after that. Nothing else
changes (R564, R594, R595). -/
def Obligations.PushAndPopUseStackTop : Prop :=
  (∀ (s : State) (as : List Nat) (c1 : Cpu),
    (∀ (osz : OpSize) (r : Gpr) (imm : Byte) (b1 : Bus),
      (Pushes osz [.word ((s.cpu.gpr.getV osz r).setWidth 32)] s.past.cpu s.bus as c1 b1 →
        exec (.pushR osz r) s = .next ⟨c1, b1⟩ ∧ exec (.pushRm osz (.reg r)) s = .next ⟨c1, b1⟩
          ∧ c1 = s.past.cpu.setEsp (s.cpu.below osz.bytes) ∧ Stored s.cpu as s.bus b1)
      ∧ (Pushes osz [.word ((imm.signExtend osz.bits).setWidth 32)] s.past.cpu s.bus as c1 b1 →
        exec (.pushImm8 osz imm) s = .next ⟨c1, b1⟩ ∧ c1 = s.past.cpu.setEsp (s.cpu.below osz.bytes)
          ∧ Stored s.cpu as s.bus b1))
    ∧ (∀ (imm : ImmV) (b1 : Bus), Pushes imm.size [.word (imm.val.setWidth 32)] s.past.cpu s.bus as c1 b1 →
      exec (.pushImm imm) s = .next ⟨c1, b1⟩ ∧ c1 = s.past.cpu.setEsp (s.cpu.below imm.size.bytes)
        ∧ Stored s.cpu as s.bus b1)
    ∧ (∀ (osz : OpSize) (m : MemOp) (v : BitVec osz.bits) (b1 b2 : Bus),
      readRm osz (.mem m) s.past = .ok v { s.past with bus := b1 } →
      Pushes osz [.word (v.setWidth 32)] s.past.cpu b1 as c1 b2 →
      exec (.pushRm osz (.mem m)) s = .next ⟨c1, b2⟩ ∧ c1 = s.past.cpu.setEsp (s.cpu.below osz.bytes)
        ∧ Stored s.cpu as s.bus b2))
  ∧ (∀ (s : State) (osz : OpSize) (sr : Seg) (i : Instr) (as : List Nat) (c1 : Cpu) (b1 : Bus),
    (sr = .es ∧ i = .pushEs osz) ∨ (sr = .cs ∧ i = .pushCs osz) ∨ (sr = .ss ∧ i = .pushSs osz)
      ∨ (sr = .ds ∧ i = .pushDs osz) ∨ (sr = .fs ∧ i = .pushFs osz) ∨ (sr = .gs ∧ i = .pushGs osz) →
    Pushes osz [.sel (s.cpu.seg.get sr).sel] s.past.cpu s.bus as c1 b1 →
    exec i s = .next ⟨c1, b1⟩ ∧ c1 = s.past.cpu.setEsp (s.cpu.below osz.bytes) ∧ Stored s.cpu as s.bus b1)
  ∧ (∀ (s : State) (osz : OpSize) (v : BitVec osz.bits) (b1 : Bus),
      memRead osz.bits .ss (s.cpu.stackOff s.cpu.gpr.esp) osz.bytes s.past.cpu s.bus = .ok v b1 →
      let c1 := s.past.cpu.setEsp (s.cpu.stackMove (BitVec.ofNat 32 osz.bytes))
      (∀ r : Gpr,
        let t : State := { cpu := { c1 with gpr := c1.gpr.setV osz r v }, bus := b1 }
        exec (.popR osz r) s = .next t ∧ exec (.popRm osz (.reg r)) s = .next t ∧ Stored s.cpu [] s.bus b1)
      ∧ (∀ (m : MemOp) (p : Phys) (b2 : Bus), Writes c1 b1 m.segment (m.off c1) osz.bytes v.toNat p b2 →
        exec (.popRm osz (.mem m)) s = .next { cpu := c1, bus := b2 } ∧ Stored s.cpu p.addrs s.bus b2))

/-! Control transfer. -/

/-- Jcc and JMP near and short go to their target, cut to the operand size, where it lies in the code segment; Jcc whose
condition does not hold goes on; a target outside the code segment raises #GP(0). JMP through memory goes to the offset
read. In a 16-bit code segment of protected mode EIP is the low 16 bits of the target (R32); that the whole target is tested
against the limit before is the model's choice (log 56). Nothing else changes but that later fetches see earlier stores
(R597, R610, R614). -/
def Obligations.NearJumpsGoToTarget : Prop :=
  (∀ (s : State) (i : Instr) (osz : OpSize) (target : W32) (taken : Bool),
    (∃ (cc : Cond) (rel : ImmV), i = .jccRel cc rel ∧ osz = rel.size ∧ taken = cc.holds s.cpu.fl
        ∧ target = truncEip osz (s.cpu.nextEip + rel.val.signExtend 32))
      ∨ (∃ (cc : Cond) (rel : Byte), i = .jccRel8 osz cc rel ∧ taken = cc.holds s.cpu.fl
        ∧ target = truncEip osz (s.cpu.nextEip + rel.signExtend 32))
      ∨ (∃ rel : ImmV, i = .jmpRel rel ∧ osz = rel.size ∧ taken = true
        ∧ target = truncEip osz (s.cpu.nextEip + rel.val.signExtend 32))
      ∨ (∃ rel : Byte, i = .jmpRel8 osz rel ∧ taken = true
        ∧ target = truncEip osz (s.cpu.nextEip + rel.signExtend 32))
      ∨ (∃ r : Gpr, i = .jmpRm osz (.reg r) ∧ taken = true ∧ target = (s.cpu.gpr.getV osz r).setWidth 32) →
    exec i s =
      if !taken then .next s.past
      else if target.toNat ≤ s.cpu.seg.cs.limit.toNat then
        .next { cpu := { s.past.cpu with eip := s.cpu.ipOf target }, bus := s.bus.jumped }
      else s.raises (.gp 0#32) s.bus)
  ∧ (∀ (s : State) (osz : OpSize) (m : MemOp) (v : BitVec osz.bits) (b1 : Bus),
    readRm osz (.mem m) s.past = .ok v { s.past with bus := b1 } →
    exec (.jmpRm osz (.mem m)) s =
        (if v.toNat ≤ s.cpu.seg.cs.limit.toNat then
          .next { cpu := { s.past.cpu with eip := s.cpu.ipOf (v.setWidth 32) }, bus := b1.jumped }
        else s.raises (.gp 0#32) b1)
      ∧ Stored s.cpu [] s.bus b1)

/-- CALL near completes where the target is in the code segment and the return offset can be pushed: it is stored in the
slot below the stack pointer, EIP is the target, nothing else changes. A target outside raises #GP(0), a stack without
room #SS(0). RET near completes where the top of the stack can be read and holds an offset in the code segment: EIP is
that offset, and the stack pointer moves past it and past `imm16` more bytes; otherwise #GP(0), with the stack pointer
unchanged (R612, R613). In a 16-bit code segment of protected mode EIP is the low 16 bits of either (R32); that the whole of it
is tested against the limit before is the model's choice (log 56). -/
def Obligations.CallAndRetNearUseStackTop : Prop :=
  (∀ (s : State) (i : Instr) (osz : OpSize) (target : W32) (b1 : Bus),
      (∃ rel : ImmV, i = .callRel rel ∧ osz = rel.size ∧ b1 = s.bus
          ∧ target = truncEip osz (s.cpu.nextEip + rel.val.signExtend 32))
        ∨ (∃ (rm : Rm) (v : BitVec osz.bits), i = .callRm osz rm
          ∧ readRm osz rm s.past = .ok v { s.past with bus := b1 } ∧ target = v.setWidth 32) →
      (target.toNat ≤ s.cpu.seg.cs.limit.toNat →
        ∀ (as : List Nat) (c1 : Cpu) (b2 : Bus), Pushes osz [.word s.cpu.nextEip] s.past.cpu b1 as c1 b2 →
        exec i s = .next { cpu := { c1 with eip := s.cpu.ipOf target }, bus := b2.jumped }
          ∧ c1 = s.past.cpu.setEsp (s.cpu.below osz.bytes) ∧ Stored s.cpu as b1 b2)
      ∧ Stored s.cpu [] s.bus b1
      ∧ (s.cpu.seg.cs.limit.toNat < target.toNat → exec i s = s.raises (.gp 0#32) b1)
      ∧ (target.toNat ≤ s.cpu.seg.cs.limit.toNat → s.cpu.hasRoom osz.bytes = false →
        exec i s = s.raises (.ss 0#32) b1))
  ∧ (∀ (s : State) (osz : OpSize) (imm : W16) (v : BitVec osz.bits) (b1 : Bus),
      memRead osz.bits .ss (s.cpu.stackOff s.cpu.gpr.esp) osz.bytes s.past.cpu s.bus = .ok v b1 →
      let ret (k : Nat) : Host.Outcome State Fault Refusal :=
        if v.toNat ≤ s.cpu.seg.cs.limit.toNat then
          .next { cpu := { s.past.cpu.setEsp (s.cpu.stackMove (BitVec.ofNat 32 (osz.bytes + k))) with
                           eip := s.cpu.ipOf (v.setWidth 32) }
                  bus := b1.jumped }
        else s.raises (.gp 0#32) b1
      exec (.retNear osz) s = ret 0 ∧ exec (.retNearImm osz imm) s = ret imm.toNat ∧ Stored s.cpu [] s.bus b1)

/-- Far JMP, CALL and RET in real-address and virtual-8086 mode complete where the offset is in the code segment and the
stack can be used: CS holds the selector with 16 times its value as base; CALL has pushed CS and the return offset, RET
has popped them (R645, R801). -/
def Obligations.FarTransfersInRealMode : Prop :=
  (∀ (s : State) (osz : OpSize) (sel : W16) (off : W32) (b1 : Bus) (jmp call : Instr), s.cpu.prot = false →
    (∃ p : FarPtr, jmp = .jmpFarPtr p ∧ call = .callFarPtr p ∧ farPtrParts p = (osz, sel, off) ∧ b1 = s.bus)
      ∨ (∃ (m : MemOp) (v : BitVec osz.bits), jmp = .jmpFarMem osz m ∧ call = .callFarMem osz m
        ∧ loadFar osz m s.past = .ok (sel, v) { s.past with bus := b1 } ∧ off = v.setWidth 32) →
    let target := truncEip osz off
    let goes (c : Cpu) : Cpu := { c with seg.cs := s.cpu.seg.cs.paragraph sel, eip := target }
    Stored s.cpu [] s.bus b1
    ∧ (target.toNat ≤ s.cpu.seg.cs.limit.toNat →
      exec jmp s = .next { cpu := goes s.past.cpu, bus := b1.jumped }
      ∧ ∀ (as : List Nat) (c1 : Cpu) (b2 : Bus),
        Pushes osz [.sel s.cpu.seg.cs.sel, .word s.cpu.nextEip] s.past.cpu b1 as c1 b2 →
        exec call s = .next { cpu := goes c1, bus := b2.jumped } ∧ Stored s.cpu as b1 b2))
  ∧ (∀ (s : State) (osz : OpSize) (imm : W16) (off sel : W32) (b1 b2 : Bus), s.cpu.prot = false →
    peekW osz 0 s.past = .ok off { s.past with bus := b1 } →
    peekW osz osz.bytes { s.past with bus := b1 } = .ok sel { s.past with bus := b2 } →
    let target := truncEip osz off
    let ret (k : Nat) : State :=
      { cpu := { s.past.cpu.setEsp (s.cpu.stackMove (BitVec.ofNat 32 (2 * osz.bytes + k))) with
                 seg.cs := s.cpu.seg.cs.paragraph (sel.extractLsb' 0 16), eip := target }
        bus := b2.jumped }
    target.toNat ≤ s.cpu.seg.cs.limit.toNat →
    exec (.retFar osz) s = .next (ret 0) ∧ exec (.retFarImm osz imm) s = .next (ret imm.toNat)
      ∧ Stored s.cpu [] s.bus b2)

/-- Far JMP and CALL in protected mode directly to a code segment: the segment is accepted exactly if it is conforming with
DPL at most CPL, or non-conforming with RPL at most CPL and DPL equal to CPL, and present, else #GP or #NP names the
selector; then, with the offset in the new segment, CS and EIP are those of the target, CPL stays, the accessed bit is
set, and CALL has pushed CS and the return offset (R611, R615 to R617). In a segment with D = 0 EIP is the low 16 bits of the
offset (R32); that the whole of it is tested against the limit before is the model's choice (log 56). -/
def Obligations.FarTransfersInProtectedMode : Prop :=
  (∀ (sel : W16) (d : Desc) (c : Cpu) (b : Bus),
    directCode sel d c b =
      if (if d.conforming then d.dpl.toNat > c.cpl.toNat
          else (selRpl sel).toNat > c.cpl.toNat ∨ d.dpl ≠ c.cpl) then .error (.exc (.gp (selCode sel))) b
      else if d.p = false then .error (.exc (.np (selCode sel))) b
      else .ok () b)
  ∧ (∀ (s : State) (osz : OpSize) (sel : W16) (off : W32) (d : Desc) (b1 b2 : Bus) (jmp call : Instr),
    s.cpu.prot = true →
    (∃ p : FarPtr, jmp = .jmpFarPtr p ∧ call = .callFarPtr p ∧ farPtrParts p = (osz, sel, off) ∧ b1 = s.bus)
      ∨ (∃ (m : MemOp) (v : BitVec osz.bits), jmp = .jmpFarMem osz m ∧ call = .callFarMem osz m
        ∧ loadFar osz m s.past = .ok (sel, v) { s.past with bus := b1 } ∧ off = v.setWidth 32) →
    selNull sel = false → fetchDesc sel s.past.cpu b1 = .ok (some d) b2 → d.isCode = true →
    directCode sel d s.past.cpu b2 = .ok () b2 → (truncEip osz off).toNat ≤ d.limit.toNat →
    let goes (c : Cpu) : Cpu := { c.setCs sel d s.cpu.cpl with eip := d.ipOf (truncEip osz off) }
    Stored s.cpu [] s.bus b2
    ∧ (∀ b3, setAccessed d s.past.cpu b2 = .ok () b3 →
      exec jmp s = .next { cpu := goes s.past.cpu, bus := b3.jumped }
        ∧ Stored s.cpu (accessedAddrs d s.past.cpu b2) b2 b3)
    ∧ (∀ (as : List Nat) (c1 : Cpu) (b3 b4 : Bus), s.cpu.hasRoom (2 * osz.bytes) = true →
      Pushes osz [.sel s.cpu.seg.cs.sel, .word s.cpu.nextEip] s.past.cpu b2 as c1 b3 →
      setAccessed d c1 b3 = .ok () b4 →
      exec call s = .next { cpu := goes c1, bus := b4.jumped }
        ∧ Stored s.cpu as b2 b3 ∧ Stored s.cpu (accessedAddrs d c1 b3) b3 b4))

/-- Far JMP and CALL in protected mode through a call gate: the gate and the code segment that it names pass or fail the
checks in the order of R622. At the same level CS:EIP come from the gate, CPL stays, and CALL has pushed CS and the return
offset, of the size of the gate. CALL to a non-conforming segment of an inner level takes the stack of that level from the
TSS, pushes the old SS and ESP there, copies the parameters, and pushes CS and the return offset (R611, R622, R624). That a
call from 32-bit code through a 16-bit gate to a 16-bit segment is noted, for R866, is the model's own bookkeeping (log 11).
In a segment with D = 0 EIP is the low 16 bits of the offset (R32; the order of cut and check: log 56). -/
def Obligations.CallGatesEnterCode : Prop :=
  (∀ (kind : FarKind) (gs : W16) (g d : Desc) (c : Cpu) (b b1 : Bus),
    let bad (v : W16) : Prop := callGateCode kind gs g c b = .error (.exc (.gp (selCode v))) b
    (g.dpl.toNat < c.cpl.toNat ∨ g.dpl.toNat < (selRpl gs).toNat → bad gs)
    ∧ (c.cpl.toNat ≤ g.dpl.toNat → (selRpl gs).toNat ≤ g.dpl.toNat →
      (g.p = false → callGateCode kind gs g c b = .error (.exc (.np (selCode gs))) b)
      ∧ (g.p = true → selNull g.gateSel = true → callGateCode kind gs g c b = .error (.exc (.gp 0#32)) b)
      ∧ (g.p = true → selNull g.gateSel = false → fetchDesc g.gateSel c b = .ok (some d) b1 →
        callGateCode kind gs g c b =
          if d.isCode = false ∨ c.cpl.toNat < d.dpl.toNat
              ∨ (kind = .jmp ∧ d.conforming = false ∧ d.dpl ≠ c.cpl) then
            .error (.exc (.gp (selCode g.gateSel))) b1
          else if d.p = false then .error (.exc (.np (selCode g.gateSel))) b1
          else .ok d b1)))
  ∧ (∀ (s : State) (osz : OpSize) (sel : W16) (off : W32) (g d : Desc) (b1 b2 b3 : Bus) (jmp call : Instr),
    s.cpu.prot = true →
    (∃ p : FarPtr, jmp = .jmpFarPtr p ∧ call = .callFarPtr p ∧ farPtrParts p = (osz, sel, off) ∧ b1 = s.bus)
      ∨ (∃ (m : MemOp) (v : BitVec osz.bits), jmp = .jmpFarMem osz m ∧ call = .callFarMem osz m
        ∧ loadFar osz m s.past = .ok (sel, v) { s.past with bus := b1 } ∧ off = v.setWidth 32) →
    selNull sel = false → fetchDesc sel s.past.cpu b1 = .ok (some g) b2 → g.isSys [4, 12] = true →
    g.gateOff.toNat ≤ d.limit.toNat →
    let n := g.gateSize.bytes
    let goes (c : Cpu) (l : BitVec 2) : Cpu := { c.setCs g.gateSel d l with eip := d.ipOf g.gateOff }
    let noted (c : Cpu) : Cpu :=
      let f : GateFrame :=
        { la := c.seg.ss.linear (c.stackOff c.gpr.esp), cs := s.cpu.seg.cs.sel, ip := s.cpu.nextEip.extractLsb' 0 16 }
      { c with hid.gate16 :=
          if g.gateSize = .w16 ∧ s.cpu.seg.cs.db = true ∧ bit d.dw2 22 = false then
            f :: s.cpu.hid.gate16.filter (· ≠ f)
          else s.cpu.hid.gate16 }
    (callGateCode .jmp sel g s.past.cpu b2 = .ok d b3 →
      Stored s.cpu [] s.bus b3
      ∧ ∀ b4, setAccessed d s.past.cpu b3 = .ok () b4 →
        exec jmp s = .next { cpu := goes s.past.cpu s.cpu.cpl, bus := b4.jumped }
          ∧ Stored s.cpu (accessedAddrs d s.past.cpu b3) b3 b4)
    ∧ (callGateCode .call sel g s.past.cpu b2 = .ok d b3 →
      Stored s.cpu [] s.bus b3
      ∧ (∀ (as : List Nat) (c1 : Cpu) (b4 b5 : Bus), d.conforming = true ∨ s.cpu.cpl.toNat ≤ d.dpl.toNat →
        s.cpu.hasRoom (2 * n) = true →
        Pushes g.gateSize [.sel s.cpu.seg.cs.sel, .word s.cpu.nextEip] s.past.cpu b3 as c1 b4 →
        setAccessed d c1 b4 = .ok () b5 →
        exec call s = .next { cpu := noted (goes c1 s.cpu.cpl), bus := b5.jumped }
          ∧ Stored s.cpu as b3 b4 ∧ Stored s.cpu (accessedAddrs d c1 b4) b4 b5)
      ∧ (∀ (as : List Nat) (c1 : Cpu) (b4 : Bus), d.conforming = false → d.dpl.toNat < s.cpu.cpl.toNat →
        InnerCall g d s.past.cpu b3 as c1 b4 →
        exec call s = .next { cpu := noted (goes c1 d.dpl), bus := b4.jumped } ∧ Stored s.cpu as b3 b4)))

/-- Task switches. JMP and CALL far to a TSS or through a task gate, an interrupt or an exception through a task gate, and
IRET with NT = 1 end in what the switch leaves. The switch: the old task's registers are stored in its TSS, JMP and IRET
clear its busy flag, CALL and interrupts store the link to it and set NT, all but IRET mark the new task busy; TR, EIP,
EFLAGS, CR3, the general registers and the selectors come from the new TSS; CR0.TS is set, the local breakpoint enables
of DR7 are cleared. Without paging nothing else is stored but the accessed bits of descriptors that the new task loads
(R632, R640, R683, R700, R702, R703, R705, R708, R914). The model's choices, where the rules leave a point open: EIP is cut to
16 bits in a code segment with D = 0 (R32, log 56); of a 16-bit TSS, EFLAGS and EIP are the words with zeros above, VM comes
from the image at any CPL, the busy flag of the old task is reached through the selector in TR with no test of the limit, and
none is cleared if it is null, an IRET saves the offset of the instruction after it, and so are the order and the other checks
of the switch (log 24, log 25); the switch, and the delivery through a task gate, count as a jump (log 13), and the delivery
ends the SS shadow and the STI delay (log 61). -/
def Obligations.TaskSwitchSavesAndLoadsTasks : Prop :=
  (∀ (s t : State) (osz : OpSize) (sel tss : W16) (off : W32) (d : Desc) (b1 b2 : Bus) (kind : FarKind) (i : Instr),
    s.cpu.prot = true →
    (∃ p : FarPtr, i = (match kind with
          | .jmp => .jmpFarPtr p
          | .call => .callFarPtr p) ∧ farPtrParts p = (osz, sel, off) ∧ b1 = s.bus)
      ∨ (∃ (m : MemOp) (v : BitVec osz.bits), (i = match kind with
          | .jmp => .jmpFarMem osz m
          | .call => .callFarMem osz m) ∧ loadFar osz m s.past = .ok (sel, v) { s.past with bus := b1 }) →
    selNull sel = false → fetchDesc sel s.past.cpu b1 = .ok (some d) b2 → d.isSys [1, 5, 9] = true →
    farTaskSel sel d s.past.cpu b2 = .ok tss b2 →
    taskSwitch kind.task tss s.cpu.fl s.cpu.nextEip s.cpu.seg.cs.sel ⟨s.past.cpu, b2⟩ = .ok () t →
    exec i s = .next t)
  ∧ (∀ (s t : State) (osz : OpSize) (link : Nat) (b1 : Bus), s.cpu.prot = true → s.cpu.fl.nt = true →
    let c := s.past.cpu.nmiEnabled
    1 ≤ s.cpu.tr.limit.toNat → sysRead s.cpu.tr.base 2 c s.bus = .ok link b1 →
    taskSwitch .iret (BitVec.ofNat 16 link) s.cpu.fl s.cpu.nextEip s.cpu.seg.cs.sel ⟨c, b1⟩ = .ok () t →
    exec (.iret osz) s = .next
      { cpu := { t.cpu with notes.keepRf := t.cpu.notes.keepRf || osz == .w32 }, bus := t.bus.serialized })
  ∧ (∀ (s : State) (g : Desc) (i : Instr) (v : Byte) (e : Exc) (b : Bus) (t : State),
    (SoftInterrupt i s v → s.cpu.prot = true → TaskGate (.software v s.past.cpu) s.past.cpu s.bus g t →
      exec i s = .next { cpu := t.cpu.afterDelivery (.software v s.past.cpu), bus := t.bus.jumped })
    ∧ (let d := Delivery.ofExc e false (s.cpu.taking e)
      TaskGate d (s.cpu.taking e) b g t →
      s.raises e b = .next { cpu := t.cpu.afterDelivery d, bus := t.bus.jumped }))
  ∧ ∀ (kind : TaskKind) (sel : W16) (img : Eflags) (eip : W32) (cs : W16) (s t : State),
    taskSwitch kind sel img eip cs s = .ok () t →
    ∃ (d : Desc) (b1 : Bus) (bytes : List Byte),
      checkTss kind sel s.cpu s.bus = .ok d b1 ∧ TaskLoaded kind sel d bytes s.cpu t.cpu
      ∧ (s.cpu.pe = true → s.cpu.pg = false → s.bus.map = [] → s.bus.mem.wf = true →
        let cells := s.switchCells kind sel d img eip cs
        let tss := (List.range (tssSize (wideTss d.typ))).map (d.base.toNat + ·)
        (∀ a ∈ cells.map (·.1) ++ tss, Apic.enabled s.cpu = true → a / 4096 ≠ Apic.page s.cpu) →
        bytes = (s.bus.mem.writeBytes cells).readBytes tss
        ∧ ∀ a, (∀ sr : Seg, a ≠ (t.cpu.rightsAt (t.cpu.seg.get sr).sel).toNat) →
          t.bus.mem.read a = (s.bus.mem.writeBytes cells).read a)

/-- Far RET in protected mode to the same privilege level completes where its two slots can be read, the code segment passes
the checks of a return and the offset lies in it: EIP and CS come from the stack, which is released with `imm16` more
bytes, CPL stays, the accessed bit is set. A 16-bit return to a 32-bit code segment on a 32-bit stack leaves the upper
half of ESP open if it pops the frame of a call that 32-bit code made through a 16-bit gate (R618, R866; that frames are
told apart by their place and return pointer is the model's choice, log 11). In a segment with D = 0 EIP is the low 16 bits
of the offset (R32; the order of cut and check: log 56). -/
def Obligations.FarReturnToSameLevel : Prop :=
  ∀ (s : State) (osz : OpSize) (imm : W16) (off selW : W32) (d : Desc) (b1 b2 b3 : Bus), s.cpu.prot = true →
    s.cpu.holds 0 (2 * osz.bytes) = true →
    peekW osz 0 s.past = .ok off { s.past with bus := b1 } →
    peekW osz osz.bytes { s.past with bus := b1 } = .ok selW { s.past with bus := b2 } →
    let sel := selW.extractLsb' 0 16
    returnCode sel s.past.cpu b2 = .ok d b3 → selRpl sel = s.cpu.cpl → (truncEip osz off).toNat ≤ d.limit.toNat →
    let f : GateFrame := { la := s.cpu.seg.ss.linear (s.cpu.stackOff s.cpu.gpr.esp), cs := sel, ip := off.extractLsb' 0 16 }
    let loose : Prop := osz = .w16 ∧ bit d.dw2 22 = true ∧ f ∈ s.cpu.hid.gate16 ∧ s.cpu.seg.ss.db = true
    Stored s.cpu [] s.bus b3
    ∧ ∀ (k : Nat) (i : Instr), (k = 0 ∧ i = .retFar osz) ∨ (k = imm.toNat ∧ i = .retFarImm osz imm) →
      let esp := s.cpu.stackMove (BitVec.ofNat 32 (2 * osz.bytes + k))
      let moved : Cpu := s.past.cpu.setEsp
        (if loose then (Config.freeWord b3.freeCtr).extractLsb' 16 16 ++ esp.extractLsb' 0 16 else esp)
      let b4 : Bus := { b3 with freeCtr := b3.freeCtr + if loose then 1 else 0 }
      ∀ b5, setAccessed d moved b4 = .ok () b5 →
        exec i s = .next
            { cpu := { moved.setCs sel d s.cpu.cpl with
                eip := d.ipOf (truncEip osz off), hid.gate16 := s.cpu.hid.gate16.filter (· ≠ f) }
              bus := b5.jumped }
          ∧ Stored s.cpu (accessedAddrs d moved b4) b3 b5

/-- RET far and IRET in protected mode to an outer privilege level, where the selector of CS on the stack has an RPL above
CPL and the checks pass: CS:EIP, then SS and the stack pointer come from the stack, CPL is the RPL, `imm16` more bytes
are skipped on the outer stack, IRET loads the flags; and ES, DS, FS and GS that hold a data segment or a non-conforming
code segment of an inner level become null, the others stay (R628, R629, R640, R641). A 16-bit return loads SP alone; that
ESP[31:16] is open after a 16-bit IRET, and after a 16-bit RET far of a frame that a call through a 16-bit gate pushed
(R866), is the model's reading (log 11). In a segment with D = 0 EIP is the low 16 bits of the offset (R32; the order of cut
and check: log 56). -/
def Obligations.OuterReturnSwitchesStackAndNullsInnerData : Prop :=
  ∀ (s : State) (osz : OpSize) (off csW : W32) (d : Desc) (b1 b2 b3 : Bus), s.cpu.prot = true →
    let cs := csW.extractLsb' 0 16
    let eip := truncEip osz off
    (∀ (loose : Bool) (c : Cpu) (b : Bus) (k : Nat) (extra : W32) (as : List Nat) (t : State),
      OuterReturn loose osz cs d eip k extra c b as t →
      t.cpu.cpl = selRpl cs ∧ t.cpu.eip = d.ipOf eip ∧ t.cpu.seg.cs = d.reg cs ∧ Stored c as b t.bus
      ∧ ∀ sr : Seg, sr = .es ∨ sr = .ds ∨ sr = .fs ∨ sr = .gs →
        let r := c.seg.get sr
        let inner : Prop := r.unusable = false
          ∧ (r.isData = true ∨ (r.isCode = true ∧ r.conforming = false)) ∧ r.dpl.toNat < (selRpl cs).toNat
        (inner → (t.cpu.seg.get sr).sel = 0#16 ∧ (t.cpu.seg.get sr).unusable = true)
          ∧ (¬inner → t.cpu.seg.get sr = r))
    ∧ (∀ (imm : W16) (k : Nat) (i : Instr) (as : List Nat) (t : State),
      (k = 0 ∧ i = .retFar osz) ∨ (k = imm.toNat ∧ i = .retFarImm osz imm) →
      s.cpu.holds 0 (2 * osz.bytes) = true →
      peekW osz 0 s.past = .ok off { s.past with bus := b1 } →
      peekW osz osz.bytes { s.past with bus := b1 } = .ok csW { s.past with bus := b2 } →
      returnCode cs s.past.cpu b2 = .ok d b3 → selRpl cs ≠ s.cpu.cpl →
      let f : GateFrame :=
        { la := s.cpu.seg.ss.linear (s.cpu.stackOff s.cpu.gpr.esp), cs := cs, ip := off.extractLsb' 0 16 }
      let loose := osz == .w16 && bit d.dw2 22 && s.cpu.hid.gate16.contains f
      OuterReturn loose osz cs d eip (2 * osz.bytes + k) (BitVec.ofNat 32 k) s.past.cpu b3 as t →
      exec i s = .next
          { cpu := { t.cpu with hid.gate16 := s.cpu.hid.gate16.filter (· ≠ f) }, bus := t.bus }
        ∧ Stored s.cpu [] s.bus b3)
    ∧ (∀ (img : W32) (b4 : Bus) (as : List Nat) (t : State),
      let c := s.past.cpu.nmiEnabled
      s.cpu.fl.nt = false → s.cpu.holds 0 (3 * osz.bytes) = true → s.cpu.holds 0 (5 * osz.bytes) = true →
      peekW osz 0 ⟨c, s.bus⟩ = .ok off ⟨c, b1⟩ → peekW osz osz.bytes ⟨c, b1⟩ = .ok csW ⟨c, b2⟩ →
      peekW osz (2 * osz.bytes) ⟨c, b2⟩ = .ok img ⟨c, b3⟩ → ¬(osz = .w32 ∧ bit img 17 = true ∧ s.cpu.cpl = 0#2) →
      returnCode cs c b3 = .ok d b4 → selRpl cs ≠ s.cpu.cpl →
      OuterReturn (osz == .w16) osz cs d eip (3 * osz.bytes) 0#32 c b4 as t →
      exec (.iret osz) s = .next
          { cpu := { t.cpu with
              fl := s.cpu.fl.merge (.ofBits img) (iretMask s.cpu osz)
              notes.keepRf := s.cpu.notes.keepRf || osz == .w32 }
            bus := t.bus.serialized }
        ∧ Stored s.cpu [] s.bus b4)

/-- BOUND completes where both bounds can be read and hold the signed index between them, the upper one included; an index
outside raises #BR (R637). -/
def Obligations.BoundChecksIndex : Prop :=
  ∀ (s : State) (osz : OpSize) (r : Gpr) (m : MemOp) (lo hi : BitVec osz.bits) (b1 b2 : Bus),
    loadMem osz.bits m osz.bytes s.past = .ok lo { s.past with bus := b1 } →
    loadAt osz.bits m osz.bytes { s.past with bus := b1 } = .ok hi { s.past with bus := b2 } →
    let i := (s.cpu.gpr.getV osz r).toInt
    (lo.toInt ≤ i ∧ i ≤ hi.toInt → exec (.bound osz r m) s = .next { s.past with bus := b2 })
      ∧ (i < lo.toInt ∨ hi.toInt < i → exec (.bound osz r m) s = s.raises .br b2)
      ∧ Stored s.cpu [] s.bus b2

/-! Interrupts and exceptions. -/

/-- Taking an interrupt in real-address mode: INT n, INT 3, INTO with OF = 1, and any exception an instruction raises,
push FLAGS, CS and the offset (of the next instruction, or of the one that raised it), clear IF, TF, RF and AC and go to
CS:IP from entry `vec` of the table; nothing else changes but what `afterDelivery` says. INTO with OF = 0 goes on
(R634 to R636, R806, R807, R897). The model's choices: INT 1 clears DR7.GD, LBR and BTF like every #DB (R961, R1239;
log 44), a delivery counts as a jump for later fetches (log 13), and it ends the SS shadow and the STI delay (log 61). -/
def Obligations.RealModeDeliveryUsesTable : Prop :=
  (∀ (s : State) (i : Instr) (v : Byte) (as : List Nat) (c1 : Cpu) (entry : Nat) (b2 : Bus), SoftInterrupt i s v →
    let d := Delivery.software v s.past.cpu
    RealDelivery d s.past.cpu s.bus as c1 entry b2 →
    exec i s = .next { cpu := c1.inRealHandler d entry, bus := b2.jumped } ∧ Stored s.cpu as s.bus b2)
  ∧ (∀ (s : State) (e : Exc) (b : Bus) (as : List Nat) (c1 : Cpu) (entry : Nat) (b2 : Bus),
    let d := Delivery.ofExc e false (s.cpu.taking e)
    RealDelivery d (s.cpu.taking e) b as c1 entry b2 →
    s.raises e b = .next { cpu := c1.inRealHandler d entry, bus := b2.jumped } ∧ d.retEip = s.cpu.eip
      ∧ Stored s.cpu as b b2)
  ∧ ∀ s : State, s.cpu.fl.of = false → exec .into s = .next s.past

/-- Taking a software interrupt, or an exception that an instruction raises, through an interrupt or trap gate whose
handler runs at the current level: EFLAGS, CS, EIP and the error code, if there is one, are pushed, CS:EIP come from the
gate, TF, NT, RF, VM are clear and IF too for an interrupt gate (R908 to R911). The reserved bits of the error code are open
(R912, R974; log 64). In a segment with D = 0 EIP is the low 16 bits of the offset (R32; the order of cut and check: log 56).
The model's choices: INT 1 clears DR7.GD, LBR and BTF like every #DB (R961, R1239; log 44), a delivery counts as a jump for
later fetches (log 13), and it ends the SS shadow and the STI delay (log 61). -/
def Obligations.GateDeliveryAtSameLevel : Prop :=
  ∀ (g t : Desc) (as : List Nat) (c1 : Cpu) (b4 : Bus),
    (∀ (s : State) (i : Instr) (v : Byte), SoftInterrupt i s v →
      let d := Delivery.software v s.past.cpu
      SameLevelGate d s.past.cpu s.bus g t as c1 b4 →
      exec i s = .next { cpu := c1.inGateHandler d g t s.cpu.cpl, bus := b4.jumped } ∧ Stored s.cpu as s.bus b4)
    ∧ (∀ (s : State) (e : Exc) (b : Bus),
      let d := Delivery.ofExc e false (s.cpu.taking e)
      SameLevelGate d (s.cpu.taking e) b g t as c1 b4 →
      s.raises e b = .next { cpu := c1.inGateHandler d g t s.cpu.cpl, bus := b4.jumped } ∧ Stored s.cpu as b b4)

/-- The same through a gate whose handler runs at an inner level: the stack of that level is taken from the TSS, and the
old SS and ESP are pushed first (R910, R624). The reserved bits of the error code are open (R912, R974; log 64). In a segment
with D = 0 EIP is the low 16 bits of the offset (R32; the order of cut and check: log 56). The model's choices: INT 1 clears
DR7.GD, LBR and BTF like every #DB (R961, R1239; log 44), a delivery counts as a jump for later fetches (log 13), and it ends
the SS shadow and the STI delay (log 61). -/
def Obligations.GateDeliveryToInnerLevel : Prop :=
  ∀ (g t : Desc) (as : List Nat) (c1 : Cpu) (b6 : Bus),
    (∀ (s : State) (i : Instr) (v : Byte), SoftInterrupt i s v →
      let d := Delivery.software v s.past.cpu
      InnerLevelGate d s.past.cpu s.bus g t as c1 b6 →
      exec i s = .next { cpu := c1.inGateHandler d g t t.dpl, bus := b6.jumped } ∧ Stored s.cpu as s.bus b6)
    ∧ (∀ (s : State) (e : Exc) (b : Bus),
      let d := Delivery.ofExc e false (s.cpu.taking e)
      InnerLevelGate d (s.cpu.taking e) b g t as c1 b6 →
      s.raises e b = .next { cpu := c1.inGateHandler d g t t.dpl, bus := b6.jumped } ∧ Stored s.cpu as b b6)

/-- Interrupts and exceptions in virtual-8086 mode. INT 3, INTO with OF = 1, INT n where Table 16-2 gives it to the
protected-mode handler, and exceptions leave the mode through an interrupt or trap gate: the stack of level 0 gets GS,
FS, DS, ES, SS, ESP, EFLAGS, CS, EIP and the error code, if there is one, and the four data segment registers become null.
INT n with CR4.VME whose bit of the redirection map is clear goes to the 8086 program's own table, without a change of
mode. Otherwise, with IOPL < 3, INT n raises #GP(0) (R840, R844, R846 to R849; INT 1 as in R1239: log 44). The image of
EFLAGS that exceptions, INT 3 and INTO push with VME = 1 and IOPL < 3 (IOPL 3, VIF in the place of IF) is decision D114 of
R844, that redirection with IOPL < 3 leaves NT as it is is decision D116 of R849, and that INT 3 and INTO do not depend on
IOPL is marked as general knowledge in R848. The reserved bits of the error code are open (R912, R974; log 64). The model's
choices: a delivery, and a redirected INT n, counts as a jump for later fetches (log 13), and a delivery ends the SS shadow and
the STI delay (log 61); which bytes of the redirection map are tested against the limit of the TSS (log 51); the order in which
EIP is cut to 16 bits, in a segment with D = 0 (R32), and checked (log 56). -/
def Obligations.Virtual8086InterruptsFollowTable : Prop :=
  (∀ (s : State) (i : Instr) (v : Byte) (b : Bus) (g t : Desc) (as : List Nat) (c1 : Cpu) (b6 : Bus),
    (i = .int3 ∧ v = 3#8 ∧ b = s.bus) ∨ (i = .into ∧ v = 4#8 ∧ s.cpu.fl.of = true ∧ b = s.bus)
      ∨ (i = .intN v ∧ s.cpu.fl.iopl = 3#2 ∧ bit s.cpu.ctl.cr4 0 = false ∧ b = s.bus)
      ∨ (i = .intN v ∧ s.cpu.fl.iopl = 3#2 ∧ bit s.cpu.ctl.cr4 0 = true
        ∧ redirected v s.past.cpu s.bus = .ok false b) →
    let d := Delivery.software v s.past.cpu
    V86Gate d s.past.cpu b g t as c1 b6 →
    exec i s = .next { cpu := c1.inGateHandler d g t 0#2, bus := b6.jumped } ∧ Stored s.cpu as b b6)
  ∧ (∀ (s : State) (e : Exc) (b : Bus) (g t : Desc) (as : List Nat) (c1 : Cpu) (b6 : Bus),
    let d := Delivery.ofExc e false (s.cpu.taking e)
    V86Gate d (s.cpu.taking e) b g t as c1 b6 →
    s.raises e b = .next { cpu := c1.inGateHandler d g t 0#2, bus := b6.jumped } ∧ Stored s.cpu as b b6)
  ∧ ∀ (s : State) (v : Byte), s.cpu.v86 = true →
    (bit s.cpu.ctl.cr4 0 = false → s.cpu.fl.iopl ≠ 3#2 → exec (.intN v) s = s.raises (.gp 0#32) s.bus)
    ∧ (∀ b, bit s.cpu.ctl.cr4 0 = true → s.cpu.fl.iopl ≠ 3#2 → redirected v s.past.cpu s.bus = .ok false b →
      exec (.intN v) s = s.raises (.gp 0#32) b ∧ Stored s.cpu [] s.bus b)
    ∧ ∀ (b b1 b2 : Bus) (as : List Nat) (c1 : Cpu) (entry : List Byte), bit s.cpu.ctl.cr4 0 = true →
      redirected v s.past.cpu s.bus = .ok true b →
      let outer := s.cpu.fl.iopl = 3#2
      let img : Eflags := if outer then { s.cpu.fl with nt := false, iopl := 0#2 }
        else { s.cpu.fl with iopl := 3#2, if_ := s.cpu.fl.vif }
      Pushes .w16 [.word img.toBits, .sel s.cpu.seg.cs.sel, .word s.cpu.nextEip] s.past.cpu b as c1 b1 →
      linBytes (4#32 * v.setWidth 32) 4 true c1 b1 = .ok entry b2 →
      let e : W32 := BitVec.ofNat 32 (leNat entry)
      exec (.intN v) s = .next
          { cpu := ({ c1 with
              fl := if outer then { s.cpu.fl with if_ := false, tf := false } else { s.cpu.fl with vif := false, tf := false }
              seg.cs := s.cpu.seg.cs.paragraph (e.extractLsb' 16 16), eip := (e.extractLsb' 0 16).setWidth 32
              notes.branched := true } : Cpu).recordException s.cpu.notes.start ((e.extractLsb' 0 16).setWidth 32)
            bus := b2.jumped }
        ∧ Stored s.cpu as s.bus b2

/-- IRET in real-address mode, and in virtual-8086 mode with IOPL = 3, completes where its three slots can be read and the
offset is in the code segment: EIP, CS and the flags come from the stack (of a 32-bit image not VM, VIF and VIP, and in
virtual-8086 mode not IOPL), which it releases; NMIs are enabled. In virtual-8086 mode with IOPL < 3 it raises #GP(0), or
with CR4.VME and a 16-bit operand loads VIF, and IF, from bit 9 of the image, unless VIP forbids that
(R808, R828, R901). Which flags a 32-bit image loads in real-address mode is decision D112 of R808. The form with VME,
bit 9 to VIF and IF and #GP(0) on VIP, is the model's choice: it rests on the sentence of R849 on IRET that the spec
marks as general knowledge (log 35). -/
def Obligations.IretInRealAndVirtual8086Mode : Prop :=
  ∀ (s : State) (osz : OpSize),
    let c := s.past.cpu.nmiEnabled
    (∀ (eip cs img mask : W32) (b1 b2 b3 : Bus),
      (s.cpu.pe = false ∧ mask = if osz = .w16 then 0xFFFF#32 else 0x257FD5#32)
        ∨ (s.cpu.v86 = true ∧ s.cpu.fl.iopl = 3#2 ∧ mask = if osz = .w16 then 0xCFFF#32 else 0x254FD5#32) →
      peekW osz 0 ⟨c, s.bus⟩ = .ok eip ⟨c, b1⟩ → peekW osz osz.bytes ⟨c, b1⟩ = .ok cs ⟨c, b2⟩ →
      peekW osz (2 * osz.bytes) ⟨c, b2⟩ = .ok img ⟨c, b3⟩ →
      (truncEip osz eip).toNat ≤ s.cpu.seg.cs.limit.toNat →
      exec (.iret osz) s = .next
          { cpu := { c.setEsp (s.cpu.stackMove (BitVec.ofNat 32 (3 * osz.bytes))) with
              fl := s.cpu.fl.merge (.ofBits img) mask
              seg.cs := s.cpu.seg.cs.paragraph (cs.extractLsb' 0 16), eip := truncEip osz eip
              notes.keepRf := s.cpu.notes.keepRf || osz == .w32 }
            bus := b3.serialized }
        ∧ Stored s.cpu [] s.bus b3)
    ∧ (s.cpu.v86 = true → s.cpu.fl.iopl ≠ 3#2 →
      (bit s.cpu.ctl.cr4 0 = false ∨ osz = .w32 → exec (.iret osz) s = s.raises (.gp 0#32) s.bus)
      ∧ ∀ (eip cs img : W32) (b1 b2 b3 : Bus), bit s.cpu.ctl.cr4 0 = true → osz = .w16 →
        peekW .w16 0 ⟨c, s.bus⟩ = .ok eip ⟨c, b1⟩ → peekW .w16 2 ⟨c, b1⟩ = .ok cs ⟨c, b2⟩ →
        peekW .w16 4 ⟨c, b2⟩ = .ok img ⟨c, b3⟩ →
        (bit img 9 = true → s.cpu.fl.vip = true → exec (.iret osz) s = s.raises (.gp 0#32) b3)
        ∧ (¬(bit img 9 = true ∧ s.cpu.fl.vip = true) → eip.toNat ≤ s.cpu.seg.cs.limit.toNat →
          exec (.iret osz) s = .next
            { cpu := { c.setEsp (s.cpu.stackMove 6#32) with
                fl := { s.cpu.fl.merge (.ofBits img) 0xCFFF#32 with vif := bit img 9 }
                seg.cs := s.cpu.seg.cs.paragraph (cs.extractLsb' 0 16), eip := eip }
              bus := b3.serialized })
        ∧ Stored s.cpu [] s.bus b3)

/-- IRET in protected mode, with NT = 0, to the same privilege level: EIP, CS and the flags that the level may write come
from the stack. IRETD at level 0 whose image has VM set goes to virtual-8086 mode, with EIP, CS, EFLAGS, ESP, SS, ES, DS,
FS and GS from the stack (R640, R641, R822, R835). In a segment with D = 0 EIP is the low 16 bits of the offset (R32; the
order of cut and check: log 56). -/
def Obligations.IretToSameLevelAndToVirtual8086 : Prop :=
  (∀ (s : State) (osz : OpSize) (eip csW img : W32) (d : Desc) (b1 b2 b3 b4 b5 : Bus),
      s.cpu.prot = true → s.cpu.fl.nt = false →
      let c := s.past.cpu.nmiEnabled
      let cs := csW.extractLsb' 0 16
      let c1 := c.setEsp (s.cpu.stackMove (BitVec.ofNat 32 (3 * osz.bytes)))
      s.cpu.holds 0 (3 * osz.bytes) = true →
      peekW osz 0 ⟨c, s.bus⟩ = .ok eip ⟨c, b1⟩ → peekW osz osz.bytes ⟨c, b1⟩ = .ok csW ⟨c, b2⟩ →
      peekW osz (2 * osz.bytes) ⟨c, b2⟩ = .ok img ⟨c, b3⟩ → ¬(osz = .w32 ∧ bit img 17 = true ∧ s.cpu.cpl = 0#2) →
      returnCode cs c b3 = .ok d b4 → selRpl cs = s.cpu.cpl → (truncEip osz eip).toNat ≤ d.limit.toNat →
      setAccessed d c1 b4 = .ok () b5 →
      exec (.iret osz) s = .next
          { cpu := { c1.setCs cs d s.cpu.cpl with
              fl := s.cpu.fl.merge (.ofBits img) (iretMask s.cpu osz), eip := d.ipOf (truncEip osz eip)
              notes.keepRf := s.cpu.notes.keepRf || osz == .w32 }
            bus := b5.serialized }
        ∧ Stored s.cpu (accessedAddrs d c1 b4) s.bus b5)
  ∧ (∀ (s : State) (eip cs img esp ss es ds fs gs : W32) (b1 b2 b3 b4 b5 b6 b7 b8 b9 : Bus),
    s.cpu.prot = true → s.cpu.fl.nt = false → s.cpu.cpl = 0#2 → bit img 17 = true →
    let c := s.past.cpu.nmiEnabled
    let w (v : W32) : SegReg := .v86 (v.extractLsb' 0 16)
    s.cpu.holds 0 12 = true → s.cpu.holds 0 36 = true →
    peekW .w32 0 ⟨c, s.bus⟩ = .ok eip ⟨c, b1⟩ → peekW .w32 4 ⟨c, b1⟩ = .ok cs ⟨c, b2⟩ →
    peekW .w32 8 ⟨c, b2⟩ = .ok img ⟨c, b3⟩ → peekW .w32 12 ⟨c, b3⟩ = .ok esp ⟨c, b4⟩ →
    peekW .w32 16 ⟨c, b4⟩ = .ok ss ⟨c, b5⟩ → peekW .w32 20 ⟨c, b5⟩ = .ok es ⟨c, b6⟩ →
    peekW .w32 24 ⟨c, b6⟩ = .ok ds ⟨c, b7⟩ → peekW .w32 28 ⟨c, b7⟩ = .ok fs ⟨c, b8⟩ →
    peekW .w32 32 ⟨c, b8⟩ = .ok gs ⟨c, b9⟩ →
    exec (.iret .w32) s = .next
        { cpu := { c with
            fl := .ofBits img, cpl := 3#2, eip := eip &&& 0xFFFF#32, gpr := { s.cpu.gpr with esp := esp }
            seg := { es := w es, cs := w cs, ss := w ss, ds := w ds, fs := w fs, gs := w gs }
            notes := { s.cpu.notes with keepRf := true } }
          bus := b9.serialized }
      ∧ Stored s.cpu [] s.bus b9)

/-- Which pairs of a first and a second exception become #DF, by their classes; and an exception in real-address mode whose
vector, like that of the double fault, lies outside the interrupt table shuts the processor down: no general register,
flag or segment changes, nothing is stored (R916, R917). The second clause is decision D111 of R806: the spec's own choice
for a vector beyond the table; before LIDT in SMM an exception is refused (log 22). -/
def Obligations.ShortTableGivesDoubleFaultThenShutdown : Prop :=
  (∀ first second : Byte,
    let contributory (v : Byte) : Prop := v = 0#8 ∨ v = 10#8 ∨ v = 11#8 ∨ v = 12#8 ∨ v = 13#8
    (doubles (excClass first) (excClass second) = true ↔
      (contributory first ∧ contributory second)
        ∨ (first = 14#8 ∧ (contributory second ∨ second = 14#8))))
  ∧ (∀ (s : State) (e : Exc) (b : Bus), s.cpu.pe = false → (s.cpu.smm.inSmm = true → s.cpu.smm.lidtDone = true) →
    s.cpu.idtr.limit.toNat < 35 → s.cpu.idtr.limit.toNat < 4 * e.vec.toNat + 3 →
    ∃ t, s.raises e b = .next t ∧ t.cpu.hid.run = .shutdown ∧ t.cpu.gpr = s.cpu.gpr ∧ t.cpu.eip = s.cpu.eip
      ∧ t.cpu.fl = s.cpu.fl ∧ t.cpu.seg = s.cpu.seg ∧ t.bus.mem = b.mem)

/-! Segment registers and descriptors. -/

/-- MOV, POP and the pointer loads complete where their operand can be read and LoadSeg gives the segment register a
value `v`: it holds `v`, POP has moved the stack pointer (by the new SS.B), a pointer load has loaded its general
register, MOV SS and POP SS hold off interrupts. Only the accessed bit of the descriptor is stored. MOV to CS, or to
register 6 or 7, raises #UD once its operand has been read: the operand of R561 comes first (R561, R563, R565, R566, R905;
the order of R13: log 45). -/
def Obligations.SegmentLoadsSetHiddenPart : Prop :=
  ∀ (s : State),
    (∀ (sr : Seg) (v : SegReg) (sel : W16) (b1 b2 : Bus), loadSegValue sr sel s.past.cpu b1 = .ok v b2 →
      let shadow (c : Cpu) : Cpu := if sr = .ss then c.shadowSs else c
      let c := s.past.cpu.setSeg sr v
      let stored : Prop := Stored s.cpu (segAddrs sr sel s.past.cpu b1) s.bus b2
      (∀ (n : BitVec 3) (rm : Rm), segOf n = some sr → sr ≠ .cs →
        readSel rm s.past = .ok sel { s.past with bus := b1 } →
        exec (.movSregRm n rm) s = .next { cpu := shadow c, bus := b2 } ∧ stored)
      ∧ (∀ (osz : OpSize) (w : W32) (i : Instr),
        (sr = .es ∧ i = .popEs osz) ∨ (sr = .ss ∧ i = .popSs osz) ∨ (sr = .ds ∧ i = .popDs osz)
          ∨ (sr = .fs ∧ i = .popFs osz) ∨ (sr = .gs ∧ i = .popGs osz) →
        peekW osz 0 s.past = .ok w { s.past with bus := b1 } → w.extractLsb' 0 16 = sel →
        exec i s = .next { cpu := shadow (c.setEsp (c.stackMove (BitVec.ofNat 32 osz.bytes))), bus := b2 } ∧ stored)
      ∧ (∀ (osz : OpSize) (r : Gpr) (m : MemOp) (off : BitVec osz.bits) (i : Instr),
        (sr = .es ∧ i = .les osz r m) ∨ (sr = .ss ∧ i = .lss osz r m) ∨ (sr = .ds ∧ i = .lds osz r m)
          ∨ (sr = .fs ∧ i = .lfs osz r m) ∨ (sr = .gs ∧ i = .lgs osz r m) →
        loadFar osz m s.past = .ok (sel, off) { s.past with bus := b1 } →
        exec i s = .next { cpu := { c with gpr := s.cpu.gpr.setV osz r off }, bus := b2 } ∧ stored))
    ∧ ∀ (n : BitVec 3) (rm : Rm) (sel : W16) (b1 : Bus), n = 1#3 ∨ n = 6#3 ∨ n = 7#3 →
      readSel rm s.past = .ok sel { s.past with bus := b1 } →
      exec (.movSregRm n rm) s = s.raises .ud b1 ∧ Stored s.cpu [] s.bus b1

/-- LoadSeg (R560): without descriptors in real-address and virtual-8086 mode, where the selector and the base are written
(R567, R801) and the register is usable again, which is the model's reading (log 34); in protected mode a null selector
makes a data segment register unusable and is #GP(0) for SS, a descriptor outside its table is #GP, and the descriptor
found must be of the right type and privilege, else #GP, and present, else #NP or #SS. That type and privilege are checked
before presence, so that #GP comes before #NP and #SS, is decision D124 of R560. -/
def Obligations.SegmentLoadChecks : Prop :=
  ∀ (sr : Seg) (sel : W16) (c : Cpu) (b : Bus),
    let load := loadSegValue sr sel c b
    (c.prot = false → load = .ok { c.seg.get sr with sel := sel, base := sel.setWidth 32 <<< 4, unusable := false } b)
    ∧ (c.prot = true → selNull sel = true → sr ≠ .ss →
      load = .ok { c.seg.get sr with sel := sel, unusable := true } b)
    ∧ (c.prot = true → selNull sel = true → sr = .ss → load = .error (.exc (.gp 0#32)) b)
    ∧ (∀ b1, c.prot = true → selNull sel = false → fetchDesc sel c b = .ok none b1 →
      load = .error (.exc (.gp (selCode sel))) b1)
    ∧ (∀ (d : Desc) (b1 : Bus), c.prot = true → selNull sel = false → fetchDesc sel c b = .ok (some d) b1 →
      load =
        if (sr = .ss ∧ (selRpl sel ≠ c.cpl ∨ d.writable = false ∨ d.dpl ≠ c.cpl))
            ∨ (sr ≠ .ss ∧ (d.readable = false
              ∨ (d.conforming = false ∧ (d.dpl.toNat < c.cpl.toNat ∨ d.dpl.toNat < (selRpl sel).toNat)))) then
          .error (.exc (.gp (selCode sel))) b1
        else if d.p = false then
          .error (.exc (if sr = .ss then .ss (selCode sel) else .np (selCode sel))) b1
        else
          match setAccessed d c b1 with
          | .ok _ b2 => .ok (d.reg sel) b2
          | .error e b2 => .error e b2)

/-- MOV from a segment register, SLDT and STR complete: a 16-bit register gets the selector, a 32-bit one the selector
zero-extended, memory two bytes, which SLDT and STR want aligned on 4 where alignment is checked. MOV of register 6 or 7
raises #UD; SLDT and STR raise it outside protected mode (R562, R487, R489, R140). -/
def Obligations.SelectorStoresCopySelector : Prop :=
  ∀ (s : State),
    (∀ (osz : OpSize) (sel : W16) (align : Nat) (i : Rm → Instr),
      (∃ n sr, segOf n = some sr ∧ (i = fun rm => .movRmSreg osz rm n) ∧ sel = (s.cpu.seg.get sr).sel ∧ align = 2)
        ∨ (s.cpu.prot = true ∧ (i = fun rm => .sldt osz rm) ∧ sel = s.cpu.ldtr.sel ∧ align = 4)
        ∨ (s.cpu.prot = true ∧ (i = fun rm => .str osz rm) ∧ sel = s.cpu.tr.sel ∧ align = 4) →
      (∀ r : Gpr, exec (i (.reg r)) s = .next
        { s.past with
          cpu := { s.past.cpu with gpr := s.cpu.gpr.setV osz r (sel.setWidth osz.bits) } })
      ∧ (∀ (m : MemOp) (p : Phys) (b2 : Bus),
        WritesAt s.past.cpu s.bus m.segment (m.off s.cpu) 2 align sel.toNat p b2 →
        exec (i (.mem m)) s = .next { s.past with bus := b2 } ∧ Stored s.cpu p.addrs s.bus b2))
    ∧ (∀ (osz : OpSize) (rm : Rm) (n : BitVec 3), n = 6#3 ∨ n = 7#3 →
      exec (.movRmSreg osz rm n) s = s.raises .ud s.bus)
    ∧ (∀ (osz : OpSize) (rm : Rm), s.cpu.prot = false →
      exec (.sldt osz rm) s = s.raises .ud s.bus ∧ exec (.str osz rm) s = s.raises .ud s.bus)

/-- LAR, LSL, VERR and VERW complete in protected mode where their operand can be read: ZF says whether the probe of the
selector succeeded (and the segment passes the test of VERR or VERW), LAR and LSL load the access rights or the limit
if so; nothing else changes. The probe finds a descriptor exactly by R569. ARPL completes in protected mode: if the RPL of
the destination is below that of the source register, it is raised to it and ZF is set; otherwise ZF is cleared and,
though the location must be writable, nothing is written (D125). Nothing else changes. Outside protected mode they raise
#UD (R569 to R574, R966; bits 19 to 16 of what LAR loads: log 10). -/
def Obligations.ProbesAndArplSetZeroFlag : Prop :=
  (∀ (s : State) (rm : Rm) (sel : W16) (b1 b2 : Bus), s.cpu.prot = true →
    readSel rm s.past = .ok sel { s.past with bus := b1 } →
    let zf (z : Bool) : State := { cpu := { s.past.cpu with fl.zf := z }, bus := b2 }
    let finds (types : List Nat) (o : Option Desc) : Prop := probe sel types s.past.cpu b1 = .ok o b2
    (∀ (osz : OpSize) (r : Gpr),
      (finds [1, 2, 3, 4, 5, 9, 11, 12] none → exec (.lar osz r rm) s = .next (zf false) ∧ Stored s.cpu [] s.bus b2)
      ∧ (∀ d, finds [1, 2, 3, 4, 5, 9, 11, 12] (some d) →
        (∃ x : W32, exec (.lar osz r rm) s = .next
          { cpu := { (zf true).cpu with
              gpr := s.cpu.gpr.setV osz r
                (((d.dw2 &&& 0x00F0FF00#32) ||| (x &&& 0x000F0000#32)).setWidth osz.bits) }
            bus := { b2 with freeCtr := b2.freeCtr + 1 } })
        ∧ Stored s.cpu [] s.bus b2)
      ∧ (finds [1, 2, 3, 9, 11] none → exec (.lsl osz r rm) s = .next (zf false) ∧ Stored s.cpu [] s.bus b2)
      ∧ (∀ d, finds [1, 2, 3, 9, 11] (some d) →
        exec (.lsl osz r rm) s = .next
            { zf true with
              cpu := { (zf true).cpu with gpr := s.cpu.gpr.setV osz r (d.limit.setWidth osz.bits) } }
          ∧ Stored s.cpu [] s.bus b2))
    ∧ (∀ o, finds [] o →
      exec (.verr rm) s = .next (zf (o.any (·.readable))) ∧ exec (.verw rm) s = .next (zf (o.any (·.writable)))
        ∧ Stored s.cpu [] s.bus b2))
  ∧ (∀ (sel : W16) (types : List Nat) (c : Cpu) (b b1 : Bus) (d : Desc),
    probe sel types c b = .ok (some d) b1 ↔
      selNull sel = false ∧ fetchDesc sel c b = .ok (some d) b1 ∧ (d.s = true ∨ d.isSys types = true)
        ∧ (d.conforming = true ∨ (c.cpl.toNat ≤ d.dpl.toNat ∧ (selRpl sel).toNat ≤ d.dpl.toNat)))
  ∧ (∀ (s : State) (osz : OpSize) (r : Gpr) (rm : Rm), s.cpu.prot = false →
    ∀ i ∈ [Instr.lar osz r rm, .lsl osz r rm, .verr rm, .verw rm, .arpl rm r], exec i s = s.raises .ud s.bus)
  ∧ (∀ (s : State) (r : Gpr), s.cpu.prot = true →
      let src : W16 := s.cpu.gpr.getV .w16 r
      let raised (dst : W16) : W16 := dst.extractLsb' 2 14 ++ selRpl src
      (∀ x : Gpr,
        let dst : W16 := s.cpu.gpr.getV .w16 x
        exec (.arpl (.reg x) r) s = .next
          (if (selRpl dst).toNat < (selRpl src).toNat then
            { s.past with
              cpu := { s.past.cpu with gpr := s.cpu.gpr.setV .w16 x (raised dst), fl.zf := true } }
          else { s.past with cpu := { s.past.cpu with fl.zf := false } }))
      ∧ (∀ (m : MemOp) (dst : W16) (p : Phys) (b1 : Bus),
        memReadMayWrite 16 m.segment (m.off s.cpu) s.past.cpu s.bus = .ok (dst, p) b1 →
        (selRpl src).toNat ≤ (selRpl dst).toNat →
        exec (.arpl (.mem m) r) s = .next { cpu := { s.past.cpu with fl.zf := false }, bus := b1 }
          ∧ Stored s.cpu [] s.bus b1)
      ∧ (∀ (m : MemOp) (dst : W16) (p : Phys) (b2 : Bus),
        MayModify s.past.cpu s.bus m.segment (m.off s.cpu) dst (raised dst) p b2 →
        (selRpl dst).toNat < (selRpl src).toNat →
        exec (.arpl (.mem m) r) s = .next { cpu := { s.past.cpu with fl.zf := true }, bus := b2 }
          ∧ Stored s.cpu p.addrs s.bus b2))

/-! System instructions. -/

/-- LGDT, LIDT, SGDT and SIDT complete at privilege level 0 (the stores at any) where their 6 bytes lie in the segment and
can be accessed: the limit is at the lower address; with a 16-bit operand size the base has 24 bits, and the byte stored
above it is open. Where the segment does not hold all 6 bytes, nothing is read or stored and #GP(0) or #SS(0) is raised;
where the base cannot be stored, neither is the limit (R482 to R485, R262, R977; log 10). -/
def Obligations.TableRegisterLoadsAndStores : Prop :=
  ∀ (s : State) (osz : OpSize) (m : MemOp),
    let check (write : Bool) : Option Exc := segCheck s.cpu m.segment (m.off s.cpu) 6 write
    (∀ (limit : W16) (base : W32) (b1 b2 : Bus), s.cpu.unprivileged = false → check false = none →
      loadMem 16 m 2 s.past = .ok limit { s.past with bus := b1 } →
      loadAt 32 m 2 { s.past with bus := b1 } = .ok base { s.past with bus := b2 } →
      let t : TableReg := { base := if osz = .w16 then base &&& 0x00FFFFFF#32 else base, limit }
      exec (.lgdt osz m) s = .next { cpu := { s.past.cpu with gdtr := t }, bus := b2.serialized }
        ∧ exec (.lidt osz m) s = .next
          { cpu := { s.past.cpu with idtr := t, smm.lidtDone := true }, bus := b2.serialized }
        ∧ Stored s.cpu [] s.bus b2)
    ∧ (∀ (t : TableReg) (i : Instr) (p : Phys) (b1 : Bus),
      (i = .sgdt osz m ∧ t = s.cpu.gdtr) ∨ (i = .sidt osz m ∧ t = s.cpu.idtr) → check true = none →
      memPrepare m.segment (m.off s.cpu) 2 2 true s.past.cpu s.bus = .ok p b1 →
      (∀ (q : Phys) (b2 b3 b4 : Bus), memPrepare m.segment (m.off s.cpu + 2#32) 4 4 true s.past.cpu b1 = .ok q b2 →
        let top : Byte := if osz = .w16 then (Config.freeWord b2.freeCtr).extractLsb' 24 8 else t.base.extractLsb' 24 8
        writePhys p (leBytes 2 t.limit.toNat) s.past.cpu
          { b2 with freeCtr := b2.freeCtr + if osz = .w16 then 1 else 0 } = .ok () b3 →
        writePhys q (leBytes 4 (top ++ t.base.extractLsb' 0 24).toNat) s.past.cpu b3 = .ok () b4 →
        exec i s = .next { s.past with bus := b4 } ∧ Stored s.cpu (p.addrs ++ q.addrs) s.bus b4)
      ∧ ∀ (e : Exc) (b2 : Bus), e.commit = false →
        memPrepare m.segment (m.off s.cpu + 2#32) 4 4 true s.past.cpu b1 = .error (.exc e) b2 →
        exec i s = s.raises e b2 ∧ Stored s.cpu [] s.bus b2)
    ∧ (∀ e, check false = some e → s.cpu.unprivileged = false →
      exec (.lgdt osz m) s = s.raises e s.bus ∧ exec (.lidt osz m) s = s.raises e s.bus)
    ∧ (∀ e, check true = some e →
      exec (.sgdt osz m) s = s.raises e s.bus ∧ exec (.sidt osz m) s = s.raises e s.bus)

/-- LLDT and LTR complete in protected mode at privilege level 0 where their selector can be read and names an available
descriptor of the GDT: LDTR or TR holds it, LTR marks it busy in memory; LLDT of a null selector makes LDTR unusable. Which
descriptors are accepted is said too, and which exception the others raise: #GP with the selector for one with TI = 1, one
beyond the limit of the GDT, and a descriptor of another type, #NP for one that is not present (R486, R488, R157). The error
code of a selector with TI = 1 keeps its TI bit: the model's choice between R486 and vector 8 of R550 (log 40). -/
def Obligations.LldtLtrLoadDescriptors : Prop :=
  (∀ (s : State) (rm : Rm) (sel : W16) (b1 : Bus), s.cpu.prot = true → s.cpu.unprivileged = false →
    readSel rm s.past = .ok sel { s.past with bus := b1 } →
    (selNull sel = true →
      exec (.lldt rm) s = .next
          { cpu := { s.past.cpu with ldtr := { s.cpu.ldtr with sel := sel, unusable := true } }, bus := b1.serialized }
        ∧ exec (.ltr rm) s = s.raises (.gp 0#32) b1 ∧ Stored s.cpu [] s.bus b1)
    ∧ (∀ (d : Desc) (b2 : Bus), selNull sel = false → systemDesc sel [2] s.past.cpu b1 = .ok d b2 →
      exec (.lldt rm) s = .next { cpu := { s.past.cpu with ldtr := d.reg sel }, bus := b2.serialized }
        ∧ Stored s.cpu [] s.bus b2)
    ∧ (∀ (d : Desc) (b2 b3 : Bus), selNull sel = false → systemDesc sel [1, 9] s.past.cpu b1 = .ok d b2 →
      setBusy d s.past.cpu b2 = .ok () b3 →
      exec (.ltr rm) s = .next
          { cpu := { s.past.cpu with tr := { d.reg sel with typ := d.typ ||| 2#4 } }, bus := b3.serialized }
        ∧ Stored s.cpu (rightsAddrs d s.past.cpu b2) s.bus b3)
    ∧ ∀ (i : Instr) (types : List Nat) (e : Exc) (b2 : Bus), selNull sel = false → e.commit = false →
      (i = .lldt rm ∧ types = [2]) ∨ (i = .ltr rm ∧ types = [1, 9]) →
      systemDesc sel types s.past.cpu b1 = .error (.exc e) b2 →
      exec i s = s.raises e b2 ∧ Stored s.cpu [] s.bus b2)
  ∧ (∀ (sel : W16) (types : List Nat) (d : Desc) (c : Cpu) (b b1 : Bus),
    (selTi sel = true → systemDesc sel types c b = .error (.exc (.gp (selCode sel))) b)
    ∧ (selTi sel = false → fetchDesc sel c b = .ok none b1 →
      systemDesc sel types c b = .error (.exc (.gp (selCode sel))) b1)
    ∧ (selTi sel = false → fetchDesc sel c b = .ok (some d) b1 →
      systemDesc sel types c b =
        if d.isSys types = false then .error (.exc (.gp (selCode sel))) b1
        else if d.p = false then .error (.exc (.np (selCode sel))) b1
        else .ok d b1))

/-- MOV from CR0, CR2, CR3 and CR4, and LMSW, complete at privilege level 0, SMSW at any: the register read, PE to TS
written with PE not cleared, the machine status word stored. A move from another control register raises #UD. The status
flags after a move, and the upper half that SMSW writes, are open (R490 to R496, R506, R507; log 9, log 10). -/
def Obligations.ControlRegisterReads : Prop :=
  ∀ (s : State),
    (s.cpu.unprivileged = false →
      ∀ (n : BitVec 3) (r : Gpr),
        (∀ v : W32, (n = 0#3 ∧ v = s.cpu.ctl.cr0) ∨ (n = 2#3 ∧ v = s.cpu.ctl.cr2) ∨ (n = 3#3 ∧ v = s.cpu.ctl.cr3)
            ∨ (n = 4#3 ∧ v = s.cpu.ctl.cr4) →
          ∃ f, exec (.movRCr n r) s = .next
            { cpu := { s.past.cpu with gpr := s.cpu.gpr.set r v, fl := s.cpu.fl.statusFrom f }
              bus := { s.bus with freeCtr := s.bus.freeCtr + 1 } })
        ∧ (n = 1#3 ∨ n = 5#3 ∨ n = 6#3 ∨ n = 7#3 → exec (.movRCr n r) s = s.raises .ud s.bus))
    ∧ (∀ (rm : Rm) (v : W16) (b1 : Bus), s.cpu.unprivileged = false →
      readSel rm s.past = .ok v { s.past with bus := b1 } →
      let n : W32 := (s.cpu.ctl.cr0 &&& 0xFFFFFFF1#32) ||| (v.setWidth 32 &&& 0xF#32)
      exec (.lmsw rm) s = .next
          { cpu := { s.past.cpu with ctl.cr0 := n }
            bus := (if bit n 0 = s.cpu.pe then b1 else b1.flushAll).serialized }
        ∧ Stored s.cpu [] s.bus b1)
    ∧ (∀ (osz : OpSize) (r : Gpr), ∃ x : W32, x.extractLsb' 0 16 = s.cpu.ctl.cr0.extractLsb' 0 16 ∧
      exec (.smsw osz (.reg r)) s = .next
        { cpu := { s.past.cpu with gpr := s.cpu.gpr.setV osz r (x.setWidth osz.bits) }
          bus := { s.bus with freeCtr := s.bus.freeCtr + 1 } })
    ∧ (∀ (osz : OpSize) (m : MemOp) (p : Phys) (b2 : Bus),
      Writes s.past.cpu { s.bus with freeCtr := s.bus.freeCtr + 1 } m.segment (m.off s.cpu) 2
        (s.cpu.ctl.cr0.extractLsb' 0 16).toNat p b2 →
      exec (.smsw osz (.mem m)) s = .next { s.past with bus := b2 } ∧ Stored s.cpu p.addrs s.bus b2)

/-- MOV to a control register at privilege level 0. CR0 takes the value with its reserved bits fixed, and refuses PG without
PE and NW without CD with #GP(0); CR2 and CR3 take every value; CR4 refuses reserved bits with #GP(0), and in SMM PAE too
(the model's choice: log 53); CR1 and CR5 to CR7 raise #UD. The translations that a change of PE, PG, PSE, PAE or PGE, or a
write of CR3, drops are gone, and the page-directory-pointer entries are read again where R226 says so: one that is not
present or has a reserved bit set (R221, R232) raises #GP(0) before any register has changed. After a change of PG the
fetches before the next jump may still use the old one (R497; log 52). The status flags are open (R490 to R497; log 9). -/
def Obligations.ControlRegisterWrites : Prop :=
  ∀ (s : State) (r : Gpr), s.cpu.unprivileged = false →
    let v := s.cpu.gpr.get r
    let ends (n : BitVec 3) (c : Cpu) (b : Bus) : Prop :=
      ∃ f, exec (.movCrR n r) s = .next
        { cpu := { c with fl := s.cpu.fl.statusFrom f }
          bus := { Bus.serialized { b with freeCtr := b.freeCtr + 1 } with
            oldPg := n == 0#3 && bit v 31 != s.cpu.pg } }
    let gp (n : BitVec 3) : Prop := exec (.movCrR n r) s = s.raises (.gp 0#32) s.bus
    let badTable (n : BitVec 3) (needs : Bool) (cr3 : W32) : Prop :=
      ∀ b1, needs = true → readPdptes cr3 s.past.cpu s.bus = .error (.exc (.gp 0#32)) b1 →
        exec (.movCrR n r) s = s.raises (.gp 0#32) b1 ∧ b1.mem = s.bus.mem
    let bad4 : W32 := if s.cpu.smm.inSmm then 0xFFFFF820#32 else 0xFFFFF800#32
    ((bit v 31 = true ∧ bit v 0 = false) ∨ (bit v 29 = true ∧ bit v 30 = false) → gp 0#3)
    ∧ (∀ (c1 : Cpu) (b1 : Bus), (bit v 31 = true → bit v 0 = true) → (bit v 29 = true → bit v 30 = true) →
      LoadsPdptes (bit v 31 && !s.cpu.pg && bit s.cpu.ctl.cr4 5) s.cpu.ctl.cr3 s.past.cpu s.bus c1 b1 →
      ends 0#3 { c1 with ctl.cr0 := (v &&& 0xE005003F#32) ||| 0x10#32 }
        (if bit v 31 = s.cpu.pg ∧ bit v 0 = s.cpu.pe then b1 else b1.flushAll))
    ∧ ((bit v 31 = true → bit v 0 = true) → (bit v 29 = true → bit v 30 = true) →
      badTable 0#3 (bit v 31 && !s.cpu.pg && bit s.cpu.ctl.cr4 5) s.cpu.ctl.cr3)
    ∧ badTable 3#3 (s.cpu.pg && bit s.cpu.ctl.cr4 5) v
    ∧ (v &&& bad4 = 0#32 → badTable 4#3 (bit v 5 && !bit s.cpu.ctl.cr4 5 && s.cpu.pg) s.cpu.ctl.cr3)
    ∧ (∀ (cr3 : W32) (t : MemType),
      let table := cr3.toNat / 32 * 32
      incoherent s.cpu s.bus = false →
      memType s.cpu (some ⟨s.cpu.patField (cr3.extractLsb' 3 2 |>.setWidth 3), none⟩) table = .ok t →
      (∃ i, i < 4 ∧ let e := Walk.value s.bus (table + 8 * i) 8
        e.testBit 0 = false ∨ e / 2 % 4 ≠ 0 ∨ e / 2 ^ 5 % 2 ^ 4 ≠ 0 ∨ e / 2 ^ 36 ≠ 0) →
      readPdptes cr3 s.past.cpu s.bus = .error (.exc (.gp 0#32)) s.bus.accessed)
    ∧ ends 2#3 { s.past.cpu with ctl.cr2 := v } s.bus
    ∧ (∀ (c1 : Cpu) (b1 : Bus), LoadsPdptes (s.cpu.pg && bit s.cpu.ctl.cr4 5) v s.past.cpu s.bus c1 b1 →
      ends 3#3 { c1 with ctl.cr3 := v } b1.flushLocal)
    ∧ (v &&& bad4 ≠ 0#32 → gp 4#3)
    ∧ (∀ (c1 : Cpu) (b1 : Bus), v &&& bad4 = 0#32 →
      LoadsPdptes (bit v 5 && !bit s.cpu.ctl.cr4 5 && s.cpu.pg) s.cpu.ctl.cr3 s.past.cpu s.bus c1 b1 →
      ends 4#3 { c1 with ctl.cr4 := v }
        (if bit v 4 = bit s.cpu.ctl.cr4 4 ∧ bit v 5 = bit s.cpu.ctl.cr4 5 ∧ bit v 7 = bit s.cpu.ctl.cr4 7 then b1
         else b1.flushAll))
    ∧ ∀ n : BitVec 3, n = 1#3 ∨ n = 5#3 ∨ n = 6#3 ∨ n = 7#3 → exec (.movCrR n r) s = s.raises .ud s.bus

/-- CLTS, encoded `0F 06`, clears CR0.TS at privilege level 0 and changes nothing else; elsewhere it raises #GP(0)
(R508). -/
def Obligations.CltsClearsTaskSwitched : Prop :=
  (∀ d : Bool, Decode.decode d [0x0F#8, 0x06#8] = .ok .clts 2)
  ∧ ∀ s : State,
    (s.cpu.unprivileged = false →
      exec .clts s = .next { s.past with cpu := { s.past.cpu with ctl.cr0 := s.cpu.ctl.cr0 &&& ~~~8#32 } })
    ∧ (s.cpu.unprivileged = true → exec .clts s = s.raises (.gp 0#32) s.bus)

/-- The privileged instructions raise #GP(0) outside privilege level 0, before they access memory; LLDT and LTR do so in
protected mode, and raise #UD elsewhere; moves to and from debug registers are allowed in SMM (R480, R481, R1222, R966).
That the check of privilege comes before the accesses to operands in memory, and before the #UD of a control register that
does not exist, is decision D127 of R480 and R494. -/
def Obligations.PrivilegedInstructionsFaultOutsideLevelZero : Prop :=
  ∀ (s : State) (osz : OpSize) (m : MemOp) (rm : Rm) (n : BitVec 3) (r : Gpr),
    (s.cpu.unprivileged = true →
      ∀ i ∈ [Instr.lgdt osz m, .lidt osz m, .lmsw rm, .invlpg m, .clts, .invd, .wbinvd, .movRCr n r, .movCrR n r,
          .rdmsr, .wrmsr, .hlt],
        exec i s = s.raises (.gp 0#32) s.bus)
    ∧ (s.cpu.unprivileged = true → s.cpu.smm.inSmm = false →
      exec (.movRDr n r) s = s.raises (.gp 0#32) s.bus ∧ exec (.movDrR n r) s = s.raises (.gp 0#32) s.bus)
    ∧ (s.cpu.prot = true → s.cpu.unprivileged = true →
      exec (.lldt rm) s = s.raises (.gp 0#32) s.bus ∧ exec (.ltr rm) s = s.raises (.gp 0#32) s.bus)
    ∧ (s.cpu.prot = false → exec (.lldt rm) s = s.raises .ud s.bus ∧ exec (.ltr rm) s = s.raises .ud s.bus)

/-- At privilege level 0: INVLPG drops the cached translations of the page of its address, without an access; WBINVD empties
the caches and changes no memory; HLT halts, and where it stands is kept for SMM; INVD may give any byte overwritten since
the last write-back one of its old values, and changes no other byte (R512, R513, R392, R393, R530; log 12, log 14). -/
def Obligations.InvalidationAndHalt : Prop :=
  ∀ s : State, s.cpu.unprivileged = false →
    (∀ m : MemOp, exec (.invlpg m) s = .next
      { s.past with
        bus := { s.bus with
          tlb := s.bus.tlb.filter fun e => !e.covers ((s.cpu.seg.get m.segment).linear (m.off s.cpu))
          stale := [], oldPg := false } })
    ∧ exec .wbinvd s = .next
      { s.past with bus := { s.bus with lossy := [], lines := false, stale := [], oldPg := false } }
    ∧ exec .hlt s = .next
      { s.past with
        cpu := { s.past.cpu with hid := { s.cpu.hid with run := .halted, haltEip := s.cpu.notes.start } } }
    ∧ ∃ (mem : Memory) (k : Nat),
      exec .invd s = .next
        { s.past with
          bus := { s.bus with
            mem := mem, freeCtr := k, lossy := [], lines := false, stale := [], oldPg := false } }
      ∧ (s.bus.mem.wf = true → ∀ a, mem.read a = s.bus.mem.read a ∨ (a, mem.read a) ∈ s.bus.lossy)

/-- MOV to and from debug registers, where allowed: 4 and 5 are 6 and 7; DR0 to DR3 take every value, DR6 and DR7 with
their reserved bits fixed; nothing else changes. With CR4.DE set, 4 and 5 raise #UD; with DR7.GD set, an access raises
#DB and reports BD (R1222 to R1226, R1235). That the reserved bits of DR6 and DR7 stay as they read is the model's choice
(log 30, U100); the order of the checks is decision D100. -/
def Obligations.DebugRegisterMoves : Prop :=
  ∀ (s : State) (n : BitVec 3) (r : Gpr),
    let v := s.cpu.gpr.get r
    let d := s.cpu.dbg
    let reads (x : W32) : Prop :=
      exec (.movRDr n r) s = .next { s.past with cpu := { s.past.cpu with gpr := s.cpu.gpr.set r x } }
    let leaves (d : Dbg) : Prop :=
      exec (.movDrR n r) s = .next { cpu := { s.past.cpu with dbg := d }, bus := s.bus.serialized }
    (s.cpu.drAllowed n = true →
      (n = 0#3 → reads d.dr0 ∧ leaves { d with dr0 := v }) ∧ (n = 1#3 → reads d.dr1 ∧ leaves { d with dr1 := v })
      ∧ (n = 2#3 → reads d.dr2 ∧ leaves { d with dr2 := v }) ∧ (n = 3#3 → reads d.dr3 ∧ leaves { d with dr3 := v })
      ∧ (n = 4#3 ∨ n = 6#3 → reads d.dr6 ∧ leaves { d with dr6 := (v &&& 0x0000E00F#32) ||| 0xFFFF0FF0#32 })
      ∧ (n = 5#3 ∨ n = 7#3 → reads d.dr7 ∧ leaves { d with dr7 := (v &&& 0xFFFF23FF#32) ||| 0x00000400#32 }))
    ∧ (s.cpu.smm.inSmm = true ∨ s.cpu.unprivileged = false →
      ((n = 4#3 ∨ n = 5#3) ∧ bit s.cpu.ctl.cr4 3 = true →
        exec (.movRDr n r) s = s.raises .ud s.bus ∧ exec (.movDrR n r) s = s.raises .ud s.bus)
      ∧ (¬((n = 4#3 ∨ n = 5#3) ∧ bit s.cpu.ctl.cr4 3 = true) → bit d.dr7 13 = true →
        exec (.movRDr n r) s = s.raises (.db 0x2000#32) s.bus
          ∧ exec (.movDrR n r) s = s.raises (.db 0x2000#32) s.bus))

/-- RDMSR and WRMSR at privilege level 0: a register is read into EDX:EAX, or takes the value of EDX:EAX if it accepts it; no
such register, or a value it does not accept, raises #GP(0). Writing a memory-type range register drops every cached
translation, and what is then read back is what was written (R520, R521, R241; branch records: log 32, log 33). That WRMSR of
79H wants EDX = 0 and that RDMSR of 79H gives 0 are the model's choices (log 36). -/
def Obligations.MsrReadsAndWrites : Prop :=
  (∀ s : State, s.cpu.unprivileged = false →
    let a := s.cpu.gpr.ecx.toNat
    let v : W64 := s.cpu.gpr.edx ++ s.cpu.gpr.eax
    let gp (i : Instr) : Prop := exec i s = s.raises (.gp 0#32) s.bus
    (s.cpu.msr.traceFree a = false →
      (s.cpu.msr.get a = none → gp .rdmsr)
      ∧ ∀ x, s.cpu.msr.get a = some x →
        exec .rdmsr s = .next
          { s.past with
            cpu := { s.past.cpu with
              gpr := { s.cpu.gpr with eax := x.extractLsb' 0 32, edx := x.extractLsb' 32 32 } } })
    ∧ (s.cpu.msr.traceFree a = true → ∃ f, exec .rdmsr s = .next
        { cpu := { s.past.cpu with gpr := { s.cpu.gpr with eax := f, edx := 0#32 } }
          bus := { s.bus with freeCtr := s.bus.freeCtr + 1 } })
    ∧ (a ≠ 0x79 →
      (s.cpu.msr.set a v = none → gp .wrmsr)
      ∧ (∀ m, s.cpu.msr.set a v = some m →
        ¬(a = 0x1D9 ∧ s.cpu.msr.debugCtl.getLsbD 6 = true ∧ v.getLsbD 6 = false) →
        exec .wrmsr s = .next
          { cpu := { s.past.cpu with msr := m }
            bus := (if isMtrr a then s.bus.flushAll else s.bus).serialized })
      ∧ (∀ m, s.cpu.msr.set a v = some m → a = 0x1D9 → s.cpu.msr.debugCtl.getLsbD 6 = true → v.getLsbD 6 = false →
        ∃ w x y z, exec .wrmsr s = .next
          { cpu := { s.past.cpu with
              msr := { m with lastBranchFrom := w, lastBranchTo := x, lastExcFrom := y, lastExcTo := z } }
            bus := Bus.serialized { s.bus with freeCtr := s.bus.freeCtr + 4 } }))
    ∧ (a = 0x79 →
      (s.cpu.gpr.edx ≠ 0#32 → gp .wrmsr)
      ∧ ∀ block b1, s.cpu.gpr.edx = 0#32 →
        linBytes (s.cpu.gpr.eax - 48#32) 2048 false s.past.cpu s.bus = .ok block b1 →
        exec .wrmsr s = .next
            { cpu := { s.past.cpu with
                msr.mcuRevision := (updateRevision s.cpu.msr block).getD s.cpu.msr.mcuRevision }
              bus := b1.serialized }
          ∧ Stored s.cpu [] s.bus b1))
  ∧ ∀ (m m1 : Machine.Msrs) (a : Nat) (v : W64), isMtrr a = true → m.set a v = some m1 →
    m1.get a = some v ∧ ∀ a', a' ≠ a → m1.get a' = m.get a'

/-- RDTSC gives the time-stamp counter in EDX:EAX, unless CR4.TSD is set outside privilege level 0; RDPMC a performance
counter, if CR4.PCE is set or the level is 0, and ECX names one; otherwise #GP(0). CPUID gives the leaf of EAX; leaf 0
spells GenuineIntel (R1262, R1270, R533; values: log 4). -/
def Obligations.CountersAndCpuid : Prop :=
  ∀ s : State,
    let reads (i : Instr) (v : W64) : Prop := exec i s = .next
      { s.past with
        cpu := { s.past.cpu with
          gpr := { s.cpu.gpr with eax := v.extractLsb' 0 32, edx := v.extractLsb' 32 32 } } }
    let gp (i : Instr) : Prop := exec i s = s.raises (.gp 0#32) s.bus
    let outer : Prop := s.cpu.pe = true ∧ s.cpu.cpl ≠ 0#2
    (¬(outer ∧ bit s.cpu.ctl.cr4 2 = true) → reads .rdtsc s.cpu.msr.tsc)
    ∧ (outer ∧ bit s.cpu.ctl.cr4 2 = true → gp .rdtsc)
    ∧ (¬(outer ∧ bit s.cpu.ctl.cr4 8 = false) →
      (s.cpu.gpr.ecx = 0#32 → reads .rdpmc (s.cpu.msr.perfCtr0.setWidth 64))
      ∧ (s.cpu.gpr.ecx = 1#32 → reads .rdpmc (s.cpu.msr.perfCtr1.setWidth 64))
      ∧ (s.cpu.gpr.ecx ≠ 0#32 ∧ s.cpu.gpr.ecx ≠ 1#32 → gp .rdpmc))
    ∧ (outer ∧ bit s.cpu.ctl.cr4 8 = false → gp .rdpmc)
    ∧ (∀ a b x d : W32,
      (s.cpu.gpr.eax = 0#32 ∧ a = Config.cpuidMaxLeaf ∧ b = 0x756E6547#32 ∧ d = 0x49656E69#32 ∧ x = 0x6C65746E#32)
        ∨ (s.cpu.gpr.eax = 1#32 ∧ a = Config.cpuidSignature ∧ b = 0#32 ∧ x = 0#32
          ∧ d = (if s.cpu.msr.apicBase.getLsbD 11 then Config.cpuidFeatures else Config.cpuidFeatures &&& 0xFFFFFDFF#32))
        ∨ (s.cpu.gpr.eax ≠ 0#32 ∧ s.cpu.gpr.eax ≠ 1#32 ∧ a = Config.cpuidLeaf2 0 ∧ b = Config.cpuidLeaf2 1
          ∧ x = Config.cpuidLeaf2 2 ∧ d = Config.cpuidLeaf2 3) →
      exec .cpuid s = .next
        { cpu := { s.past.cpu with
            gpr := { s.cpu.gpr with eax := a, ebx := b, ecx := x, edx := d }
            msr.mcuSignature := if s.cpu.msr.mcuRevision = 0#32 then s.cpu.msr.mcuSignature
              else s.cpu.msr.mcuRevision ++ 0#32 }
          bus := s.bus.serialized })

/-- STI and CLI set and clear IF in real-address mode or where CPL is at most IOPL (and so in virtual-8086 mode with IOPL
3, where CPL is 3); STI from IF = 0 holds off interrupts for one instruction. Elsewhere they change VIF where CR4.VME or
CR4.PVI provides it, STI only with VIP = 0; otherwise #GP(0). Nothing else changes (R540, R541). -/
def Obligations.StiCliFollowPrivilege : Prop :=
  ∀ s : State,
    let allowed : Prop := s.cpu.pe = false ∨ s.cpu.cpl.toNat ≤ s.cpu.fl.iopl.toNat
    let virtual : Prop :=
      (s.cpu.fl.vm = true ∧ bit s.cpu.ctl.cr4 0 = true)
        ∨ (s.cpu.fl.vm = false ∧ s.cpu.cpl = 3#2 ∧ bit s.cpu.ctl.cr4 1 = true)
    let gp (i : Instr) : Prop := exec i s = s.raises (.gp 0#32) s.bus
    (allowed →
      exec .cli s = .next { s.past with cpu := { s.past.cpu with fl.if_ := false } }
      ∧ (s.cpu.fl.if_ = true → exec .sti s = .next s.past)
      ∧ (s.cpu.fl.if_ = false → exec .sti s = .next
          { s.past with
            cpu := { s.past.cpu with
              fl.if_ := true, hid.ssShadow := false, hid.stiShadow := true, notes.newShadow := true } }))
    ∧ (¬allowed → virtual →
      exec .cli s = .next { s.past with cpu := { s.past.cpu with fl.vif := false } }
      ∧ (s.cpu.fl.vip = false → exec .sti s = .next { s.past with cpu := { s.past.cpu with fl.vif := true } })
      ∧ (s.cpu.fl.vip = true → gp .sti))
    ∧ (¬allowed → ¬virtual → gp .cli ∧ gp .sti)

/-- PUSHF and POPF complete where their slot can be written or read, but in virtual-8086 mode with IOPL < 3 they raise
#GP(0), or use VIF as IF with CR4.VME and a 16-bit operand. POPF changes IOPL only at privilege level 0, IF only where
CPL is at most IOPL, and never VM, VIF or VIP; a 16-bit one changes no flag above bit 15 (R542, R543, R843). That POPF
with VME completes where VIP = 1 and the image has IF = 1 is the model's choice (log 35). -/
def Obligations.PushfPopfFollowPrivilege : Prop :=
  ∀ (s : State) (osz : OpSize),
    (∀ (as : List Nat) (c1 : Cpu) (b1 : Bus),
      (s.cpu.v86Restricted = false → Pushes osz [.word (s.cpu.fl.toBits &&& 0x00FCFFFF#32)] s.past.cpu s.bus as c1 b1 →
        exec (.pushf osz) s = .next ⟨c1, b1⟩ ∧ c1 = s.past.cpu.setEsp (s.cpu.below osz.bytes)
          ∧ Stored s.cpu as s.bus b1)
      ∧ (s.cpu.v86Restricted = true → bit s.cpu.ctl.cr4 0 = true →
        Pushes .w16 [.word { s.cpu.fl with if_ := s.cpu.fl.vif, iopl := 3#2 }.toBits] s.past.cpu s.bus as c1 b1 →
        exec (.pushf .w16) s = .next ⟨c1, b1⟩ ∧ Stored s.cpu as s.bus b1))
    ∧ (∀ (img : W32) (b1 : Bus), peekW osz 0 s.past = .ok img { s.past with bus := b1 } →
      let f := popfFlags s.cpu osz img
      let up := s.past.cpu.setEsp (s.cpu.stackMove (BitVec.ofNat 32 osz.bytes))
      (s.cpu.v86Restricted = false → exec (.popf osz) s = .next { cpu := { up with fl := f }, bus := b1 })
      ∧ (s.cpu.v86Restricted = true → bit s.cpu.ctl.cr4 0 = true → osz = .w16 → bit img 8 = false →
        exec (.popf osz) s = .next
          { cpu := { up with fl := { s.cpu.fl.merge (.ofBits img) 0x4DD5#32 with vif := bit img 9 } }, bus := b1 })
      ∧ (s.cpu.v86Restricted = true → bit s.cpu.ctl.cr4 0 = true → osz = .w16 → bit img 8 = true →
        exec (.popf osz) s = s.raises (.gp 0#32) b1)
      ∧ Stored s.cpu [] s.bus b1)
    ∧ (s.cpu.v86Restricted = true → bit s.cpu.ctl.cr4 0 = false ∨ osz = .w32 →
      exec (.pushf osz) s = s.raises (.gp 0#32) s.bus ∧ exec (.popf osz) s = s.raises (.gp 0#32) s.bus)
    ∧ ∀ (c : Cpu) (img : W32),
      let f := popfFlags c osz img
      let i : Eflags := .ofBits img
      f.vm = c.fl.vm ∧ f.vif = c.fl.vif ∧ f.vip = c.fl.vip
        ∧ f.iopl = (if c.pe = false ∨ c.cpl = 0#2 then i.iopl else c.fl.iopl)
        ∧ f.if_ = (if c.pe = false ∨ c.cpl.toNat ≤ c.fl.iopl.toNat then i.if_ else c.fl.if_)
        ∧ f.cf = i.cf ∧ f.pf = i.pf ∧ f.af = i.af ∧ f.zf = i.zf ∧ f.sf = i.sf ∧ f.tf = i.tf ∧ f.df = i.df
        ∧ f.of = i.of ∧ f.nt = i.nt
        ∧ (osz = .w16 → f.ac = c.fl.ac ∧ f.id = c.fl.id ∧ f.rf = c.fl.rf)
        ∧ (osz = .w32 → f.ac = i.ac ∧ f.id = i.id ∧ f.rf = false)

/-! x87, MMX and SSE. -/

/-- WAIT, FNINIT and EMMS complete, and LDMXCSR and STMXCSR where their operand can be accessed, when CR0 and CR4 let them
(and no x87 error is pending, for WAIT and EMMS); otherwise #UD, #NM or, for a pending error with CR0.NE = 1, #MF. With NE = 0
an error is ignored while IGNNE# is asserted, and else holds WAIT and EMMS up until it is gone (log 29). LDMXCSR of a
reserved bit raises #GP(0) (R742, R745, R747, R756, R772 to R775). -/
def Obligations.FpuSseControl : Prop :=
  ∀ s : State,
    let mp := bit s.cpu.ctl.cr0 1
    let em := bit s.cpu.ctl.cr0 2
    let ts := bit s.cpu.ctl.cr0 3
    let ne := bit s.cpu.ctl.cr0 5
    let pending := s.cpu.fpu.sw.getLsbD 7 && (ne || !s.bus.ev.ignne)
    let raises (i : Instr) (e : Exc) : Prop := exec i s = s.raises e s.bus
    (mp = true ∧ ts = true → raises .wait .nm)
    ∧ (¬(mp = true ∧ ts = true) →
      (pending = true → if ne then raises .wait .mf else exec .wait s = s.waits)
        ∧ (pending = false → exec .wait s = .next s.past))
    ∧ (em = true ∨ ts = true → raises .fninit .nm)
    ∧ (em = false → ts = false → exec .fninit s = .next
      { s.past with
        cpu := { s.past.cpu with
          fpu := { s.cpu.fpu with
            cw := 0x037F#16, sw := 0#16, tw := 0xFFFF#16, ipSel := 0#16, ipOff := 0#32, dpSel := 0#16
            dpOff := 0#32 } } })
    ∧ (em = true → raises .emms .ud) ∧ (em = false → ts = true → raises .emms .nm)
    ∧ (em = false → ts = false →
      (pending = true → if ne then raises .emms .mf else exec .emms s = s.waits)
      ∧ (pending = false → exec .emms s = .next
        { s.past with
          cpu := { s.past.cpu with fpu.tw := 0xFFFF#16, fpu.sw := s.cpu.fpu.sw &&& 0xC7FF#16 } }))
    ∧ ∀ m : MemOp,
      (em = true ∨ bit s.cpu.ctl.cr4 9 = false → raises (.ldmxcsr m) .ud ∧ raises (.stmxcsr m) .ud)
      ∧ (em = false → bit s.cpu.ctl.cr4 9 = true →
        (ts = true → raises (.ldmxcsr m) .nm ∧ raises (.stmxcsr m) .nm)
        ∧ (ts = false →
          (∀ (v : W32) (b1 : Bus), loadMem 32 m 4 s.past = .ok v { s.past with bus := b1 } →
            (v &&& 0xFFFF0040#32 = 0#32 → exec (.ldmxcsr m) s = .next
              { cpu := { s.past.cpu with sse.mxcsr := v }, bus := b1 })
            ∧ (v &&& 0xFFFF0040#32 ≠ 0#32 → exec (.ldmxcsr m) s = s.raises (.gp 0#32) b1)
            ∧ Stored s.cpu [] s.bus b1)
          ∧ (∀ (p : Phys) (b2 : Bus),
            Writes s.past.cpu s.bus m.segment (m.off s.cpu) 4 s.cpu.sse.mxcsr.toNat p b2 →
            exec (.stmxcsr m) s = .next { s.past with bus := b2 } ∧ Stored s.cpu p.addrs s.bus b2)))

/-- FXSAVE and FXRSTOR complete where CR0 lets them, no x87 error is pending and their 512 bytes, aligned on 16, can be
accessed: FXSAVE stores an image of the x87 state, and of the SSE state if CR4.OSFXSR is set, and changes no register;
FXRSTOR loads what the image holds, #GP(0) if that has a reserved bit of MXCSR set. With EM or TS set both raise #NM. An
address that is not aligned raises #GP(0); a pending error raises #MF with CR0.NE = 1, else holds them up (R742, R745, R748,
R756, R760, R139; reserved bits of the control word in the image are open: log 58; a pending error with NE = 0: log 29). The
model's choices (log 21): the layout of the image; that the alignment is tested before the segment and the pages, and on the
linear address, so that an address not aligned raises #GP(0) whatever these checks would find; and that FXRSTOR with OSFXSR = 0
leaves the SSE state as it is and does not look at its part of the image. -/
def Obligations.FxsaveFxrstorImage : Prop :=
  ∀ (s : State) (m : MemOp),
    let off := bit s.cpu.ctl.cr0 2 || bit s.cpu.ctl.cr0 3
    let pending := s.cpu.fpu.sw.getLsbD 7 && (bit s.cpu.ctl.cr0 5 || !s.bus.ev.ignne)
    (off = true → exec (.fxsave m) s = s.raises .nm s.bus ∧ exec (.fxrstor m) s = s.raises .nm s.bus)
    ∧ (off = false → pending = true →
      if bit s.cpu.ctl.cr0 5 then exec (.fxsave m) s = s.raises .mf s.bus ∧ exec (.fxrstor m) s = s.raises .mf s.bus
      else exec (.fxsave m) s = s.waits ∧ exec (.fxrstor m) s = s.waits)
    ∧ (off = false → pending = false → ((s.cpu.seg.get m.segment).linear (m.off s.cpu)).toNat % 16 ≠ 0 →
      exec (.fxsave m) s = s.raises (.gp 0#32) s.bus ∧ exec (.fxrstor m) s = s.raises (.gp 0#32) s.bus)
    ∧ (off = false → pending = false → ((s.cpu.seg.get m.segment).linear (m.off s.cpu)).toNat % 16 = 0 →
      (∀ (p : Phys) (b1 b2 : Bus), memPrepare m.segment (m.off s.cpu) 512 1 true s.past.cpu s.bus = .ok p b1 →
        writePhys p
          (image Config.fxPlace (Config.fxOther b1.freeCtr) (s.cpu.fxBytes (Config.freeWord b1.freeCtr))) s.past.cpu
          { b1 with freeCtr := b1.freeCtr + 1 } = .ok () b2 →
        exec (.fxsave m) s = .next { s.past with bus := b2 } ∧ Stored s.cpu p.addrs s.bus b2)
      ∧ (∀ (img : List Byte) (b1 : Bus), memBytes m.segment (m.off s.cpu) 512 1 s.past.cpu s.bus = .ok img b1 →
        let f := Fpu.ofBytes (unimage Config.fxPlace img 100)
        let x := Sse.ofBytes ((unimage Config.fxPlace img 232).drop 100)
        (bit s.cpu.ctl.cr4 9 = false →
          exec (.fxrstor m) s = .next { cpu := { s.past.cpu with fpu := f }, bus := b1 })
        ∧ (bit s.cpu.ctl.cr4 9 = true → x.mxcsr &&& 0xFFFF0040#32 = 0#32 →
          exec (.fxrstor m) s = .next { cpu := { s.past.cpu with fpu := f, sse := x }, bus := b1 })
        ∧ (bit s.cpu.ctl.cr4 9 = true → x.mxcsr &&& 0xFFFF0040#32 ≠ 0#32 →
          exec (.fxrstor m) s = s.raises (.gp 0#32) b1)
        ∧ Stored s.cpu [] s.bus b1))

/-! Input and output, SMM. -/

/-- IN and OUT complete where the port may be accessed and no breakpoint register is set up in an undefined way: the
access is recorded for the devices, IN loads AL or eAX with what they answer; no memory is stored. The access is allowed
in real-address mode, and in protected mode where CPL is at most IOPL (R600, R601, R314; devices: log 20). Elsewhere, and in
virtual-8086 mode, the I/O permission bit map of the TSS decides: an access of which a bit is set in the map, or whose bits
lie beyond the TSS, raises #GP(0) and does no I/O (R314, R315; how the map is indexed is general knowledge, U120; a
16-bit TSS has no map). -/
def Obligations.InputAndOutput : Prop :=
  (∀ (s : State) (port : W16) (b1 : Bus), undefinedBreakpoint s.cpu = false →
    let after (n : Nat) (v : Option W32) : Bus :=
      { b1 with io := b1.io ++ [(port, n, v)], hits := b1.hits ||| ioMatches s.past.cpu port n }
    let t (g : Gprs) (n : Nat) (v : Option W32) : State :=
      { cpu := { s.past.cpu with gpr := g, notes.ioEip := some s.cpu.notes.start }, bus := after n v }
    (ioCheck port 1 s.past.cpu s.bus = .ok () b1 →
      let al := (Config.ioRead b1.io port 1).extractLsb' 0 8
      (port = s.cpu.gpr.edx.extractLsb' 0 16 →
        exec .inAlDx s = .next (t (s.cpu.gpr.set8 .al al) 1 none)
          ∧ exec .outDxAl s = .next (t s.cpu.gpr 1 (some ((s.cpu.gpr.get8 .al).setWidth 32))))
      ∧ (∀ imm : Byte, port = imm.setWidth 16 →
        exec (.inAlImm8 imm) s = .next (t (s.cpu.gpr.set8 .al al) 1 none)
          ∧ exec (.outImm8Al imm) s = .next (t s.cpu.gpr 1 (some ((s.cpu.gpr.get8 .al).setWidth 32))))
      ∧ Stored s.cpu [] s.bus b1)
    ∧ (∀ osz : OpSize, ioCheck port osz.bytes s.past.cpu s.bus = .ok () b1 →
      let g := s.cpu.gpr.setV osz .eax ((Config.ioRead b1.io port osz.bytes).setWidth osz.bits)
      let out := some ((s.cpu.gpr.getV osz .eax).setWidth 32)
      (port = s.cpu.gpr.edx.extractLsb' 0 16 →
        exec (.inEaxDx osz) s = .next (t g osz.bytes none)
          ∧ exec (.outDxEax osz) s = .next (t s.cpu.gpr osz.bytes out))
      ∧ (∀ imm : Byte, port = imm.setWidth 16 →
        exec (.inEaxImm8 osz imm) s = .next (t g osz.bytes none)
          ∧ exec (.outImm8Eax osz imm) s = .next (t s.cpu.gpr osz.bytes out))
      ∧ Stored s.cpu [] s.bus b1))
  ∧ (∀ (s : State) (port : W16) (n : Nat) (b1 : Bus) (i : Instr),
    ioCheck port n s.past.cpu s.bus = .error (.exc (.gp 0#32)) b1 →
    (port = s.cpu.gpr.edx.extractLsb' 0 16 ∧ ((n = 1 ∧ (i = .inAlDx ∨ i = .outDxAl))
        ∨ ∃ osz : OpSize, n = osz.bytes ∧ (i = .inEaxDx osz ∨ i = .outDxEax osz)))
      ∨ (∃ imm : Byte, port = imm.setWidth 16 ∧ ((n = 1 ∧ (i = .inAlImm8 imm ∨ i = .outImm8Al imm))
        ∨ ∃ osz : OpSize, n = osz.bytes ∧ (i = .inEaxImm8 osz imm ∨ i = .outImm8Eax osz imm))) →
    exec i s = s.raises (.gp 0#32) b1 ∧ Stored s.cpu [] s.bus b1)
  ∧ ∀ (c : Cpu) (b : Bus) (port : W16) (n : Nat), n ≤ 4 →
    let free : Prop := c.pe = false ∨ (c.fl.vm = false ∧ c.cpl.toNat ≤ c.fl.iopl.toNat)
    let refuses (b1 : Bus) : Prop := ioCheck port n c b = .error (.exc (.gp 0#32)) b1
    (free → ioCheck port n c b = .ok () b)
    ∧ (¬free → wideTss c.tr.typ = false → refuses b)
    ∧ ∀ (map : Nat) (b1 : Bus), ¬free → wideTss c.tr.typ = true → sysRead (c.tr.base + 102#32) 2 c b = .ok map b1 →
      let first := map + port.toNat / 8
      (c.tr.limit.toNat < first + 1 → refuses b1)
      ∧ ∀ (w : Nat) (b2 : Bus), first + 1 ≤ c.tr.limit.toNat →
        sysRead (c.tr.base + BitVec.ofNat 32 first) 2 c b1 = .ok w b2 →
        ((∀ k, k < n → w.testBit (port.toNat % 8 + k) = false) → ioCheck port n c b = .ok () b2)
        ∧ ((∃ k, k < n ∧ w.testBit (port.toNat % 8 + k) = true) → refuses b2)

/-- RSM in SMM completes where the map holds what entry saved, its bytes being memory of a defined type and the caches coherent
(log 22): registers, flags, EIP and the
state-save base come from the map, the rest from what entry saved. With the halt flag set EIP is that of the HLT, which is
executed again; with the I/O restart field FFH it is that of the I/O instruction. An image of CR0 that is illegal shuts
the processor down with the registers loaded, CR0 and CR4 too, still in SMM, with CPL 0 (R52). RSM outside SMM, and UD2, raise
#UD (R1115, R1116, R1121, R1122, R1139, R1142, R1145, R966). That LDTR and TR get their selectors alone, that GDTR and IDTR stay
as the handler left them, that the HLT is fetched again, and that an illegal CR0 has its reserved bits fixed, are the
model's choices (log 22). -/
def Obligations.RsmRestoresSavedState : Prop :=
  (∀ (s : State) (v : SmmSaved), s.cpu.smm.inSmm = true → s.cpu.smm.saved = some v →
    (∀ a ∈ smmAddrs s.cpu 0x7E00 0x200, s.bus.absent a = false ∧ ∃ ty, memType s.cpu none a = .ok ty) →
    incoherent s.cpu s.bus = false →
    let f (off : Nat) : W32 := BitVec.ofNat 32 (s.smmField off 4)
    let halt := (s.smmField 0x7F02 2).testBit 0
    let io := s.smmField 0x7F00 2
    (∀ x ∈ readOnlyImages v, s.smmField x.1 x.2.1 = x.2.2) →
    smmReserved.flatMap (fun x => s.bus.readBytes (smmAddrs s.cpu x.1 x.2)) = v.reserved →
    (halt = true → v.halted = true) → io = 0 ∨ io = 0xFF →
    ∃ (eip : W32) (k : Nat),
      (halt = true → eip = v.haltEip) ∧ (halt = false → io = 0 → eip = f 0x7FF0)
      ∧ (halt = false → io = 0xFF → ∀ e, s.cpu.smm.ioRestartEip = some e → eip = e)
      ∧ (let loaded : Cpu :=
          { s.past.cpu with
            gpr := { eax := f 0x7FD0, ecx := f 0x7FD4, edx := f 0x7FD8, ebx := f 0x7FDC, esp := f 0x7FE0
                     ebp := f 0x7FE4, esi := f 0x7FE8, edi := f 0x7FEC }
            fl := .ofBits (f 0x7FF4), eip, seg := v.segs, cpl := v.cpl
            ldtr := { s.cpu.ldtr with sel := v.ldtrSel }, tr := { s.cpu.tr with sel := v.trSel }
            ctl := { s.cpu.ctl with cr3 := v.cr3, cr4 := v.cr4 }, dbg := { s.cpu.dbg with dr6 := v.dr6, dr7 := v.dr7 }
            notes.keepRf := true }
        (f 0x7FFC = v.cr0 → rsmInvalid v.cr0 v.cr4 = false → exec .rsm s = .next
          { cpu := { loaded with
              ctl := { loaded.ctl with cr0 := v.cr0 }
              smm := { s.cpu.smm with
                smbase := f 0x7EF8, inSmm := false, smiBlocked := false, nmiBlockedBySmm := false, saved := none
                ioRestartEip := none }
              hid := { s.cpu.hid with run := .running, nmiBlocked := false, ssShadow := false, stiShadow := false } }
            bus := { Bus.resumed s.cpu v.cr0 v.cr4 s.bus with stale := [], oldPg := false, freeCtr := k } })
        ∧ (rsmInvalid (f 0x7FFC) v.cr4 = true → exec .rsm s = .next
          (let cr0 := (f 0x7FFC &&& 0xE005003F#32) ||| 0x10#32
          { cpu := { loaded with ctl := { loaded.ctl with cr0 := cr0 }, cpl := 0#2, hid.run := .shutdown }
            bus := { Bus.resumed s.cpu cr0 v.cr4 s.bus with stale := [], oldPg := false, freeCtr := k } }))))
  ∧ ∀ s : State,
    exec .ud2 s = s.raises .ud s.bus ∧ (s.cpu.smm.inSmm = false → exec .rsm s = s.raises .ud s.bus)

/-- RSM right after an SMI, the map being in read-write memory and CR0 legal, gives back the general registers, EIP, EFLAGS,
the segment registers, CPL, CR0, CR3, CR4, DR6 and DR7 that the SMI found; of a halted processor EIP is that of the HLT,
which is executed again (R1112, R1115, R1121, R1142). With paging on, the map must hold what entry stored: page tables that
lie in it could have A flags set between two of the stores (log 12). That LDTR, TR, GDTR and IDTR are as before rests on log
22. -/
def Obligations.RsmUndoesSmmEntry : Prop :=
  ∀ s t : State, s.Legal → Cr0Legal s.cpu.ctl.cr0 → s.cpu.hid.run = .running ∨ s.cpu.hid.run = .halted →
    (∀ a ∈ smmAddrs s.cpu 0x7E00 0x200, s.bus.writable a = true) → enterSmm s = .ok () t →
    s.cpu.pg = false ∨ bit s.cpu.ctl.cr0 30 = true ∨ (∀ x ∈ smmMap s.cpu, t.smmField x.1 x.2.1 = x.2.2) →
    ∃ u, exec .rsm t = .next u ∧ u.cpu.gpr = s.cpu.gpr ∧ u.cpu.fl = s.cpu.fl
      ∧ u.cpu.eip = (if s.cpu.hid.run = .halted then s.cpu.hid.haltEip else s.cpu.eip)
      ∧ u.cpu.seg = s.cpu.seg ∧ u.cpu.cpl = s.cpu.cpl ∧ u.cpu.ctl = s.cpu.ctl ∧ u.cpu.dbg = s.cpu.dbg
      ∧ u.cpu.ldtr = s.cpu.ldtr ∧ u.cpu.tr = s.cpu.tr ∧ u.cpu.gdtr = s.cpu.gdtr ∧ u.cpu.idtr = s.cpu.idtr
      ∧ u.cpu.smm.smbase = s.cpu.smm.smbase ∧ u.cpu.smm.inSmm = false ∧ u.cpu.hid.run = .running

/-! The local APIC and external events. -/

/-- The local APIC. Its page takes aligned doublewords: the identification, task priority, logical destination, destination
format and spurious-vector registers read as they were last written, the in-service, trigger-mode and request registers
hold a bit for each vector and cannot be written; the processor priority follows the task priority and the interrupt in
service. An accepted interrupt sets its request bit and, if level-triggered, its trigger-mode bit. The highest request
above the processor priority goes into service; if there is none, the spurious vector is returned and nothing goes into
service. EOI ends the highest interrupt in service, and announces a level-triggered one
(R1023, R1024, R1046, R1048 to R1051, R1054; an access of another form is refused: log 17). -/
def Obligations.ApicRegistersAndPriorities : Prop :=
  (∀ (c : Cpu) (b : Bus) (p : Phys) (off n : Nat), Apic.enabled c = true → 0 < n → off + n ≤ 4096 → p.leaves = [] →
    p.addrs = (List.range n).map (Apic.page c * 4096 + off + ·) →
    let a := b.apic
    (¬(n = 4 ∧ off % 16 = 0) →
      readPhys p c b = .error (.refuse .apicAccessWidth) b
        ∧ ∀ bytes b0, speculate c b = .ok () b0 → writePhys p bytes c b = .error (.refuse .apicAccessWidth) b0)
    ∧ (n = 4 →
      (∀ v mask : W32,
        (off = 0x20 ∧ v = a.id.setWidth 32 <<< 24 ∧ mask = 0x0F000000#32)
          ∨ (off = 0x80 ∧ v = a.tpr.setWidth 32 ∧ mask = 0xFF#32)
          ∨ (off = 0xA0 ∧ v = (Apic.ppr a).setWidth 32 ∧ mask = 0xFF#32)
          ∨ (off = 0xD0 ∧ v = a.ldr.setWidth 32 <<< 24 ∧ mask = 0xFF000000#32)
          ∨ (off = 0xE0 ∧ v = a.dfr ++ 0xFFFFFFF#28 ∧ mask = 0xFFFFFFFF#32)
          ∨ (off = 0xF0 ∧ v = a.svr.setWidth 32 ∧ mask = 0x3FF#32)
          ∨ (∃ i, i < 8 ∧ mask = (if i = 0 then 0xFFFF0000#32 else 0xFFFFFFFF#32)
            ∧ ∃ r, ((off = 0x100 + 16 * i ∧ r = a.isr) ∨ (off = 0x180 + 16 * i ∧ r = a.tmr)
                ∨ (off = 0x200 + 16 * i ∧ r = a.irr)) ∧ v = r.extractLsb' (32 * i) 32 &&& mask) →
        ∃ (x : W32) (k : Nat),
          readPhys p c b = .ok (leBytes 4 x.toNat) { b with freeCtr := k } ∧ x &&& mask = v)
      ∧ ∀ (v : W32) (a1 : Apic),
        (off = 0x20 ∧ a1 = { a with id := v.extractLsb' 24 4 }) ∨ (off = 0x80 ∧ a1 = { a with tpr := v.extractLsb' 0 8 })
          ∨ (off = 0xD0 ∧ a1 = { a with ldr := v.extractLsb' 24 8 })
          ∨ (off = 0xE0 ∧ a1 = { a with dfr := v.extractLsb' 28 4 })
          ∨ (off = 0xF0 ∧ bit v 8 = true ∧ a1 = { a with svr := v.extractLsb' 4 6 ++ 15#4 })
          ∨ (off % 16 = 0 ∧ ((0x100 ≤ off ∧ off < 0x280) ∨ off = 0xA0) ∧ a1 = a) →
        ∀ b0, speculate c b = .ok () b0 → writePhys p (leBytes 4 v.toNat) c b = .ok () { b0 with apic := a1 }))
  ∧ (∀ (a : Apic) (v : Nat), (a.isr = 0#256 ∧ v = 0) ∨ Highest a.isr v →
    Apic.ppr a = if v / 16 ≤ (a.tpr.extractLsb' 4 4).toNat then a.tpr else BitVec.ofNat 4 (v / 16) ++ 0#4)
  ∧ (∀ (a : Apic) (v : Byte) (level : Bool), 16 ≤ v.toNat →
    let t := Apic.accept a v level
    (∀ k, t.irr.getLsbD k = (a.irr.getLsbD k || k == v.toNat)
      ∧ t.tmr.getLsbD k = if k = v.toNat then level else a.tmr.getLsbD k)
      ∧ t = { a with irr := t.irr, tmr := t.tmr })
  ∧ (∀ (a : Apic) (v : Byte), Highest a.irr v.toNat →
    (v.toNat / 16 > (Apic.ppr a).toNat / 16 → ∃ t, Apic.dispense a = (v, t)
      ∧ t = { a with irr := t.irr, isr := t.isr, intrUp := false }
      ∧ ∀ k, t.irr.getLsbD k = (a.irr.getLsbD k && k != v.toNat) ∧ t.isr.getLsbD k = (a.isr.getLsbD k || k == v.toNat))
    ∧ (v.toNat / 16 ≤ (Apic.ppr a).toNat / 16 →
      Apic.dispense a = (a.svr.extractLsb' 0 8, { a with intrUp := false })))
  ∧ ∀ (b : Bus) (v : Nat), Highest b.apic.isr v →
    let t := Apic.eoi b
    (∀ k, t.apic.isr.getLsbD k = (b.apic.isr.getLsbD k && k != v)) ∧ t.apic.irr = b.apic.irr
      ∧ t.out = (if b.apic.tmr.getLsbD v then b.out ++ [.eoi (BitVec.ofNat 8 v)] else b.out) ∧ t.mem = b.mem

/-- External events at an instruction boundary. Of those pending, a running processor takes the first in the order FLUSH#,
SMI, INIT, STPCLK#, a debug trap, NMI, the external controller's interrupt, the APIC's; the order within one class of R906
is the model's choice (U13; log 19, log 54). NMIs are then blocked, and an NMI or a maskable interrupt is delivered like
every interrupt, with vector 2, the controller's vector (log 26) or the APIC's; INIT leaves the registers as Table 8-1 says
(the debug registers too: log 38); an SMI enters SMM at SMBASE + 8000H where its map lies in memory of a defined type and the
caches are coherent (log 22) (R900 to R902, R905, R906, R1046, R1112, R1135, R1302). The model's choices: the delivery counts as
a jump for later fetches (log 13), and it ends the SS shadow and the STI delay (log 61). -/
def Obligations.ExternalEventsAtBoundary : Prop :=
  (∀ (c : Cpu) (b : Bus), c.hid.run = .running → b.ev.reset = false → b.ev.mc = none → b.ev.binit = false →
    c.hid.pendingDb.all (fun p => !p.bt) = true →
    happening c b =
      if b.ev.flush = true then .flush
      else if b.ev.smi = true ∧ c.smm.smiBlocked = false then .smi
      else if b.ev.init = true ∧ c.smm.inSmm = false then .init
      else if b.ev.stpclk = true then .idle
      else match c.hid.pendingDb, c.hid.ssShadow with
        | some p, false => .debugTrap p
        | _, shadow =>
          if b.ev.nmi = true ∧ c.hid.nmiBlocked = false ∧ c.smm.nmiBlockedBySmm = false ∧ shadow = false then .nmi
          else if c.fl.if_ = true ∧ shadow = false ∧ c.hid.stiShadow = false then
            if Apic.extInt c b = true then .extInt
            else if Apic.enabled c = true ∧ b.apic.intrUp = true then .apicInt
            else .instruction
          else .instruction)
  ∧ (∀ (s t : State) (h : Happening), look s = .ok h t →
    let takes (vec : Byte) (blocked : Bool) (b : Bus) : Prop :=
      let c : Cpu := { t.cpu with
        hid := { t.cpu.hid with nmiBlocked := blocked, run := .running }
        notes := { t.cpu.notes with faulted := true, ioEip := none } }
      let d := Delivery.event vec true c
      d.retEip = t.cpu.eip ∧ d.cs = t.cpu.seg.cs.sel
        ∧ ∀ (as : List Nat) (c1 : Cpu) (b1 : Bus), Delivers d c b as c1 b1 →
          step s = .next (pass (finishEvent t.cpu { cpu := c1, bus := b1.jumped })) ∧ Stored c as b b1
    (h = .nmi → takes 2#8 true { t.bus with ev.nmi := false })
    ∧ (h = .extInt → takes t.bus.ev.inta t.cpu.hid.nmiBlocked (Apic.takeExt t.cpu t.bus))
    ∧ (h = .apicInt → takes (Apic.dispense t.bus.apic).1 t.cpu.hid.nmiBlocked
        { t.bus with apic := (Apic.dispense t.bus.apic).2 })
    ∧ (h = .init → ∃ u, step s = .next (pass u) ∧ u.bus.mem = t.bus.mem ∧ u.bus.tlb = [] ∧ u.bus.ev.init = false
      ∧ u.bus.ev.selfIn = [] ∧ u.bus.ev.extMsg = false
      ∧ u.cpu = { State.reset.cpu with
          ctl := { State.reset.cpu.ctl with cr0 := (t.cpu.ctl.cr0 &&& 0x60000000#32) ||| 0x10#32 }
          fpu := t.cpu.fpu, sse := t.cpu.sse, msr := t.cpu.msr
          smm := { State.reset.cpu.smm with smbase := t.cpu.smm.smbase }
          hid := { State.reset.cpu.hid with
            run := if t.cpu.msr.apicBase.getLsbD 8 then .running else .waitForSipi } })
    ∧ (h = .smi → incoherent t.cpu t.bus = false →
      (∀ a ∈ smmAddrs t.cpu 0x7E00 0x200, ∃ ty, memType t.cpu none a = .ok ty) →
      ∃ u, step s = .next (pass u) ∧ u.bus.ev.smi = false ∧ u.cpu.smm.inSmm = true
      ∧ u.cpu.smm.smiBlocked = true ∧ u.cpu.smm.nmiBlockedBySmm = true ∧ u.cpu.smm.smbase = t.cpu.smm.smbase
      ∧ u.cpu.eip = 0x8000#32 ∧ u.cpu.fl.toBits = 2#32 ∧ u.cpu.ctl.cr0 = t.cpu.ctl.cr0 &&& 0x7FFFFFF2#32
      ∧ u.cpu.ctl.cr4 = 0#32 ∧ u.cpu.dbg.dr7 = 0x400#32 ∧ u.cpu.seg.cs.base = t.cpu.smm.smbase
      ∧ ∀ sr : Seg, (u.cpu.seg.get sr).limit = 0xFFFFFFFF#32))

/-! Memory. -/

/-- SegCheck (R267): in protected mode an access through an unusable register, a write to a segment that is not writable
data, and a read of a segment that is neither data nor readable code raise #GP(0); then, in every mode, an access of
which a byte lies outside the limit, or for an expand-down segment inside it, raises #SS(0) for SS, else #GP(0). That a
register left unusable is unusable in real-address mode too (R1322) is the model's choice between the two rules
(log 50). -/
def Obligations.SegmentCheckFollowsLimit : Prop :=
  ∀ (c : Cpu) (sr : Seg) (off : W32) (n : Nat) (write : Bool),
    let r := c.seg.get sr
    let last := off.toNat + n - 1
    let data := r.s = true ∧ r.typ.getLsbD 3 = false
    let code := r.s = true ∧ r.typ.getLsbD 3 = true
    let inside :=
      if data ∧ r.typ.getLsbD 2 = true then
        r.limit.toNat < off.toNat ∧ last ≤ if r.db then 0xFFFFFFFF else 0xFFFF
      else last ≤ r.limit.toNat
    segCheck c sr off n write =
      if (r.unusable = true ∧ ¬(c.pe = true ∧ c.fl.vm = true))
          ∨ ((c.pe = true ∧ c.fl.vm = false) ∧ ((write = true ∧ ¬(data ∧ r.typ.getLsbD 1 = true))
            ∨ (write = false ∧ ¬data ∧ ¬(code ∧ r.typ.getLsbD 1 = true)))) then some (.gp 0#32)
      else if inside then none
      else some (if sr = .ss then .ss 0#32 else .gp 0#32)

/-- With direct accesses a write completes wherever the segment allows it, its bytes go to the linear address in
little-endian order, and a read of the same place gives the value back (R130, R141, R11). That every address outside the
APIC page is read-write memory, which `direct` asks for, is the model's parameter (log 2). -/
def Obligations.ReadAfterWrite : Prop :=
  ∀ (c : Cpu) (b : Bus) (sr : Seg) (off : W32) (n v : Nat), c.direct b = true → b.mem.wf = true →
    c.reaches sr off n true →
    ∃ p b2, Writes c b sr off n v p b2 ∧ p.addrs = (List.range n).map (c.linear sr off + ·)
      ∧ (∀ i, i < n → b2.mem.read (c.linear sr off + i) = BitVec.ofNat 8 (v / 256 ^ i))
      ∧ (c.reaches sr off n false → ∃ b3, memBytes sr off n n c b2 = .ok (leBytes n v) b3 ∧ b3.mem = b2.mem)

/-- Paging, for an address of which no translation is held. The tables are those of R205 with CR4.PAE = 0, and of R219 with
PAE = 1; a page is 4 KBytes, 4 MBytes (R208) or 2 MBytes. In the order of the walk: an entry that is not present raises #PF
with P = 0 in the error code, one with a reserved bit (R215) raises it with RSVD, an access that the flags of the entries
forbid (R320, R321) raises it with P = 1, and the address is that of the access (R974). An access that is allowed goes to the
frame of the page. A of the entries used is set then, and of the directory entry on a protection fault; no other byte of
memory changes. A store made there sets D of the entry that maps the page (R212). That bits marked "set to 0" without a named
fault are not looked at is the model's choice (log 39, U3). On a protection fault A of the table entry is open (U16). Every
address is read-write memory (log 2), and the memory types are defined (R432, U60, U61). -/
def Obligations.PageWalkFollowsTables : Prop :=
  ∀ (c : Cpu) (b : Bus) (la : W32) (n : Nat) (write user : Bool),
    c.pg = true → (∀ e ∈ b.tlb, e.covers la = false) → b.map = [] → b.mem.wf = true → incoherent c b = false →
    (∀ attr pa, ∃ t, memType c attr pa = .ok t) →
    let pdeAt := c.pdeAt la
    let pde := Walk.value b pdeAt c.entryBytes
    let large := c.largePage pde
    let pteAt := c.pteAt la pde
    let pte := Walk.value b pteAt c.entryBytes
    let us := pde.testBit 2 && (large || pte.testBit 2)
    let rw := pde.testBit 1 && (large || pte.testBit 1)
    let allowed : Prop :=
      if user then us = true ∧ (write = true → rw = true) else write = true → bit c.ctl.cr0 16 = true → rw = true
    let fault (p rsvd : Bool) : Exc := .pf (pfCode p write user rsvd) la
    let result := physicalPage la n write user c b
    if pde.testBit 0 = false then result = .error (.exc (fault false false)) b
    else if c.pdeReserved pde then result = .error (.exc (fault true true)) b
    else if large = false ∧ pte.testBit 0 = false then result = .error (.exc (fault false false)) b
    else if large = false ∧ c.pteReserved pte = true then result = .error (.exc (fault true true)) b
    else if ¬allowed then
      ∃ b1, result = .error (.exc (fault true false)) b1
        ∧ b1.mem.read pdeAt = b.mem.read pdeAt ||| 0x20#8
        ∧ (large = false → pteAt ≠ pdeAt →
          b1.mem.read pteAt = b.mem.read pteAt ∨ b1.mem.read pteAt = b.mem.read pteAt ||| 0x20#8)
        ∧ ∀ a, a ≠ pdeAt → (large = true ∨ a ≠ pteAt) → b1.mem.read a = b.mem.read a
    else
      ∃ p b1, result = .ok p b1
        ∧ p.addrs = (List.range n).map (c.frameAt pde pte + la.toNat % c.pageBytes pde + ·)
        ∧ (∀ a, b1.mem.read a =
          if a = pdeAt ∨ (large = false ∧ a = pteAt) then b.mem.read a ||| 0x20#8 else b.mem.read a)
        ∧ ∀ (bytes : List Byte) (b2 : Bus), write = true → bytes.length = n → storePhys p bytes c b1 = .ok () b2 →
          let leafAt := if large then pdeAt else pteAt
          leafAt ∉ p.addrs → b2.mem.read leafAt = b.mem.read leafAt ||| 0x60#8
end

