-- ==== Sys2Proof/Laws/Run.lean ====
section
/-!
SUPPORT. How computations run: one equation for each primitive of `M` and of `B`, and for sequencing them.
-/
namespace Sys2Proof.Machine

variable {α β : Type}

/-! Sequencing. -/

theorem M.run_pure (a : α) (s : State) : (pure a : M α) s = .ok a s := rfl

theorem M.run_bind (x : M α) (f : α → M β) (s : State) :
    (x >>= f) s = match x s with
      | .ok a t => f a t
      | .error e t => .error e t := by
  show EStateM.bind x f s = _
  unfold EStateM.bind
  cases x s <;> rfl

theorem M.bind_ok {x : M α} {f : α → M β} {s t : State} {a : α} (h : x s = .ok a t) : (x >>= f) s = f a t := by
  rw [M.run_bind, h]

theorem M.bind_error {x : M α} {f : α → M β} {s t : State} {e : Stop} (h : x s = .error e t) :
    (x >>= f) s = .error e t := by
  rw [M.run_bind, h]

theorem B.run_pure (a : α) (c : Cpu) (b : Bus) : (pure a : B α) c b = .ok a b := rfl

theorem B.run_bind (x : B α) (f : α → B β) (c : Cpu) (b : Bus) :
    (x >>= f) c b = match x c b with
      | .ok a t => f a c t
      | .error e t => .error e t := by
  show EStateM.bind (x c) (fun a => f a c) b = _
  unfold EStateM.bind
  cases x c b <;> rfl

theorem B.bind_ok {x : B α} {f : α → B β} {c : Cpu} {b t : Bus} {a : α} (h : x c b = .ok a t) :
    (x >>= f) c b = f a c t := by
  rw [B.run_bind, h]

theorem B.bind_error {x : B α} {f : α → B β} {c : Cpu} {b t : Bus} {e : Stop} (h : x c b = .error e t) :
    (x >>= f) c b = .error e t := by
  rw [B.run_bind, h]

/-- A sequence that ends well has a first part that ends well. -/
theorem M.bind_eq_ok {x : M α} {f : α → M β} {s u : State} {r : β} (h : (x >>= f) s = .ok r u) :
    ∃ a t, x s = .ok a t ∧ f a t = .ok r u := by
  rw [M.run_bind] at h
  cases hx : x s with
  | ok a t => exact ⟨a, t, rfl, by rw [hx] at h; exact h⟩
  | error e t => rw [hx] at h; cases h

/-- A sequence that ends well has a first part that ends well. -/
theorem B.bind_eq_ok {x : B α} {f : α → B β} {c : Cpu} {b u : Bus} {r : β} (h : (x >>= f) c b = .ok r u) :
    ∃ a t, x c b = .ok a t ∧ f a c t = .ok r u := by
  rw [B.run_bind] at h
  cases hx : x c b with
  | ok a t => exact ⟨a, t, rfl, by rw [hx] at h; exact h⟩
  | error e t => rw [hx] at h; cases h

/-! The primitives. -/

theorem run_getCpu (s : State) : getCpu s = .ok s.cpu s := rfl
theorem run_modCpu (f : Cpu → Cpu) (s : State) : modCpu f s = .ok () { s with cpu := f s.cpu } := rfl
theorem run_modGpr (f : Gprs → Gprs) (s : State) :
    modGpr f s = .ok () { s with cpu := { s.cpu with gpr := f s.cpu.gpr } } := rfl
theorem run_modFl (f : Eflags → Eflags) (s : State) :
    modFl f s = .ok () { s with cpu := { s.cpu with fl := f s.cpu.fl } } := rfl
theorem run_raise (e : Exc) (s : State) : (raise e : M α) s = .error (.exc e) s := rfl
theorem run_refuse (r : Refusal) (s : State) : (throw (.refuse r) : M α) s = .error (.refuse r) s := rfl
theorem run_modBus (f : Bus → Bus) (c : Cpu) (b : Bus) : modBus f c b = .ok () (f b) := rfl
theorem run_getBus (c : Cpu) (b : Bus) : getBus c b = .ok b b := rfl
theorem run_regs (c : Cpu) (b : Bus) : regs c b = .ok c b := rfl
theorem run_raiseB (e : Exc) (c : Cpu) (b : Bus) : (raiseB e : B α) c b = .error (.exc e) b := rfl
theorem run_refuseB (r : Refusal) (c : Cpu) (b : Bus) : (refuseB r : B α) c b = .error (.refuse r) b := rfl
theorem run_raiseIf (q : Bool) (e : Exc) (c : Cpu) (b : Bus) :
    raiseIf q e c b = if q then .error (.exc e) b else .ok () b := by
  unfold raiseIf; split <;> rfl
theorem run_free (c : Cpu) (b : Bus) :
    free c b = .ok (Config.freeWord b.freeCtr) { b with freeCtr := b.freeCtr + 1 } := rfl
theorem run_freeBit (c : Cpu) (b : Bus) :
    freeBit c b = .ok ((Config.freeWord b.freeCtr).getLsbD 0) { b with freeCtr := b.freeCtr + 1 } := rfl

theorem run_onBus (x : B α) (s : State) :
    onBus x s = match x s.cpu s.bus with
      | .ok a b => .ok a { s with bus := b }
      | .error e b => .error e { s with bus := b } := rfl

theorem onBus_ok {x : B α} {s : State} {a : α} {b : Bus} (h : x s.cpu s.bus = .ok a b) :
    onBus x s = .ok a { s with bus := b } := by
  rw [run_onBus, h]

theorem onBus_error {x : B α} {s : State} {e : Stop} {b : Bus} (h : x s.cpu s.bus = .error e b) :
    onBus x s = .error e { s with bus := b } := by
  rw [run_onBus, h]

theorem run_ite (q : Prop) [Decidable q] (x y : M α) (s : State) :
    (if q then x else y) s = if q then x s else y s := by
  split <;> rfl

theorem B.run_ite (q : Prop) [Decidable q] (x y : B α) (c : Cpu) (b : Bus) :
    (if q then x else y) c b = if q then x c b else y c b := by
  split <;> rfl

end Sys2Proof.Machine
end

