-- ==== Sys2Proof/Laws/Memory.lean ====
section
/-!
SUPPORT. Memory: reading after writing, and the canonical form, which every operation on memory keeps.
-/
namespace Sys2Proof.Machine

/-! Reading after writing. -/

theorem Memory.read_cons (k : Nat) (v : Byte) (t : Memory) (a : Nat) :
    Memory.read ((k, v) :: t) a = if k = a then v else Memory.read t a := rfl

/-- A write leaves every other address alone. -/
theorem Memory.read_write_other (m : Memory) {a x : Nat} (v : Byte) (h : x ≠ a) : (m.write a v).read x = m.read x := by
  have h' : a ≠ x := fun e => h e.symm
  induction m with
  | nil =>
    unfold Memory.write
    split
    · rfl
    · rw [Memory.read_cons, if_neg h']
  | cons c t ih =>
    obtain ⟨k, w⟩ := c
    unfold Memory.write
    by_cases h1 : a < k
    · rw [if_pos h1]
      split
      · rfl
      · rw [Memory.read_cons, if_neg h']
    · rw [if_neg h1]
      by_cases h2 : a = k
      · rw [if_pos h2]
        subst h2
        split
        · rw [Memory.read_cons, if_neg h']
        · rw [Memory.read_cons, Memory.read_cons, if_neg h', if_neg h']
      · rw [if_neg h2, Memory.read_cons, Memory.read_cons, ih]

/-- In canonical memory an address below all the listed ones reads as unlisted. -/
theorem Memory.read_below {m : Memory} {lo x : Nat} (h : Memory.wfFrom lo m = true) (hx : x < lo) :
    m.read x = Memory.unlisted := by
  induction m generalizing lo with
  | nil => rfl
  | cons c t ih =>
    obtain ⟨k, w⟩ := c
    simp only [Memory.wfFrom, Bool.and_eq_true, decide_eq_true_eq] at h
    rw [Memory.read_cons, if_neg (by omega)]
    exact ih h.2 (by omega)

/-- A read after a write to the same address answers what was written. -/
theorem Memory.read_write_same {m : Memory} {lo : Nat} (h : Memory.wfFrom lo m = true) (a : Nat) (v : Byte) :
    (m.write a v).read a = v := by
  induction m generalizing lo with
  | nil =>
    unfold Memory.write
    split
    · next e => rw [e]; rfl
    · rw [Memory.read_cons, if_pos rfl]
  | cons c t ih =>
    obtain ⟨k, w⟩ := c
    have hw := h
    simp only [Memory.wfFrom, Bool.and_eq_true, decide_eq_true_eq] at h
    unfold Memory.write
    by_cases h1 : a < k
    · rw [if_pos h1]
      split
      · next e =>
        rw [Memory.read_cons, if_neg (by omega), e]
        exact Memory.read_below h.2 (by omega)
      · rw [Memory.read_cons, if_pos rfl]
    · rw [if_neg h1]
      by_cases h2 : a = k
      · rw [if_pos h2]
        split
        · next e => rw [e]; exact Memory.read_below h.2 (by omega)
        · rw [Memory.read_cons, if_pos rfl]
      · rw [if_neg h2, Memory.read_cons, if_neg (by omega)]
        exact ih h.2

/-! The canonical form. -/

theorem Memory.wfFrom_mono {m : Memory} {lo lo' : Nat} (h : Memory.wfFrom lo m = true) (hl : lo' ≤ lo) :
    Memory.wfFrom lo' m = true := by
  cases m with
  | nil => rfl
  | cons c t =>
    simp only [Memory.wfFrom, Bool.and_eq_true, decide_eq_true_eq] at h ⊢
    exact ⟨⟨by omega, h.1.2⟩, h.2⟩

theorem Memory.wfFrom_write {m : Memory} {lo a : Nat} (v : Byte) (h : Memory.wfFrom lo m = true) (ha : lo ≤ a) :
    Memory.wfFrom lo (m.write a v) = true := by
  induction m generalizing lo with
  | nil =>
    unfold Memory.write
    split
    · rfl
    · next e => simp only [Memory.wfFrom, Bool.and_eq_true, decide_eq_true_eq]; exact ⟨⟨ha, e⟩, trivial⟩
  | cons c t ih =>
    obtain ⟨k, w⟩ := c
    have hw := h
    simp only [Memory.wfFrom, Bool.and_eq_true, decide_eq_true_eq] at h
    unfold Memory.write
    by_cases h1 : a < k
    · rw [if_pos h1]
      split
      · exact hw
      · next e =>
        simp only [Memory.wfFrom, Bool.and_eq_true, decide_eq_true_eq]
        exact ⟨⟨ha, e⟩, ⟨by omega, h.1.2⟩, h.2⟩
    · rw [if_neg h1]
      by_cases h2 : a = k
      · rw [if_pos h2]
        subst h2
        split
        · exact Memory.wfFrom_mono h.2 (by omega)
        · next e =>
          simp only [Memory.wfFrom, Bool.and_eq_true, decide_eq_true_eq]
          exact ⟨⟨ha, e⟩, h.2⟩
      · rw [if_neg h2]
        simp only [Memory.wfFrom, Bool.and_eq_true, decide_eq_true_eq]
        exact ⟨h.1, ih h.2 (by omega)⟩

/-- A write keeps the canonical form. -/
theorem Memory.wf_write {m : Memory} (a : Nat) (v : Byte) (h : m.wf = true) : (m.write a v).wf = true :=
  Memory.wfFrom_write v h (Nat.zero_le a)

/-- Writes of several bytes keep the canonical form. -/
theorem Memory.wf_writeBytes (cells : List (Nat × Byte)) {m : Memory} (h : m.wf = true) :
    (m.writeBytes cells).wf = true := by
  induction cells generalizing m with
  | nil => exact h
  | cons c t ih => exact ih (Memory.wf_write c.1 c.2 h)

/-- Writes of several bytes leave the other addresses alone. -/
theorem Memory.read_writeBytes_other (cells : List (Nat × Byte)) {m : Memory} {x : Nat}
    (h : ∀ c ∈ cells, x ≠ c.1) : (m.writeBytes cells).read x = m.read x := by
  induction cells generalizing m with
  | nil => rfl
  | cons c t ih =>
    rw [Memory.writeBytes, ih (fun c hc => h c (List.mem_cons_of_mem _ hc))]
    exact Memory.read_write_other m c.2 (h c List.mem_cons_self)

/-- What several bytes at different addresses were written as is what they read as. -/
theorem Memory.read_writeBytes_mem (cells : List (Nat × Byte)) {m : Memory} (hm : m.wf = true)
    (hd : (cells.map (·.1)).Nodup) {a : Nat} {v : Byte} (h : (a, v) ∈ cells) : (m.writeBytes cells).read a = v := by
  induction cells generalizing m with
  | nil => cases h
  | cons c t ih =>
    rw [Memory.writeBytes]
    rw [List.map_cons, List.nodup_cons] at hd
    rcases List.mem_cons.mp h with h | h
    · subst h
      rw [Memory.read_writeBytes_other]
      · exact Memory.read_write_same hm _ _
      · intro c hc e
        have := List.mem_map_of_mem (f := Prod.fst) hc
        rw [← e] at this
        exact hd.1 this
    · exact ih (Memory.wf_write _ _ hm) hd.2 h

/-! Stores to the address space: only read-write memory takes them. -/

/-- An address that is read-write memory reads as memory holds it. -/
theorem Bus.read_writable {b : Bus} {a : Nat} (h : b.writable a = true) : b.read a = b.mem.read a := by
  unfold Bus.writable at h
  unfold Bus.read Bus.absent
  rw [Option.isNone_iff_eq_none.mp h]
  rfl

/-- Without regions every address is read-write memory. -/
theorem Bus.writable_of_map {b : Bus} (h : b.map = []) (a : Nat) : b.writable a = true := by
  unfold Bus.writable Bus.region; rw [h]; rfl

/-- Without regions every address reads as memory holds it. -/
theorem Bus.read_of_map {b : Bus} (h : b.map = []) (a : Nat) : b.read a = b.mem.read a :=
  Bus.read_writable (Bus.writable_of_map h a)

/-- Without regions bytes read as memory holds them. -/
theorem Bus.readBytes_of_map {b : Bus} (h : b.map = []) (as : List Nat) : b.readBytes as = b.mem.readBytes as :=
  List.map_congr_left fun a _ => Bus.read_of_map h a

@[simp] theorem Bus.put_map (cells : List (Nat × Byte)) (b : Bus) : (b.put cells).map = b.map := rfl
@[simp] theorem Bus.put_tlb (cells : List (Nat × Byte)) (b : Bus) : (b.put cells).tlb = b.tlb := rfl
@[simp] theorem Bus.put_writable (cells : List (Nat × Byte)) (b : Bus) (a : Nat) :
    (b.put cells).writable a = b.writable a := rfl
@[simp] theorem Bus.accessed_mem (b : Bus) : b.accessed.mem = b.mem := by unfold Bus.accessed; split <;> rfl
@[simp] theorem Bus.accessed_map (b : Bus) : b.accessed.map = b.map := by unfold Bus.accessed; split <;> rfl

/-- Without regions a read uses no free value. -/
theorem Bus.accessed_of_map {b : Bus} (h : b.map = []) : b.accessed = b := by unfold Bus.accessed; rw [h]; rfl

/-- Without regions all bytes are stored. -/
theorem Bus.put_of_map {b : Bus} (h : b.map = []) (cells : List (Nat × Byte)) :
    (b.put cells).mem = b.mem.writeBytes cells := by
  unfold Bus.put
  rw [List.filter_eq_self.mpr fun c _ => Bus.writable_of_map h c.1]

/-- Stores leave the other addresses alone. -/
theorem Bus.put_read_other (cells : List (Nat × Byte)) (b : Bus) {x : Nat} (h : ∀ c ∈ cells, x ≠ c.1) :
    (b.put cells).mem.read x = b.mem.read x :=
  Memory.read_writeBytes_other _ fun c hc => h c (List.mem_of_mem_filter hc)

/-- Stores keep the canonical form. -/
theorem Bus.put_wf (cells : List (Nat × Byte)) (b : Bus) (h : b.mem.wf = true) : (b.put cells).mem.wf = true :=
  Memory.wf_writeBytes _ h

/-- A store leaves the other addresses alone. -/
theorem Bus.store_read_other (c : Cpu) (p : Phys) (bytes : List Byte) (b : Bus) {x : Nat} (h : x ∉ p.addrs) :
    (Bus.store c p bytes b).mem.read x = b.mem.read x := by
  refine Bus.put_read_other _ b fun q hq e => h ?_
  exact e ▸ (List.of_mem_zip hq).1

/-- A store keeps the canonical form. -/
theorem Bus.store_wf (c : Cpu) (p : Phys) (bytes : List Byte) (b : Bus) (h : b.mem.wf = true) :
    (Bus.store c p bytes b).mem.wf = true := Bus.put_wf _ b h

/-- Setting flags of an entry keeps the canonical form. -/
theorem Bus.mark_wf (c : Cpu) (f : Byte) (e : EntryRef) (b : Bus) (h : b.mem.wf = true) :
    (b.mark c f e).mem.wf = true := Bus.put_wf _ b h

/-- Setting flags of an entry sets these flags, of one byte. -/
theorem Bus.mark_read (c : Cpu) (f : Byte) (e : EntryRef) (b : Bus) (h : b.mem.wf = true) (a : Nat) :
    ∃ x, (b.mark c f e).mem.read a = b.mem.read a ||| (x &&& f) := by
  by_cases ha : a = e.addr
  · by_cases hw : b.writable e.addr = true
    · refine ⟨f, ?_⟩
      show (b.mem.writeBytes (List.filter _ _)).read a = _
      rw [List.filter_cons_of_pos (by simpa using hw), List.filter_nil, ha]
      show (b.mem.write e.addr (b.read e.addr ||| f)).read e.addr = _
      rw [Memory.read_write_same h, Bus.read_writable hw, BitVec.and_self]
    · refine ⟨0#8, ?_⟩
      show (b.mem.writeBytes (List.filter _ _)).read a = _
      rw [List.filter_cons_of_neg (by simpa using hw), List.filter_nil]
      simp [Memory.writeBytes]
  · refine ⟨0#8, ?_⟩
    show (b.put _).mem.read a = _
    rw [Bus.put_read_other _ b (by simpa using ha)]
    simp

/-- Marking a page's entries dirty keeps the canonical form. -/
theorem Bus.setDirty_wf (c : Cpu) (l : List EntryRef) (b : Bus) (h : b.mem.wf = true) :
    (Bus.setDirty c l b).mem.wf = true := by
  induction l generalizing b with
  | nil => exact h
  | cons e t ih =>
    unfold Bus.setDirty
    refine ih _ ?_
    dsimp only
    split
    · exact Bus.mark_wf _ _ _ _ h
    · exact h

/-- Setting accessed flags keeps the canonical form. -/
theorem Bus.setAccessedFlags_wf (c : Cpu) (l : List EntryRef) (b : Bus) (h : b.mem.wf = true) :
    (Bus.setAccessedFlags c l b).mem.wf = true := by
  induction l generalizing b with
  | nil => exact h
  | cons e t ih => exact ih _ (Bus.mark_wf _ _ _ _ h)

/-- The memory after reset is canonical. -/
theorem reset_mem_wf : State.reset.bus.mem.wf = true := rfl

/-- Placing an instruction keeps the canonical form. -/
theorem placeInstr_wf (s : State) (w : Nat) (h : s.bus.mem.wf = true) : (placeInstr s w).bus.mem.wf = true :=
  Memory.wf_writeBytes _ h

/-! Every access keeps the canonical form, whether it ends well or not. -/

/-- The computation keeps the canonical form of memory. -/
structure KeepsWf {α : Type} (x : B α) : Prop where
  keeps : ∀ c b, b.mem.wf = true → match x c b with
    | .ok _ b' => b'.mem.wf = true
    | .error _ b' => b'.mem.wf = true

variable {α β : Type}

theorem KeepsWf.pure (a : α) : KeepsWf (pure a : B α) := ⟨fun _ _ h => h⟩

theorem KeepsWf.bind {x : B α} {f : α → B β} (hx : KeepsWf x) (hf : ∀ a, KeepsWf (f a)) : KeepsWf (x >>= f) := by
  refine ⟨fun c b h => ?_⟩
  rw [B.run_bind]
  have := hx.keeps c b h
  cases hxe : x c b with
  | ok a t => rw [hxe] at this; exact (hf a).keeps c t this
  | error e t => rw [hxe] at this; exact this

theorem KeepsWf.throw (e : Stop) : KeepsWf (throw e : B α) := ⟨fun _ _ h => h⟩
theorem KeepsWf.raiseB (e : Exc) : KeepsWf (raiseB e : B α) := ⟨fun _ _ h => h⟩
theorem KeepsWf.refuseB (r : Refusal) : KeepsWf (refuseB r : B α) := ⟨fun _ _ h => h⟩
theorem KeepsWf.regs : KeepsWf regs := ⟨fun _ _ h => h⟩
theorem KeepsWf.getBus : KeepsWf getBus := ⟨fun _ _ h => h⟩
theorem KeepsWf.free : KeepsWf free := ⟨fun _ _ h => h⟩
theorem KeepsWf.modBus {f : Bus → Bus} (h : ∀ b, b.mem.wf = true → (f b).mem.wf = true) : KeepsWf (modBus f) :=
  ⟨fun _ b hb => h b hb⟩
theorem KeepsWf.ite {q : Prop} [Decidable q] {x y : B α} (hx : KeepsWf x) (hy : KeepsWf y) :
    KeepsWf (if q then x else y) := by
  split <;> assumption
theorem KeepsWf.raiseIf (q : Bool) (e : Exc) : KeepsWf (raiseIf q e) := by
  unfold Machine.raiseIf; exact .ite (.raiseB e) (.pure _)

/-- What an access that ends well leaves is canonical. -/
theorem KeepsWf.ok {x : B α} (hx : KeepsWf x) {c : Cpu} {b b' : Bus} {a : α} (h : x c b = .ok a b')
    (hb : b.mem.wf = true) : b'.mem.wf = true := by
  have := hx.keeps c b hb
  rw [h] at this
  exact this

/-- What an access that stops leaves is canonical. -/
theorem KeepsWf.error {x : B α} (hx : KeepsWf x) {c : Cpu} {b b' : Bus} {e : Stop} (h : x c b = .error e b')
    (hb : b.mem.wf = true) : b'.mem.wf = true := by
  have := hx.keeps c b hb
  rw [h] at this
  exact this

end Sys2Proof.Machine
end

