-- ==== Sys2Proof/Laws/Frames.lean ====
section
/-!
SUPPORT. What accesses leave in memory: a read stores nothing, a write stores its own bytes, and translation sets
accessed and dirty flags only.
-/
namespace Sys2Proof.Machine

/-! Bytes and values. -/

theorem leBytes_leNat (l : List Byte) : leBytes l.length (leNat l) = l := by
  induction l with
  | nil => rfl
  | cons b t ih =>
    show BitVec.ofNat 8 (b.toNat + 256 * leNat t) :: leBytes t.length ((b.toNat + 256 * leNat t) / 256) = b :: t
    have hb : b.toNat < 256 := b.isLt
    rw [show (b.toNat + 256 * leNat t) / 256 = leNat t by omega, ih]
    congr 1
    apply BitVec.eq_of_toNat_eq
    rw [BitVec.toNat_ofNat]
    omega

theorem leBytes_length (n v : Nat) : (leBytes n v).length = n := by
  induction n generalizing v with
  | zero => rfl
  | succ n ih => exact congrArg (· + 1) (ih _)

theorem leNat_lt (l : List Byte) : leNat l < 256 ^ l.length := by
  induction l with
  | nil => decide
  | cons b t ih =>
    have hb : b.toNat < 256 := b.isLt
    show b.toNat + 256 * leNat t < 256 ^ (t.length + 1)
    rw [Nat.pow_succ]
    omega

theorem leNat_leBytes (n v : Nat) : leNat (leBytes n v) = v % 256 ^ n := by
  induction n generalizing v with
  | zero => show 0 = v % 1; omega
  | succ n ih =>
    show (BitVec.ofNat 8 v).toNat + 256 * leNat (leBytes n (v / 256)) = _
    rw [ih, BitVec.toNat_ofNat, show 256 ^ (n + 1) = 256 * 256 ^ n by rw [Nat.pow_succ, Nat.mul_comm], Nat.mod_mul]

/-! Stored: composition. -/

theorem Stored.refl (c : Cpu) (as : List Nat) (b : Bus) : Stored c as b b :=
  ⟨fun _ a _ => ⟨0#8, by simp⟩, fun _ _ _ => rfl⟩

theorem Stored.of_mem_eq {c : Cpu} {as : List Nat} {b b1 : Bus} (h : b1.mem = b.mem) : Stored c as b b1 :=
  ⟨fun _ a _ => ⟨0#8, by simp [h]⟩, fun _ _ _ => by rw [h]⟩

theorem Stored.mono {c : Cpu} {as bs : List Nat} {b b1 : Bus} (h : Stored c as b b1) (hs : ∀ a ∈ as, a ∈ bs) :
    Stored c bs b b1 :=
  ⟨fun hw a ha => h.1 hw a fun h' => ha (hs a h'), fun hp a ha => h.2 hp a fun h' => ha (hs a h')⟩

theorem Stored.trans {c : Cpu} {as : List Nat} {b b1 b2 : Bus} (hw : b.mem.wf = true → b1.mem.wf = true)
    (h : Stored c as b b1) (h' : Stored c as b1 b2) : Stored c as b b2 := by
  refine ⟨fun hb a ha => ?_, fun hp a ha => (h'.2 hp a ha).trans (h.2 hp a ha)⟩
  obtain ⟨x, hx⟩ := h.1 hb a ha
  obtain ⟨y, hy⟩ := h'.1 (hw hb) a ha
  refine ⟨x ||| y, ?_⟩
  rw [hy, hx, BitVec.or_assoc]
  congr 1
  ext i hi
  simp only [BitVec.getElem_or, BitVec.getElem_and]
  cases x[i] <;> cases y[i] <;> simp

/-- The memory that an access leaves, however it ends. -/
def B.after {α : Type} (x : B α) (c : Cpu) (b : Bus) : Bus :=
  match x c b with
  | .ok _ b' => b'
  | .error _ b' => b'

theorem B.after_ok {α : Type} {x : B α} {c : Cpu} {b b' : Bus} {a : α} (h : x c b = .ok a b') : x.after c b = b' := by
  unfold B.after; rw [h]

theorem B.after_error {α : Type} {x : B α} {c : Cpu} {b b' : Bus} {e : Stop} (h : x c b = .error e b') :
    x.after c b = b' := by
  unfold B.after; rw [h]

theorem KeepsWf.after {α : Type} {x : B α} (h : KeepsWf x) (c : Cpu) (b : Bus) (hb : b.mem.wf = true) :
    (x.after c b).mem.wf = true := by
  have := h.keeps c b hb
  unfold B.after
  cases hx : x c b <;> (rw [hx] at this; exact this)

/-- An access that stores nothing, and keeps memory canonical. -/
structure Quiet {α : Type} (x : B α) : Prop where
  wf : KeepsWf x
  same : ∀ c b, Stored c [] b (x.after c b)

variable {α β : Type}

theorem Quiet.ok {x : B α} (h : Quiet x) {c : Cpu} {b b' : Bus} {a : α} (hx : x c b = .ok a b') : Stored c [] b b' :=
  B.after_ok hx ▸ h.same c b

theorem Quiet.pure (a : α) : Quiet (pure a : B α) := ⟨.pure a, fun c b => .refl c [] b⟩
theorem Quiet.throw (e : Stop) : Quiet (throw e : B α) := ⟨.throw e, fun c b => .refl c [] b⟩
theorem Quiet.raiseB (e : Exc) : Quiet (raiseB e : B α) := ⟨.raiseB e, fun c b => .refl c [] b⟩
theorem Quiet.refuseB (r : Refusal) : Quiet (refuseB r : B α) := ⟨.refuseB r, fun c b => .refl c [] b⟩
theorem Quiet.regs : Quiet regs := ⟨.regs, fun c b => .refl c [] b⟩
theorem Quiet.getBus : Quiet getBus := ⟨.getBus, fun c b => .refl c [] b⟩
theorem Quiet.free : Quiet free := ⟨.free, fun _ _ => .of_mem_eq rfl⟩

/-- A change of the bus that leaves memory as it is. -/
theorem Quiet.modBus {f : Bus → Bus} (h : ∀ b, (f b).mem = b.mem) : Quiet (modBus f) :=
  ⟨.modBus fun b hb => by rw [h b]; exact hb, fun _ b => .of_mem_eq (h b)⟩

theorem Quiet.bind {x : B α} {f : α → B β} (hx : Quiet x) (hf : ∀ a, Quiet (f a)) : Quiet (x >>= f) := by
  refine ⟨.bind hx.wf fun a => (hf a).wf, fun c b => ?_⟩
  have h1 := hx.same c b
  have hw := hx.wf.after c b
  cases h : x c b with
  | ok a t =>
    rw [B.after_ok h] at h1 hw
    have e : (x >>= f).after c b = (f a).after c t := by
      show (match (x >>= f) c b with | .ok _ b' => b' | .error _ b' => b') = _
      rw [B.bind_ok h]; rfl
    rw [e]
    exact .trans hw h1 ((hf a).same c t)
  | error e t =>
    rw [B.after_error h] at h1
    have e : (x >>= f).after c b = t := B.after_error (B.bind_error h)
    rw [e]
    exact h1

theorem Quiet.ite {q : Prop} [Decidable q] {x y : B α} (hx : Quiet x) (hy : Quiet y) : Quiet (if q then x else y) := by
  split <;> assumption

theorem Quiet.accessed : Quiet (Machine.modBus Bus.accessed) := .modBus Bus.accessed_mem

theorem Quiet.raiseIf (q : Bool) (e : Exc) : Quiet (raiseIf q e) := by
  unfold Machine.raiseIf; exact .ite (.raiseB e) (.pure _)

/-! Page entries. -/

theorem B.after_bind {x : B α} {f : α → B β} {c : Cpu} {b t : Bus} {a : α} (h : x c b = .ok a t) :
    (x >>= f).after c b = (f a).after c t := by
  show (match (x >>= f) c b with | .ok _ b' => b' | .error _ b' => b') = _
  rw [B.bind_ok h]; rfl

theorem B.after_congr {x y : B α} {c : Cpu} {b : Bus} (h : x c b = y c b) : x.after c b = y.after c b := by
  unfold B.after
  rw [h]

/-- After a first part that ends well in `t`, what follows decides; otherwise the first part does. -/
theorem B.after_cases {x : B α} {f : α → B β} {c : Cpu} {b : Bus} {P : Bus → Prop} (h : P (x.after c b))
    (hf : ∀ a, P (x.after c b) → P ((f a).after c (x.after c b))) : P ((x >>= f).after c b) := by
  cases hx : x c b with
  | ok a t =>
    rw [B.after_bind hx]
    rw [B.after_ok hx] at h hf
    exact hf a h
  | error e t =>
    rw [B.after_error (B.bind_error hx)]
    rw [B.after_error hx] at h
    exact h

/-- Memory with some accessed and dirty flags set. -/
def Memory.Marked (m0 m : Memory) : Prop := ∀ a, ∃ x : Byte, m.read a = m0.read a ||| (x &&& 0x60#8)

theorem Memory.Marked.refl (m : Memory) : Memory.Marked m m := fun _ => ⟨0#8, by simp⟩

theorem Memory.Marked.trans {m m1 m2 : Memory} (h : Memory.Marked m m1) (h' : Memory.Marked m1 m2) :
    Memory.Marked m m2 := by
  intro a
  obtain ⟨x, hx⟩ := h a
  obtain ⟨y, hy⟩ := h' a
  refine ⟨x ||| y, ?_⟩
  rw [hy, hx, BitVec.or_assoc]
  congr 1
  ext i hi
  simp only [BitVec.getElem_or, BitVec.getElem_and]
  cases x[i] <;> cases y[i] <;> simp

theorem Bus.mark_marked (c : Cpu) {f : Byte} (hf : f &&& 0x60#8 = f) (e : EntryRef) (b : Bus) (h : b.mem.wf = true) :
    Memory.Marked b.mem (b.mark c f e).mem := by
  intro a
  obtain ⟨x, hx⟩ := Bus.mark_read c f e b h a
  exact ⟨x &&& f, by rw [hx, BitVec.and_assoc, hf]⟩

/-- Marking pages dirty sets flags only. -/
theorem Bus.setDirty_marked (c : Cpu) (l : List EntryRef) (b : Bus) (h : b.mem.wf = true) :
    Memory.Marked b.mem (Bus.setDirty c l b).mem := by
  induction l generalizing b with
  | nil => exact .refl _
  | cons e t ih =>
    unfold Bus.setDirty
    dsimp only
    split
    · exact .trans (Bus.mark_marked c (by decide) e b h) (ih { b.mark c 0x40#8 e with tlb := _ } (Bus.mark_wf c _ e b h))
    · exact ih { b with tlb := _ } h

/-- Setting accessed flags sets flags only. -/
theorem Bus.setAccessedFlags_marked (c : Cpu) (l : List EntryRef) (b : Bus) (h : b.mem.wf = true) :
    Memory.Marked b.mem (Bus.setAccessedFlags c l b).mem := by
  induction l generalizing b with
  | nil => exact .refl _
  | cons e t ih => exact .trans (Bus.mark_marked c (by decide) e b h) (ih _ (Bus.mark_wf c _ e b h))

/-- An access that sets flags of page entries only. -/
structure Marks {α : Type} (x : B α) : Prop where
  wf : KeepsWf x
  marks : ∀ c b, b.mem.wf = true → Memory.Marked b.mem (x.after c b).mem

theorem Quiet.toMarks {x : B α} (h : Quiet x) : Marks x :=
  ⟨h.wf, fun c b hb a => (h.same c b).1 hb a (by simp)⟩

theorem Marks.bind {x : B α} {f : α → B β} (hx : Marks x) (hf : ∀ a, Marks (f a)) : Marks (x >>= f) := by
  refine ⟨.bind hx.wf fun a => (hf a).wf, fun c b hb => ?_⟩
  have hw := hx.wf.after c b hb
  exact B.after_cases (P := fun t => Memory.Marked b.mem t.mem) (hx.marks c b hb)
    fun a h => h.trans ((hf a).marks c _ hw)

theorem Marks.pure (a : α) : Marks (pure a : B α) := (Quiet.pure a).toMarks

theorem Marks.ite {q : Prop} [Decidable q] {x y : B α} (hx : Marks x) (hy : Marks y) : Marks (if q then x else y) := by
  split <;> assumption

theorem marks_applySets (l : List EntryRef) : Marks (applySets l) :=
  ⟨.bind .regs fun c => .modBus (Bus.setAccessedFlags_wf c l),
   fun c b hb => Bus.setAccessedFlags_marked c l b hb⟩

/-! Translation. -/

theorem quiet_freeBit : Quiet freeBit := .bind .free fun _ => .pure _

theorem quiet_freeChoice (n : Nat) : Quiet (freeChoice n) := .bind .free fun _ => .pure _

theorem marks_applyMaybe (l : List EntryRef) : Marks (applyMaybe l) := by
  unfold applyMaybe
  split
  · exact .pure _
  · exact .bind quiet_freeBit.toMarks fun _ => .ite (marks_applySets _) (.pure _)

theorem quiet_fill (e : TlbEntry) : Quiet (modBus (Bus.fill e)) := .modBus fun _ => rfl

theorem marks_useWalk (la : W32) (w : Walk) : Marks (useWalk la w) := by
  cases w with
  | ok e sets types => exact .bind (marks_applySets _) fun _ => .bind (quiet_fill e).toMarks fun _ => .pure _
  | fault v sets may =>
    exact .bind (marks_applySets _) fun _ => .bind (marks_applyMaybe _) fun _ => (Quiet.raiseB _).toMarks
  | refuse r => exact (Quiet.refuseB r).toMarks

theorem quiet_useCached (la : W32) (write user : Bool) (e : TlbEntry) : Quiet (useCached la write user e) := by
  refine .bind .regs fun _ => ?_
  dsimp only
  split
  · exact .bind (.raiseB _) fun _ => .pure _
  · exact .pure _

theorem marks_translate (la : W32) (write user : Bool) : Marks (translate la write user) := by
  refine .bind Quiet.regs.toMarks fun c => .bind Quiet.getBus.toMarks fun b => .bind Quiet.accessed.toMarks fun _ => ?_
  split
  · exact marks_useWalk _ _
  · refine .bind (quiet_freeChoice _).toMarks fun _ => ?_
    split
    · exact (quiet_useCached _ _ _ _).toMarks
    · exact marks_useWalk _ _

theorem marks_speculateAt (la : W32) : Marks (speculateAt la) := by
  refine .bind Quiet.regs.toMarks fun c => .bind Quiet.getBus.toMarks fun b => .bind Quiet.accessed.toMarks fun _ => ?_
  split
  · exact .ite (.bind (marks_applySets _) fun _ => (quiet_fill _).toMarks) (.pure _)
  · exact .pure _

theorem marks_speculateFor (n : Nat) : Marks (speculateFor n) := by
  induction n with
  | zero => exact .pure _
  | succ n ih => exact .bind Quiet.free.toMarks fun _ => .bind (marks_speculateAt _) fun _ => ih

/-- What sets flags with paging only stores nothing. -/
theorem Quiet.of_regs {f : Cpu → B α} (h : ∀ c, Quiet (f c) ∨ c.pg = true ∧ Marks (f c)) : Quiet (Machine.regs >>= f) := by
  refine ⟨.bind .regs fun c => (h c).elim (·.wf) (·.2.wf), fun c b => ?_⟩
  rw [B.after_bind (run_regs c b)]
  rcases h c with hq | ⟨hp, hm⟩
  · exact hq.same c b
  · exact ⟨fun hb a _ => hm.marks c b hb a, fun h => by rw [hp] at h; cases h⟩

/-- Loading translations ahead of need stores nothing. -/
theorem quiet_speculate : Quiet speculate := by
  refine .of_regs fun c => ?_
  split
  · next h => exact .inr ⟨h, .bind Quiet.free.toMarks fun _ => marks_speculateFor _⟩
  · exact .inl (.pure _)

theorem quiet_typeOrRefuse (a : Option PageAttr) (p : Nat) : Quiet (typeOrRefuse a p) := by
  unfold typeOrRefuse
  refine .bind .regs fun _ => ?_
  split
  · exact .pure _
  · exact .refuseB _

/-- Finding the physical addresses of a part of a page stores nothing. -/
theorem quiet_physicalPage (la : W32) (n : Nat) (write user : Bool) : Quiet (physicalPage la n write user) := by
  refine .of_regs fun c => ?_
  by_cases hp : c.pg = true
  · refine .inr ⟨hp, .bind Quiet.getBus.toMarks fun b => ?_⟩
    have h : Marks (translate la write user >>= fun e => typeOrRefuse (some e.attr) (e.addr la) >>= fun t =>
        pure (Phys.run la (e.addr la) n t [e.leaf])) :=
      .bind (marks_translate _ _ _) fun _ => .bind (quiet_typeOrRefuse _ _).toMarks fun _ => .pure _
    simp only [hp, if_true]
    split
    · exact .bind (Quiet.refuseB _).toMarks fun _ => h
    · exact h
  · refine .inl (.bind .getBus fun b => ?_)
    have h : Quiet (getBus >>= fun b => typeOrRefuse none (a20 c b la.toNat) >>= fun t =>
        pure (Phys.run la (a20 c b la.toNat) n t [])) :=
      .bind .getBus fun _ => .bind (quiet_typeOrRefuse _ _) fun _ => .pure _
    simp only [hp, Bool.false_eq_true, if_false]
    split
    · exact .bind (.refuseB _) fun _ => h
    · exact h

/-- Without paging no entry maps a page. -/
theorem physicalPage_leaves {la : W32} {n : Nat} {write user : Bool} {c : Cpu} {b b1 : Bus} {p : Phys}
    (h : physicalPage la n write user c b = .ok p b1) (hp : c.pg = false) : p.leaves = [] := by
  unfold physicalPage at h
  rw [B.bind_ok (run_regs c b), B.bind_ok (run_getBus c b)] at h
  simp only [hp, Bool.false_eq_true, if_false] at h
  split at h
  · obtain ⟨_, _, h1, -⟩ := B.bind_eq_ok h
    cases h1
  · obtain ⟨_, _, h1, h2⟩ := B.bind_eq_ok h
    obtain ⟨_, _, h3, h4⟩ := B.bind_eq_ok h2
    cases h4
    rfl

end Sys2Proof.Machine
end

