-- ==== Sys2Proof/Laws/Reads.lean ====
section
/-!
SUPPORT. Every access that stores nothing is quiet: reads, translations, checks, descriptor fetches, APIC accesses.
-/
namespace Sys2Proof.Machine

theorem quiet_Apic_isDestination (a : Apic) (l : Bool) (d : Byte) : Quiet (Apic.isDestination a l d) := by
  unfold Apic.isDestination
  repeat first
    | exact .pure _ | exact .raiseB _ | exact .refuseB _ | exact .throw _ | exact .regs | exact .getBus
    | exact .free | exact .raiseIf _ _ | exact .accessed | refine .ite ?_ ?_ | apply Quiet.bind | intro _ | split
    | exact .modBus fun _ => rfl | dsimp only

theorem quiet_Apic_acceptMsg (m : ApicMsg) : Quiet (Apic.acceptMsg m) := by
  unfold Apic.acceptMsg
  repeat first
    | exact .pure _ | exact .raiseB _ | exact .refuseB _ | exact .throw _ | exact .regs | exact .getBus
    | exact .free | exact .raiseIf _ _ | exact .accessed | refine .ite ?_ ?_ | apply Quiet.bind | intro _ | split
    | exact .modBus fun _ => rfl | dsimp only

theorem quiet_Apic_receive (m : ApicMsg) : Quiet (Apic.receive m) := by
  unfold Apic.receive
  repeat first
    | exact .modBus fun b => by unfold Apic.special; split_ifs <;> rfl | exact .pure _ | exact .raiseB _
    | exact .refuseB _ | exact .throw _ | exact .regs | exact .getBus | exact .free | exact .raiseIf _ _
    | exact .accessed | exact quiet_Apic_isDestination _ _ _ | exact quiet_Apic_acceptMsg _ | refine .ite ?_ ?_
    | apply Quiet.bind | intro _ | split | exact .modBus fun _ => rfl | dsimp only

theorem quiet_Apic_selfInterrupt (v : Byte) : Quiet (Apic.selfInterrupt v) := by
  unfold Apic.selfInterrupt
  repeat first
    | exact .modBus fun b => by split_ifs <;> rfl | exact .pure _ | exact .raiseB _ | exact .refuseB _
    | exact .throw _ | exact .regs | exact .getBus | exact .free | exact .raiseIf _ _ | exact .accessed
    | refine .ite ?_ ?_ | apply Quiet.bind | intro _ | split | exact .modBus fun _ => rfl | dsimp only

theorem quiet_Apic_send : Quiet (Apic.send) := by
  unfold Apic.send
  repeat first
    | exact .pure _ | exact .raiseB _ | exact .refuseB _ | exact .throw _ | exact .regs | exact .getBus
    | exact .free | exact .raiseIf _ _ | exact .accessed | exact quiet_Apic_receive _
    | exact quiet_Apic_selfInterrupt _ | refine .ite ?_ ?_ | apply Quiet.bind | intro _ | split
    | exact .modBus fun _ => rfl | dsimp only

theorem quiet_Apic_readReg (off : Nat) : Quiet (Apic.readReg off) := by
  unfold Apic.readReg
  repeat first
    | exact .pure _ | exact .raiseB _ | exact .refuseB _ | exact .throw _ | exact .regs | exact .getBus
    | exact .free | exact .raiseIf _ _ | exact .accessed | refine .ite ?_ ?_ | apply Quiet.bind | intro _ | split
    | exact .modBus fun _ => rfl | dsimp only

theorem quiet_Apic_writeReg (off : Nat) (v : W32) : Quiet (Apic.writeReg off v) := by
  unfold Apic.writeReg
  repeat first
    | exact .modBus fun b => by unfold Apic.eoi; split <;> rfl | exact .pure _ | exact .raiseB _ | exact .refuseB _
    | exact .throw _ | exact .regs | exact .getBus | exact .free | exact .raiseIf _ _ | exact .accessed
    | exact quiet_Apic_send | refine .ite ?_ ?_ | apply Quiet.bind | intro _ | split | exact .modBus fun _ => rfl
    | dsimp only

theorem quiet_Apic_load (off n : Nat) : Quiet (Apic.load off n) := by
  unfold Apic.load
  repeat first
    | exact .pure _ | exact .raiseB _ | exact .refuseB _ | exact .throw _ | exact .regs | exact .getBus
    | exact .free | exact .raiseIf _ _ | exact .accessed | exact quiet_Apic_readReg _ | refine .ite ?_ ?_
    | apply Quiet.bind | intro _ | split | exact .modBus fun _ => rfl | dsimp only

theorem quiet_Apic_store (off n : Nat) (v : W32) : Quiet (Apic.store off n v) := by
  unfold Apic.store
  repeat first
    | exact .pure _ | exact .raiseB _ | exact .refuseB _ | exact .throw _ | exact .regs | exact .getBus
    | exact .free | exact .raiseIf _ _ | exact .accessed | exact quiet_Apic_writeReg _ _ | refine .ite ?_ ?_
    | apply Quiet.bind | intro _ | split | exact .modBus fun _ => rfl | dsimp only

theorem quiet_Apic_receiveAll (l : List ApicMsg) : Quiet (Apic.receiveAll l) := by
  induction l with
  | nil => exact .pure _
  | cons m t ih =>
    unfold Apic.receiveAll
    repeat first
      | exact .pure _ | exact .raiseB _ | exact .refuseB _ | exact .throw _ | exact .regs | exact .getBus
      | exact .free | exact .raiseIf _ _ | exact .accessed | exact quiet_Apic_receive _ | exact ih
      | refine .ite ?_ ?_ | apply Quiet.bind | intro _ | split | exact .modBus fun _ => rfl | dsimp only

theorem quiet_Apic_retrySelf (l : List Byte) : Quiet (Apic.retrySelf l) := by
  induction l with
  | nil => exact .pure _
  | cons m t ih =>
    unfold Apic.retrySelf
    repeat first
      | exact .pure _ | exact .raiseB _ | exact .refuseB _ | exact .throw _ | exact .regs | exact .getBus
      | exact .free | exact .raiseIf _ _ | exact .accessed | exact quiet_Apic_selfInterrupt _ | exact ih
      | refine .ite ?_ ?_ | apply Quiet.bind | intro _ | split | exact .modBus fun _ => rfl | dsimp only

theorem quiet_Apic_updateIntr : Quiet (Apic.updateIntr) := by
  unfold Apic.updateIntr
  repeat first
    | exact .pure _ | exact .raiseB _ | exact .refuseB _ | exact .throw _ | exact .regs | exact .getBus
    | exact .free | exact .raiseIf _ _ | exact .accessed | exact quiet_freeBit | refine .ite ?_ ?_
    | apply Quiet.bind | intro _ | split | exact .modBus fun _ => rfl | dsimp only

theorem lint_mem (l : W32) (x y : Bool) (b : Bus) : (Apic.lint l x y b).1.mem = b.mem := by
  unfold Apic.lint
  dsimp only
  split_ifs <;> rfl

theorem samplePins_mem (c : Cpu) (b : Bus) : (Apic.samplePins c b).mem = b.mem := by
  unfold Apic.samplePins
  dsimp only
  split
  · show ((Apic.lint _ _ _ (Apic.lint _ _ _ b).1).1).mem = _
    rw [lint_mem, lint_mem]
  · rfl

theorem quiet_Apic_poll : Quiet (Apic.poll) := by
  unfold Apic.poll
  repeat first
    | exact .modBus fun b => samplePins_mem _ b | exact .pure _ | exact .raiseB _ | exact .refuseB _
    | exact .throw _ | exact .regs | exact .getBus | exact .free | exact .raiseIf _ _ | exact .accessed
    | exact quiet_Apic_receiveAll _ | exact quiet_Apic_retrySelf _ | exact quiet_Apic_updateIntr
    | refine .ite ?_ ?_ | apply Quiet.bind | intro _ | split | exact .modBus fun _ => rfl | dsimp only

theorem quiet_readPhys (p : Phys) : Quiet (readPhys p) := by
  unfold readPhys
  repeat first
    | exact .pure _ | exact .raiseB _ | exact .refuseB _ | exact .throw _ | exact .regs | exact .getBus
    | exact .free | exact .raiseIf _ _ | exact .accessed | exact quiet_Apic_load _ _ | refine .ite ?_ ?_
    | apply Quiet.bind | intro _ | split | exact .modBus fun _ => rfl | dsimp only

theorem quiet_fetchByte (la : W32) (p : Nat) : Quiet (fetchByte la p) := by
  unfold fetchByte
  repeat first
    | exact .pure _ | exact .raiseB _ | exact .refuseB _ | exact .throw _ | exact .regs | exact .getBus
    | exact .free | exact .raiseIf _ _ | exact .accessed | exact quiet_freeChoice _ | refine .ite ?_ ?_
    | apply Quiet.bind | intro _ | split | exact .modBus fun _ => rfl | dsimp only

theorem quiet_physical (la : W32) (n : Nat) (w u : Bool) : Quiet (physical la n w u) := by
  unfold physical
  repeat first
    | exact .pure _ | exact .raiseB _ | exact .refuseB _ | exact .throw _ | exact .regs | exact .getBus
    | exact .free | exact .raiseIf _ _ | exact .accessed | exact quiet_physicalPage _ _ _ _ | refine .ite ?_ ?_
    | apply Quiet.bind | intro _ | split | exact .modBus fun _ => rfl | dsimp only

theorem quiet_checkRange (p : Phys) : Quiet (checkRange p) := by
  unfold checkRange
  repeat first
    | exact .pure _ | exact .raiseB _ | exact .refuseB _ | exact .throw _ | exact .regs | exact .getBus
    | exact .free | exact .raiseIf _ _ | exact .accessed | refine .ite ?_ ?_ | apply Quiet.bind | intro _ | split
    | exact .modBus fun _ => rfl | dsimp only

theorem quiet_linBytes (la : W32) (n : Nat) (u : Bool) : Quiet (linBytes la n u) := by
  unfold linBytes
  repeat first
    | exact .pure _ | exact .raiseB _ | exact .refuseB _ | exact .throw _ | exact .regs | exact .getBus
    | exact .free | exact .raiseIf _ _ | exact .accessed | exact quiet_readPhys _ | exact quiet_physical _ _ _ _
    | exact quiet_checkRange _ | refine .ite ?_ ?_ | apply Quiet.bind | intro _ | split
    | exact .modBus fun _ => rfl | dsimp only

theorem quiet_sysRead (la : W32) (n : Nat) : Quiet (sysRead la n) := by
  unfold sysRead
  repeat first
    | exact .pure _ | exact .raiseB _ | exact .refuseB _ | exact .throw _ | exact .regs | exact .getBus
    | exact .free | exact .raiseIf _ _ | exact .accessed | exact quiet_linBytes _ _ _ | refine .ite ?_ ?_
    | apply Quiet.bind | intro _ | split | exact .modBus fun _ => rfl | dsimp only

theorem quiet_readPdptes (v : W32) : Quiet (readPdptes v) := by
  unfold readPdptes
  repeat first
    | exact .pure _ | exact .raiseB _ | exact .refuseB _ | exact .throw _ | exact .regs | exact .getBus
    | exact .free | exact .raiseIf _ _ | exact .accessed | exact quiet_typeOrRefuse _ _ | refine .ite ?_ ?_
    | apply Quiet.bind | intro _ | split | exact .modBus fun _ => rfl | dsimp only

theorem quiet_noteAccess (la : W32) (n : Nat) (w : Bool) : Quiet (noteAccess la n w) := by
  unfold noteAccess
  repeat first
    | exact .pure _ | exact .raiseB _ | exact .refuseB _ | exact .throw _ | exact .regs | exact .getBus
    | exact .free | exact .raiseIf _ _ | exact .accessed | refine .ite ?_ ?_ | apply Quiet.bind | intro _ | split
    | exact .modBus fun _ => rfl | dsimp only

theorem quiet_memCheck (sg : Seg) (off : W32) (n al : Nat) (w : Bool) : Quiet (memCheck sg off n al w) := by
  unfold memCheck
  repeat first
    | exact .pure _ | exact .raiseB _ | exact .refuseB _ | exact .throw _ | exact .regs | exact .getBus
    | exact .free | exact .raiseIf _ _ | exact .accessed | exact quiet_physical _ _ _ _ | exact quiet_checkRange _
    | refine .ite ?_ ?_ | apply Quiet.bind | intro _ | split | exact .modBus fun _ => rfl | dsimp only

theorem quiet_memPrepare (sg : Seg) (off : W32) (n al : Nat) (w : Bool) : Quiet (memPrepare sg off n al w) := by
  unfold memPrepare
  repeat first
    | exact .pure _ | exact .raiseB _ | exact .refuseB _ | exact .throw _ | exact .regs | exact .getBus
    | exact .free | exact .raiseIf _ _ | exact .accessed | exact quiet_noteAccess _ _ _
    | exact quiet_memCheck _ _ _ _ _ | refine .ite ?_ ?_ | apply Quiet.bind | intro _ | split
    | exact .modBus fun _ => rfl | dsimp only

theorem quiet_memBytes (sg : Seg) (off : W32) (n al : Nat) : Quiet (memBytes sg off n al) := by
  unfold memBytes
  repeat first
    | exact .pure _ | exact .raiseB _ | exact .refuseB _ | exact .throw _ | exact .regs | exact .getBus
    | exact .free | exact .raiseIf _ _ | exact .accessed | exact quiet_readPhys _
    | exact quiet_memPrepare _ _ _ _ _ | refine .ite ?_ ?_ | apply Quiet.bind | intro _ | split
    | exact .modBus fun _ => rfl | dsimp only

theorem quiet_memRead (w : Nat) (sg : Seg) (off : W32) (al : Nat) : Quiet (memRead w sg off al) := by
  unfold memRead
  repeat first
    | exact .pure _ | exact .raiseB _ | exact .refuseB _ | exact .throw _ | exact .regs | exact .getBus
    | exact .free | exact .raiseIf _ _ | exact .accessed | exact quiet_memBytes _ _ _ _ | refine .ite ?_ ?_
    | apply Quiet.bind | intro _ | split | exact .modBus fun _ => rfl | dsimp only

theorem quiet_memReadMayWrite (w : Nat) (sg : Seg) (off : W32) : Quiet (memReadMayWrite w sg off) := by
  unfold memReadMayWrite
  repeat first
    | exact .pure _ | exact .raiseB _ | exact .refuseB _ | exact .throw _ | exact .regs | exact .getBus
    | exact .free | exact .raiseIf _ _ | exact .accessed | exact quiet_readPhys _ | exact quiet_noteAccess _ _ _
    | exact quiet_memCheck _ _ _ _ _ | refine .ite ?_ ?_ | apply Quiet.bind | intro _ | split
    | exact .modBus fun _ => rfl | dsimp only

theorem quiet_descAt (la : W32) : Quiet (descAt la) := by
  unfold descAt
  repeat first
    | exact .pure _ | exact .raiseB _ | exact .refuseB _ | exact .throw _ | exact .regs | exact .getBus
    | exact .free | exact .raiseIf _ _ | exact .accessed | exact quiet_sysRead _ _ | refine .ite ?_ ?_
    | apply Quiet.bind | intro _ | split | exact .modBus fun _ => rfl | dsimp only

theorem quiet_fetchDesc (s : W16) : Quiet (fetchDesc s) := by
  unfold fetchDesc
  repeat first
    | exact .pure _ | exact .raiseB _ | exact .refuseB _ | exact .throw _ | exact .regs | exact .getBus
    | exact .free | exact .raiseIf _ _ | exact .accessed | exact quiet_descAt _ | refine .ite ?_ ?_
    | apply Quiet.bind | intro _ | split | exact .modBus fun _ => rfl | dsimp only

theorem quiet_fetchOr (s : W16) (e : Exc) : Quiet (fetchOr s e) := by
  unfold fetchOr
  repeat first
    | exact .pure _ | exact .raiseB _ | exact .refuseB _ | exact .throw _ | exact .regs | exact .getBus
    | exact .free | exact .raiseIf _ _ | exact .accessed | exact quiet_fetchDesc _ | refine .ite ?_ ?_
    | apply Quiet.bind | intro _ | split | exact .modBus fun _ => rfl | dsimp only

theorem quiet_stackSegment (s : W16) (l : BitVec 2) (bad : W32 → Exc) : Quiet (stackSegment s l bad) := by
  unfold stackSegment
  repeat first
    | exact .pure _ | exact .raiseB _ | exact .refuseB _ | exact .throw _ | exact .regs | exact .getBus
    | exact .free | exact .raiseIf _ _ | exact .accessed | exact quiet_fetchOr _ _ | refine .ite ?_ ?_
    | apply Quiet.bind | intro _ | split | exact .modBus fun _ => rfl | dsimp only

theorem quiet_dataSegment (s : W16) : Quiet (dataSegment s) := by
  unfold dataSegment
  repeat first
    | exact .pure _ | exact .raiseB _ | exact .refuseB _ | exact .throw _ | exact .regs | exact .getBus
    | exact .free | exact .raiseIf _ _ | exact .accessed | exact quiet_fetchOr _ _ | refine .ite ?_ ?_
    | apply Quiet.bind | intro _ | split | exact .modBus fun _ => rfl | dsimp only

theorem quiet_probe (s : W16) (l : List Nat) : Quiet (probe s l) := by
  unfold probe
  repeat first
    | exact .pure _ | exact .raiseB _ | exact .refuseB _ | exact .throw _ | exact .regs | exact .getBus
    | exact .free | exact .raiseIf _ _ | exact .accessed | exact quiet_fetchDesc _ | refine .ite ?_ ?_
    | apply Quiet.bind | intro _ | split | exact .modBus fun _ => rfl | dsimp only

theorem quiet_checkEip (a b : W32) : Quiet (checkEip a b) := by
  unfold checkEip
  repeat first
    | exact .pure _ | exact .raiseB _ | exact .refuseB _ | exact .throw _ | exact .regs | exact .getBus
    | exact .free | exact .raiseIf _ _ | exact .accessed | refine .ite ?_ ?_ | apply Quiet.bind | intro _ | split
    | exact .modBus fun _ => rfl | dsimp only

theorem quiet_stackRoom (n : Nat) : Quiet (stackRoom n) := by
  unfold stackRoom
  repeat first
    | exact .pure _ | exact .raiseB _ | exact .refuseB _ | exact .throw _ | exact .regs | exact .getBus
    | exact .free | exact .raiseIf _ _ | exact .accessed | refine .ite ?_ ?_ | apply Quiet.bind | intro _ | split
    | exact .modBus fun _ => rfl | dsimp only

theorem quiet_stackHolds (i n : Nat) : Quiet (stackHolds i n) := by
  unfold stackHolds
  repeat first
    | exact .pure _ | exact .raiseB _ | exact .refuseB _ | exact .throw _ | exact .regs | exact .getBus
    | exact .free | exact .raiseIf _ _ | exact .accessed | refine .ite ?_ ?_ | apply Quiet.bind | intro _ | split
    | exact .modBus fun _ => rfl | dsimp only

theorem quiet_returnCode (s : W16) : Quiet (returnCode s) := by
  unfold returnCode
  repeat first
    | exact .pure _ | exact .raiseB _ | exact .refuseB _ | exact .throw _ | exact .regs | exact .getBus
    | exact .free | exact .raiseIf _ _ | exact .accessed | exact quiet_fetchOr _ _ | refine .ite ?_ ?_
    | apply Quiet.bind | intro _ | split | exact .modBus fun _ => rfl | dsimp only

theorem quiet_innerStack (l : BitVec 2) : Quiet (innerStack l) := by
  unfold innerStack
  repeat first
    | exact .pure _ | exact .raiseB _ | exact .refuseB _ | exact .throw _ | exact .regs | exact .getBus
    | exact .free | exact .raiseIf _ _ | exact .accessed | exact quiet_sysRead _ _ | exact quiet_stackSegment _ _ _
    | refine .ite ?_ ?_ | apply Quiet.bind | intro _ | split | exact .modBus fun _ => rfl | dsimp only

theorem quiet_roomOn (st : W16 × Desc × W32) (n : Nat) : Quiet (roomOn st n) := by
  unfold roomOn
  repeat first
    | exact .pure _ | exact .raiseB _ | exact .refuseB _ | exact .throw _ | exact .regs | exact .getBus
    | exact .free | exact .raiseIf _ _ | exact .accessed | refine .ite ?_ ?_ | apply Quiet.bind | intro _ | split
    | exact .modBus fun _ => rfl | dsimp only

theorem quiet_checkTss (t : TaskKind) (s : W16) : Quiet (checkTss t s) := by
  unfold checkTss
  repeat first
    | exact .pure _ | exact .raiseB _ | exact .refuseB _ | exact .throw _ | exact .regs | exact .getBus
    | exact .free | exact .raiseIf _ _ | exact .accessed | exact quiet_fetchOr _ _ | refine .ite ?_ ?_
    | apply Quiet.bind | intro _ | split | exact .modBus fun _ => rfl | dsimp only

theorem quiet_presentOrRefuse {α : Type} (r : Refusal) {x : B α} (h : Quiet x) : Quiet (presentOrRefuse r x) := by
  have e : ∀ c b, (presentOrRefuse r x).after c b = x.after c b := by
    intro c b
    unfold B.after presentOrRefuse
    cases x c b with
    | ok a t => rfl
    | error e t => cases e <;> rfl
  refine ⟨⟨fun c b hb => ?_⟩, fun c b => by rw [e]; exact h.same c b⟩
  have := h.wf.keeps c b hb
  unfold presentOrRefuse
  revert this
  cases x c b with
  | ok a t => exact id
  | error e t => cases e <;> exact id

theorem quiet_tssPhys (la : W32) (n : Nat) (w : Bool) : Quiet (tssPhys la n w) := by
  unfold tssPhys
  repeat first
    | exact .pure _ | exact .raiseB _ | exact .refuseB _ | exact .throw _ | exact .regs | exact .getBus
    | exact .free | exact .raiseIf _ _ | exact .accessed | exact quiet_physicalPage _ _ _ _
    | exact quiet_checkRange _ | apply quiet_presentOrRefuse | refine .ite ?_ ?_ | apply Quiet.bind | intro _ | split
    | exact .modBus fun _ => rfl | dsimp only

theorem quiet_tssHolds (n : Nat) : Quiet (tssHolds n) := by
  unfold tssHolds
  repeat first
    | exact .pure _ | exact .raiseB _ | exact .refuseB _ | exact .throw _ | exact .regs | exact .getBus
    | exact .free | exact .raiseIf _ _ | exact .accessed | refine .ite ?_ ?_ | apply Quiet.bind | intro _ | split
    | exact .modBus fun _ => rfl | dsimp only

theorem quiet_halfFree (v : Nat) : Quiet (halfFree v) := by
  unfold halfFree
  repeat first
    | exact .pure _ | exact .raiseB _ | exact .refuseB _ | exact .throw _ | exact .regs | exact .getBus
    | exact .free | exact .raiseIf _ _ | exact .accessed | refine .ite ?_ ?_ | apply Quiet.bind | intro _ | split
    | exact .modBus fun _ => rfl | dsimp only

theorem quiet_freeSeg : Quiet (freeSeg) := by
  unfold freeSeg
  repeat first
    | exact .pure _ | exact .raiseB _ | exact .refuseB _ | exact .throw _ | exact .regs | exact .getBus
    | exact .free | exact .raiseIf _ _ | exact .accessed | refine .ite ?_ ?_ | apply Quiet.bind | intro _ | split
    | exact .modBus fun _ => rfl | dsimp only

theorem quiet_taskGprs (bs : List Byte) (w : Bool) : Quiet (taskGprs bs w) := by
  unfold taskGprs
  repeat first
    | exact .pure _ | exact .raiseB _ | exact .refuseB _ | exact .throw _ | exact .regs | exact .getBus
    | exact .free | exact .raiseIf _ _ | exact .accessed | exact quiet_halfFree _ | refine .ite ?_ ?_
    | apply Quiet.bind | intro _ | split | exact .modBus fun _ => rfl | dsimp only

theorem quiet_taskLdtPresent (s : W16) (d : Option Desc) : Quiet (taskLdtPresent s d) := by
  unfold taskLdtPresent
  repeat first
    | exact .pure _ | exact .raiseB _ | exact .refuseB _ | exact .throw _ | exact .regs | exact .getBus
    | exact .free | exact .raiseIf _ _ | exact .accessed | refine .ite ?_ ?_ | apply Quiet.bind | intro _ | split
    | exact .modBus fun _ => rfl | dsimp only

theorem quiet_taskCodeLevel (s : W16) : Quiet (taskCodeLevel s) := by
  unfold taskCodeLevel
  repeat first
    | exact .pure _ | exact .raiseB _ | exact .refuseB _ | exact .throw _ | exact .regs | exact .getBus
    | exact .free | exact .raiseIf _ _ | exact .accessed | exact quiet_fetchDesc _ | refine .ite ?_ ?_
    | apply Quiet.bind | intro _ | split | exact .modBus fun _ => rfl | dsimp only

theorem quiet_taskStack (s : W16) : Quiet (taskStack s) := by
  unfold taskStack
  repeat first
    | exact .pure _ | exact .raiseB _ | exact .refuseB _ | exact .throw _ | exact .regs | exact .getBus
    | exact .free | exact .raiseIf _ _ | exact .accessed | exact quiet_fetchOr _ _ | refine .ite ?_ ?_
    | apply Quiet.bind | intro _ | split | exact .modBus fun _ => rfl | dsimp only

theorem quiet_taskCode (s : W16) : Quiet (taskCode s) := by
  unfold taskCode
  repeat first
    | exact .pure _ | exact .raiseB _ | exact .refuseB _ | exact .throw _ | exact .regs | exact .getBus
    | exact .free | exact .raiseIf _ _ | exact .accessed | exact quiet_fetchOr _ _ | refine .ite ?_ ?_
    | apply Quiet.bind | intro _ | split | exact .modBus fun _ => rfl | dsimp only

theorem quiet_busyByte (la : W32) : Quiet (busyByte la) := by
  unfold busyByte
  repeat first
    | exact .pure _ | exact .raiseB _ | exact .refuseB _ | exact .throw _ | exact .regs | exact .getBus
    | exact .free | exact .raiseIf _ _ | exact .accessed | exact quiet_physical _ _ _ _ | exact quiet_checkRange _
    | exact quiet_descAt _ | refine .ite ?_ ?_ | apply Quiet.bind | intro _ | split | exact .modBus fun _ => rfl
    | dsimp only

theorem quiet_idtGate (d : Delivery) : Quiet (idtGate d) := by
  unfold idtGate
  repeat first
    | exact .pure _ | exact .raiseB _ | exact .refuseB _ | exact .throw _ | exact .regs | exact .getBus
    | exact .free | exact .raiseIf _ _ | exact .accessed | exact quiet_descAt _ | refine .ite ?_ ?_
    | apply Quiet.bind | intro _ | split | exact .modBus fun _ => rfl | dsimp only

theorem quiet_handlerCode (g : Desc) : Quiet (handlerCode g) := by
  unfold handlerCode
  repeat first
    | exact .pure _ | exact .raiseB _ | exact .refuseB _ | exact .throw _ | exact .regs | exact .getBus
    | exact .free | exact .raiseIf _ _ | exact .accessed | exact quiet_fetchOr _ _ | refine .ite ?_ ?_
    | apply Quiet.bind | intro _ | split | exact .modBus fun _ => rfl | dsimp only

theorem quiet_directCode (s : W16) (d : Desc) : Quiet (directCode s d) := by
  unfold directCode
  repeat first
    | exact .pure _ | exact .raiseB _ | exact .refuseB _ | exact .throw _ | exact .regs | exact .getBus
    | exact .free | exact .raiseIf _ _ | exact .accessed | refine .ite ?_ ?_ | apply Quiet.bind | intro _ | split
    | exact .modBus fun _ => rfl | dsimp only

theorem quiet_readParam (c : Cpu) (osz : OpSize) (i : Nat) : Quiet (readParam c osz i) := by
  unfold readParam
  repeat first
    | exact .pure _ | exact .raiseB _ | exact .refuseB _ | exact .throw _ | exact .regs | exact .getBus
    | exact .free | exact .raiseIf _ _ | exact .accessed | exact quiet_memRead _ _ _ _ | refine .ite ?_ ?_
    | apply Quiet.bind | intro _ | split | exact .modBus fun _ => rfl | dsimp only

theorem quiet_callGateCode (kd : FarKind) (s : W16) (g : Desc) : Quiet (callGateCode kd s g) := by
  unfold callGateCode
  repeat first
    | exact .pure _ | exact .raiseB _ | exact .refuseB _ | exact .throw _ | exact .regs | exact .getBus
    | exact .free | exact .raiseIf _ _ | exact .accessed | exact quiet_fetchOr _ _ | refine .ite ?_ ?_
    | apply Quiet.bind | intro _ | split | exact .modBus fun _ => rfl | dsimp only

theorem quiet_farTaskSel (s : W16) (d : Desc) : Quiet (farTaskSel s d) := by
  unfold farTaskSel
  repeat first
    | exact .pure _ | exact .raiseB _ | exact .refuseB _ | exact .throw _ | exact .regs | exact .getBus
    | exact .free | exact .raiseIf _ _ | exact .accessed | refine .ite ?_ ?_ | apply Quiet.bind | intro _ | split
    | exact .modBus fun _ => rfl | dsimp only

theorem quiet_redirected (v : Byte) : Quiet (redirected v) := by
  unfold redirected
  repeat first
    | exact .pure _ | exact .raiseB _ | exact .refuseB _ | exact .throw _ | exact .regs | exact .getBus
    | exact .free | exact .raiseIf _ _ | exact .accessed | exact quiet_sysRead _ _ | refine .ite ?_ ?_
    | apply Quiet.bind | intro _ | split | exact .modBus fun _ => rfl | dsimp only

theorem quiet_tableOperand (m : MemOp) (w : Bool) : Quiet (tableOperand m w) := by
  unfold tableOperand
  repeat first
    | exact .pure _ | exact .raiseB _ | exact .refuseB _ | exact .throw _ | exact .regs | exact .getBus
    | exact .free | exact .raiseIf _ _ | exact .accessed | refine .ite ?_ ?_ | apply Quiet.bind | intro _ | split
    | exact .modBus fun _ => rfl | dsimp only

theorem quiet_systemDesc (s : W16) (l : List Nat) : Quiet (systemDesc s l) := by
  unfold systemDesc
  repeat first
    | exact .pure _ | exact .raiseB _ | exact .refuseB _ | exact .throw _ | exact .regs | exact .getBus
    | exact .free | exact .raiseIf _ _ | exact .accessed | exact quiet_fetchOr _ _ | refine .ite ?_ ?_
    | apply Quiet.bind | intro _ | split | exact .modBus fun _ => rfl | dsimp only

theorem quiet_ioBitmapAllows (p : W16) (n : Nat) : Quiet (ioBitmapAllows p n) := by
  unfold ioBitmapAllows
  repeat first
    | exact .pure _ | exact .raiseB _ | exact .refuseB _ | exact .throw _ | exact .regs | exact .getBus
    | exact .free | exact .raiseIf _ _ | exact .accessed | exact quiet_sysRead _ _ | refine .ite ?_ ?_
    | apply Quiet.bind | intro _ | split | exact .modBus fun _ => rfl | dsimp only

theorem quiet_ioCheck (p : W16) (n : Nat) : Quiet (ioCheck p n) := by
  unfold ioCheck
  repeat first
    | exact .pure _ | exact .raiseB _ | exact .refuseB _ | exact .throw _ | exact .regs | exact .getBus
    | exact .free | exact .raiseIf _ _ | exact .accessed | exact quiet_ioBitmapAllows _ _ | refine .ite ?_ ?_
    | apply Quiet.bind | intro _ | split | exact .modBus fun _ => rfl | dsimp only

theorem quiet_noteIo (p : W16) (n : Nat) (v : Option W32) : Quiet (noteIo p n v) := by
  unfold noteIo
  repeat first
    | exact .pure _ | exact .raiseB _ | exact .refuseB _ | exact .throw _ | exact .regs | exact .getBus
    | exact .free | exact .raiseIf _ _ | exact .accessed | refine .ite ?_ ?_ | apply Quiet.bind | intro _ | split
    | exact .modBus fun _ => rfl | dsimp only

theorem quiet_typesOf (l : List Nat) : Quiet (typesOf l) := by
  induction l with
  | nil => exact .pure _
  | cons a t ih => exact .bind (quiet_typeOrRefuse _ _) fun _ => .bind ih fun _ => .pure _

theorem quiet_smmPhys (off n : Nat) : Quiet (smmPhys off n) := by
  unfold smmPhys
  repeat first
    | exact .pure _ | exact .refuseB _ | exact .regs | exact .getBus | exact quiet_typesOf _ | apply Quiet.bind | intro _
    | split | dsimp only

theorem quiet_mapBytes (off n : Nat) : Quiet (mapBytes off n) := by
  unfold mapBytes
  repeat first
    | exact .pure _ | exact .raiseB _ | exact .refuseB _ | exact .throw _ | exact .regs | exact .getBus
    | exact .free | exact .raiseIf _ _ | exact .accessed | exact quiet_smmPhys _ _ | refine .ite ?_ ?_ | apply Quiet.bind | intro _ | split
    | exact .modBus fun _ => rfl | dsimp only

theorem quiet_mapField (off n : Nat) : Quiet (mapField off n) := by
  unfold mapField
  repeat first
    | exact .pure _ | exact .raiseB _ | exact .refuseB _ | exact .throw _ | exact .regs | exact .getBus
    | exact .free | exact .raiseIf _ _ | exact .accessed | exact quiet_mapBytes _ _ | refine .ite ?_ ?_
    | apply Quiet.bind | intro _ | split | exact .modBus fun _ => rfl | dsimp only

theorem quiet_mapReserved (l : List (Nat × Nat)) : Quiet (mapReserved l) := by
  induction l with
  | nil => exact .pure _
  | cons m t ih =>
    unfold mapReserved
    repeat first
      | exact .pure _ | exact .raiseB _ | exact .refuseB _ | exact .throw _ | exact .regs | exact .getBus
      | exact .free | exact .raiseIf _ _ | exact .accessed | exact quiet_mapBytes _ _ | exact ih
      | refine .ite ?_ ?_ | apply Quiet.bind | intro _ | split | exact .modBus fun _ => rfl | dsimp only

theorem quiet_freeGprs : Quiet (freeGprs) := by
  unfold freeGprs
  repeat first
    | exact .pure _ | exact .raiseB _ | exact .refuseB _ | exact .throw _ | exact .regs | exact .getBus
    | exact .free | exact .raiseIf _ _ | exact .accessed | refine .ite ?_ ?_ | apply Quiet.bind | intro _ | split
    | exact .modBus fun _ => rfl | dsimp only

theorem quiet_checkImages (l : List (Nat × Nat × Nat)) : Quiet (checkImages l) := by
  induction l with
  | nil => exact .pure _
  | cons m t ih =>
    unfold checkImages
    repeat first
      | exact .pure _ | exact .raiseB _ | exact .refuseB _ | exact .throw _ | exact .regs | exact .getBus
      | exact .free | exact .raiseIf _ _ | exact .accessed | exact quiet_mapField _ _ | exact ih
      | refine .ite ?_ ?_ | apply Quiet.bind | intro _ | split | exact .modBus fun _ => rfl | dsimp only

theorem quiet_mapGprs : Quiet mapGprs := by
  have f (off : Nat) : Quiet (do return BitVec.ofNat 32 (← mapField off 4) : B W32) :=
    .bind (quiet_mapField _ _) fun _ => .pure _
  exact .bind (f _) fun _ => .bind (f _) fun _ => .bind (f _) fun _ => .bind (f _) fun _ => .bind (f _) fun _ =>
    .bind (f _) fun _ => .bind (f _) fun _ => .bind (f _) fun _ => .pure _

theorem quiet_rsmEip (v : SmmSaved) (h : Bool) (n : Nat) : Quiet (rsmEip v h n) := by
  unfold rsmEip
  repeat first
    | exact .pure _ | exact .raiseB _ | exact .refuseB _ | exact .throw _ | exact .regs | exact .getBus
    | exact .free | exact .raiseIf _ _ | exact .accessed | exact quiet_mapField _ _ | refine .ite ?_ ?_
    | apply Quiet.bind | intro _ | split | exact .modBus fun _ => rfl | dsimp only

theorem quiet_binitEvent : Quiet (binitEvent) := by
  unfold binitEvent
  repeat first
    | exact .pure _ | exact .raiseB _ | exact .refuseB _ | exact .throw _ | exact .regs | exact .getBus
    | exact .free | exact .raiseIf _ _ | exact .accessed | refine .ite ?_ ?_ | apply Quiet.bind | intro _ | split
    | exact .modBus fun _ => rfl | dsimp only

theorem quiet_fillLines : Quiet (fillLines) := by
  unfold fillLines
  repeat first
    | exact .pure _ | exact .raiseB _ | exact .refuseB _ | exact .throw _ | exact .regs | exact .getBus
    | exact .free | exact .raiseIf _ _ | exact .accessed | refine .ite ?_ ?_ | apply Quiet.bind | intro _ | split
    | exact .modBus fun _ => rfl | dsimp only

theorem quiet_fetchAt (n : Nat) : Quiet (fetchAt n) := by
  unfold fetchAt
  repeat first
    | exact .pure _ | exact .raiseB _ | exact .refuseB _ | exact .throw _ | exact .regs | exact .getBus
    | exact .free | exact .raiseIf _ _ | exact .accessed | exact quiet_fetchByte _ _ | exact quiet_physical _ _ _ _
    | exact quiet_checkRange _ | refine .ite ?_ ?_ | apply Quiet.bind | intro _ | split
    | exact .modBus fun _ => rfl | dsimp only

theorem quiet_fetchFrom (d : Bool) (e n : Nat) (bs : List Byte) : Quiet (fetchFrom d e n bs) := by
  induction n generalizing bs with
  | zero =>
    unfold fetchFrom
    repeat first
      | exact .pure _ | exact .raiseB _ | exact .refuseB _ | exact .throw _ | exact .regs | exact .getBus
      | exact .free | exact .raiseIf _ _ | exact .accessed | exact quiet_fetchAt _ | exact ih _ | refine .ite ?_ ?_
      | apply Quiet.bind | intro _ | split | exact .modBus fun _ => rfl | dsimp only
  | succ n ih =>
    unfold fetchFrom
    repeat first
      | exact .pure _ | exact .raiseB _ | exact .refuseB _ | exact .throw _ | exact .regs | exact .getBus
      | exact .free | exact .raiseIf _ _ | exact .accessed | exact quiet_fetchAt _ | exact ih _ | refine .ite ?_ ?_
      | apply Quiet.bind | intro _ | split | exact .modBus fun _ => rfl | dsimp only

theorem quiet_fetchInstr : Quiet (fetchInstr) := by
  unfold fetchInstr
  repeat first
    | exact .pure _ | exact .raiseB _ | exact .refuseB _ | exact .throw _ | exact .regs | exact .getBus
    | exact .free | exact .raiseIf _ _ | exact .accessed | exact quiet_fetchFrom _ _ _ _ | refine .ite ?_ ?_
    | apply Quiet.bind | intro _ | split | exact .modBus fun _ => rfl | dsimp only

theorem quiet_checkBreakpoints : Quiet (checkBreakpoints) := by
  unfold checkBreakpoints
  repeat first
    | exact .pure _ | exact .raiseB _ | exact .refuseB _ | exact .throw _ | exact .regs | exact .getBus
    | exact .free | exact .raiseIf _ _ | exact .accessed | refine .ite ?_ ?_ | apply Quiet.bind | intro _ | split
    | exact .modBus fun _ => rfl | dsimp only

end Sys2Proof.Machine
end

