-- ==== Sys2Proof/Laws/Accesses.lean ====
section
/-!
SUPPORT. Every access that stores keeps memory canonical, whether it ends well or not.
-/
namespace Sys2Proof.Machine

theorem keepsWf_storePhys (p : Phys) (bs : List Byte) : KeepsWf (storePhys p bs) := by
  refine .bind .regs fun c => .bind (.modBus fun b h => Bus.setDirty_wf _ _ b h) fun _ => ?_
  split
  · exact (quiet_Apic_store _ _ _).wf
  · exact .modBus fun b h => Bus.store_wf _ _ _ b h

theorem keepsWf_writePart (p : Phys) (bs : List Byte) : KeepsWf (writePart p bs) :=
  .bind quiet_speculate.wf fun _ => keepsWf_storePhys p bs

theorem keepsWf_writePhys (p : Phys) (bs : List Byte) : KeepsWf (writePhys p bs) :=
  .bind .regs fun _ => .ite (keepsWf_writePart _ _) (.bind (keepsWf_writePart _ _) fun _ => keepsWf_writePart _ _)

theorem keepsWf_lockedByte (p : Phys) (f : Nat → Nat) : KeepsWf (lockedByte p f) :=
  .bind quiet_speculate.wf fun _ => .bind .regs fun _ => .bind (.modBus fun b h => Bus.setDirty_wf _ _ b h) fun _ =>
    .bind (quiet_readPhys p).wf fun _ => keepsWf_storePhys p _

theorem keepsWf_sysLocked (la : W32) (f : Nat → Nat) : KeepsWf (sysLocked la f) :=
  .bind (quiet_physical _ _ _ _).wf fun _ => .bind (quiet_checkRange _).wf fun _ => keepsWf_lockedByte _ f

theorem keepsWf_linStore (la : W32) (bs : List Byte) (u : Bool) : KeepsWf (linStore la bs u) := by
  unfold linStore
  repeat first
    | exact .pure _ | exact .raiseB _ | exact .refuseB _ | exact .throw _ | exact .regs | exact .getBus
    | exact .free | exact .raiseIf _ _ | exact (quiet_physical _ _ _ _).wf | exact (quiet_checkRange _).wf
    | exact keepsWf_writePhys _ _ | refine .ite ?_ ?_ | apply KeepsWf.bind | intro _ | split
    | exact .modBus fun _ h => h | dsimp only

theorem keepsWf_sysWrite (la : W32) (n v : Nat) : KeepsWf (sysWrite la n v) := by
  unfold sysWrite
  repeat first
    | exact .pure _ | exact .raiseB _ | exact .refuseB _ | exact .throw _ | exact .regs | exact .getBus
    | exact .free | exact .raiseIf _ _ | exact keepsWf_linStore _ _ _ | refine .ite ?_ ?_ | apply KeepsWf.bind
    | intro _ | split | exact .modBus fun _ h => h | dsimp only

theorem keepsWf_memWrite {w : Nat} (sg : Seg) (off : W32) (v : BitVec w) (al : Nat) : KeepsWf (memWrite sg off v al) := by
  unfold memWrite
  repeat first
    | exact .pure _ | exact .raiseB _ | exact .refuseB _ | exact .throw _ | exact .regs | exact .getBus
    | exact .free | exact .raiseIf _ _ | exact (quiet_memPrepare _ _ _ _ _).wf | exact keepsWf_writePhys _ _
    | refine .ite ?_ ?_ | apply KeepsWf.bind | intro _ | split | exact .modBus fun _ h => h | dsimp only

theorem keepsWf_memReadForWrite (w : Nat) (sg : Seg) (off : W32) : KeepsWf (memReadForWrite w sg off) := by
  unfold memReadForWrite
  repeat first
    | exact .modBus fun b h => Bus.setDirty_wf _ _ b h | exact .pure _ | exact .raiseB _ | exact .refuseB _
    | exact .throw _ | exact .regs | exact .getBus | exact .free | exact .raiseIf _ _ | exact (quiet_readPhys _).wf
    | exact (quiet_memPrepare _ _ _ _ _).wf | refine .ite ?_ ?_ | apply KeepsWf.bind | intro _ | split
    | exact .modBus fun _ h => h | dsimp only

theorem keepsWf_memWriteBack {w : Nat} (lock : Bool) (p : Phys) (v : BitVec w) : KeepsWf (memWriteBack lock p v) :=
  .ite (keepsWf_storePhys _ _) (keepsWf_writePhys _ _)

theorem keepsWf_memWriteNow {w : Nat} (p : Phys) (v : BitVec w) : KeepsWf (memWriteNow p v) := by
  unfold memWriteNow
  repeat first
    | exact .pure _ | exact .raiseB _ | exact .refuseB _ | exact .throw _ | exact .regs | exact .getBus
    | exact .free | exact .raiseIf _ _ | exact (quiet_noteAccess _ _ _).wf | exact keepsWf_writePhys _ _
    | refine .ite ?_ ?_ | apply KeepsWf.bind | intro _ | split | exact .modBus fun _ h => h | dsimp only

theorem keepsWf_setAccessed (d : Desc) : KeepsWf (setAccessed d) := .ite (.pure _) (keepsWf_sysLocked _ _)

theorem keepsWf_setBusy (d : Desc) : KeepsWf (setBusy d) := keepsWf_sysLocked _ _

theorem keepsWf_loadSegValue (sr : Seg) (s : W16) : KeepsWf (loadSegValue sr s) := by
  unfold loadSegValue
  repeat first
    | exact .pure _ | exact .raiseB _ | exact .refuseB _ | exact .throw _ | exact .regs | exact .getBus
    | exact .free | exact .raiseIf _ _ | exact (quiet_stackSegment _ _ _).wf | exact (quiet_dataSegment _).wf
    | exact keepsWf_setAccessed _ | refine .ite ?_ ?_ | apply KeepsWf.bind | intro _ | split
    | exact .modBus fun _ h => h | dsimp only

theorem keepsWf_writeFields (p : Phys) (l : List (Nat × Nat × Nat)) : KeepsWf (writeFields p l) := by
  induction l with
  | nil => exact .pure _
  | cons m t ih =>
    unfold writeFields
    repeat first
      | exact .pure _ | exact .raiseB _ | exact .refuseB _ | exact .throw _ | exact .regs | exact .getBus
      | exact .free | exact .raiseIf _ _ | exact keepsWf_writePhys _ _ | exact ih | refine .ite ?_ ?_
      | apply KeepsWf.bind | intro _ | split | exact .modBus fun _ h => h | dsimp only

theorem keepsWf_changeBusy (p : Option Phys) (f : Nat → Nat) : KeepsWf (changeBusy p f) :=
  match p with
  | none => .pure _
  | some p => keepsWf_lockedByte p f

theorem keepsWf_loseBytes (l : List Host.Cell) : KeepsWf (loseBytes l) := by
  induction l with
  | nil => exact .pure _
  | cons m t ih =>
    unfold loseBytes
    repeat first
      | exact .modBus fun b h => Bus.put_wf _ b h | exact .pure _ | exact .raiseB _ | exact .refuseB _
      | exact .throw _ | exact .regs | exact .getBus | exact .free | exact .raiseIf _ _ | exact quiet_freeBit.wf
      | exact ih | refine .ite ?_ ?_ | apply KeepsWf.bind | intro _ | split | exact .modBus fun _ h => h
      | dsimp only

theorem keepsWf_writeMap (l : List (Nat × Nat × Nat)) : KeepsWf (writeMap l) := by
  induction l with
  | nil => exact quiet_speculate.wf
  | cons m t ih =>
    unfold writeMap
    repeat first
      | exact .modBus fun b h => Bus.store_wf _ _ _ b h | exact .pure _ | exact .raiseB _ | exact .refuseB _
      | exact .throw _ | exact .regs | exact .getBus | exact .free | exact .raiseIf _ _ | exact quiet_speculate.wf
      | exact (quiet_smmPhys _ _).wf | exact ih
      | refine .ite ?_ ?_ | apply KeepsWf.bind | intro _ | split | exact .modBus fun _ h => h | dsimp only

end Sys2Proof.Machine
end

