-- ==== Sys2Proof/Laws/Bus.lean ====
section
/-!
SUPPORT. One lemma for each field and each named update of memory and devices: what the field is afterwards.
-/
namespace Sys2Proof.Machine

/-! Memory and devices. -/

@[simp] theorem Bus.put_io (b : Bus) (l : List (Nat × Byte)) : (Bus.put l b).io = b.io := rfl
@[simp] theorem Bus.put_apic (b : Bus) (l : List (Nat × Byte)) : (Bus.put l b).apic = b.apic := rfl
@[simp] theorem Bus.put_ev (b : Bus) (l : List (Nat × Byte)) : (Bus.put l b).ev = b.ev := rfl
@[simp] theorem Bus.put_out (b : Bus) (l : List (Nat × Byte)) : (Bus.put l b).out = b.out := rfl
@[simp] theorem Bus.put_lines (b : Bus) (l : List (Nat × Byte)) : (Bus.put l b).lines = b.lines := rfl
@[simp] theorem Bus.put_lossy (b : Bus) (l : List (Nat × Byte)) : (Bus.put l b).lossy = b.lossy := rfl
@[simp] theorem Bus.put_stale (b : Bus) (l : List (Nat × Byte)) : (Bus.put l b).stale = b.stale := rfl
@[simp] theorem Bus.put_hits (b : Bus) (l : List (Nat × Byte)) : (Bus.put l b).hits = b.hits := rfl
@[simp] theorem Bus.put_oldPg (b : Bus) (l : List (Nat × Byte)) : (Bus.put l b).oldPg = b.oldPg := rfl
@[simp] theorem Bus.put_freeCtr (b : Bus) (l : List (Nat × Byte)) : (Bus.put l b).freeCtr = b.freeCtr := rfl

@[simp] theorem Bus.accessed_io (b : Bus) : (Bus.accessed b).io = b.io := by unfold Bus.accessed; split <;> rfl
@[simp] theorem Bus.accessed_tlb (b : Bus) : (Bus.accessed b).tlb = b.tlb := by unfold Bus.accessed; split <;> rfl
@[simp] theorem Bus.accessed_apic (b : Bus) : (Bus.accessed b).apic = b.apic := by unfold Bus.accessed; split <;> rfl
@[simp] theorem Bus.accessed_ev (b : Bus) : (Bus.accessed b).ev = b.ev := by unfold Bus.accessed; split <;> rfl
@[simp] theorem Bus.accessed_out (b : Bus) : (Bus.accessed b).out = b.out := by unfold Bus.accessed; split <;> rfl
@[simp] theorem Bus.accessed_lines (b : Bus) :
    (Bus.accessed b).lines = b.lines := by unfold Bus.accessed; split <;> rfl
@[simp] theorem Bus.accessed_lossy (b : Bus) :
    (Bus.accessed b).lossy = b.lossy := by unfold Bus.accessed; split <;> rfl
@[simp] theorem Bus.accessed_stale (b : Bus) :
    (Bus.accessed b).stale = b.stale := by unfold Bus.accessed; split <;> rfl
@[simp] theorem Bus.accessed_hits (b : Bus) : (Bus.accessed b).hits = b.hits := by unfold Bus.accessed; split <;> rfl
@[simp] theorem Bus.accessed_oldPg (b : Bus) : (Bus.accessed b).oldPg = b.oldPg := by unfold Bus.accessed; split <;> rfl

@[simp] theorem Bus.store_map (b : Bus) (c : Cpu) (p : Phys) (l : List Byte) : (Bus.store c p l b).map = b.map := rfl
@[simp] theorem Bus.store_io (b : Bus) (c : Cpu) (p : Phys) (l : List Byte) : (Bus.store c p l b).io = b.io := rfl
@[simp] theorem Bus.store_tlb (b : Bus) (c : Cpu) (p : Phys) (l : List Byte) : (Bus.store c p l b).tlb = b.tlb := rfl
@[simp] theorem Bus.store_apic (b : Bus) (c : Cpu) (p : Phys) (l : List Byte) :
    (Bus.store c p l b).apic = b.apic := rfl
@[simp] theorem Bus.store_ev (b : Bus) (c : Cpu) (p : Phys) (l : List Byte) : (Bus.store c p l b).ev = b.ev := rfl
@[simp] theorem Bus.store_out (b : Bus) (c : Cpu) (p : Phys) (l : List Byte) : (Bus.store c p l b).out = b.out := rfl
@[simp] theorem Bus.store_lines (b : Bus) (c : Cpu) (p : Phys) (l : List Byte) :
    (Bus.store c p l b).lines = b.lines := rfl
@[simp] theorem Bus.store_hits (b : Bus) (c : Cpu) (p : Phys) (l : List Byte) :
    (Bus.store c p l b).hits = b.hits := rfl
@[simp] theorem Bus.store_oldPg (b : Bus) (c : Cpu) (p : Phys) (l : List Byte) :
    (Bus.store c p l b).oldPg = b.oldPg := rfl
@[simp] theorem Bus.store_freeCtr (b : Bus) (c : Cpu) (p : Phys) (l : List Byte) :
    (Bus.store c p l b).freeCtr = b.freeCtr := rfl
@[simp] theorem Bus.store_mem (b : Bus) (c : Cpu) (p : Phys) (l : List Byte) :
    (Bus.store c p l b).mem = (b.put (p.addrs.zip l)).mem := rfl

@[simp] theorem Bus.mark_map (b : Bus) (c : Cpu) (f : Byte) (e : EntryRef) : (Bus.mark c f e b).map = b.map := rfl
@[simp] theorem Bus.mark_io (b : Bus) (c : Cpu) (f : Byte) (e : EntryRef) : (Bus.mark c f e b).io = b.io := rfl
@[simp] theorem Bus.mark_tlb (b : Bus) (c : Cpu) (f : Byte) (e : EntryRef) : (Bus.mark c f e b).tlb = b.tlb := rfl
@[simp] theorem Bus.mark_apic (b : Bus) (c : Cpu) (f : Byte) (e : EntryRef) : (Bus.mark c f e b).apic = b.apic := rfl
@[simp] theorem Bus.mark_ev (b : Bus) (c : Cpu) (f : Byte) (e : EntryRef) : (Bus.mark c f e b).ev = b.ev := rfl
@[simp] theorem Bus.mark_out (b : Bus) (c : Cpu) (f : Byte) (e : EntryRef) : (Bus.mark c f e b).out = b.out := rfl
@[simp] theorem Bus.mark_lines (b : Bus) (c : Cpu) (f : Byte) (e : EntryRef) :
    (Bus.mark c f e b).lines = b.lines := rfl
@[simp] theorem Bus.mark_stale (b : Bus) (c : Cpu) (f : Byte) (e : EntryRef) :
    (Bus.mark c f e b).stale = b.stale := rfl
@[simp] theorem Bus.mark_hits (b : Bus) (c : Cpu) (f : Byte) (e : EntryRef) : (Bus.mark c f e b).hits = b.hits := rfl
@[simp] theorem Bus.mark_oldPg (b : Bus) (c : Cpu) (f : Byte) (e : EntryRef) : (Bus.mark c f e b).oldPg = b.oldPg := rfl
@[simp] theorem Bus.mark_freeCtr (b : Bus) (c : Cpu) (f : Byte) (e : EntryRef) :
    (Bus.mark c f e b).freeCtr = b.freeCtr := rfl

/-- What setting flags of entries leaves as it was. -/
theorem Bus.setDirty_eq (b : Bus) (c : Cpu) (l : List EntryRef) :
    Bus.setDirty c l b = { b with
        mem := (Bus.setDirty c l b).mem
        tlb := (Bus.setDirty c l b).tlb
        lossy := (Bus.setDirty c l b).lossy } := by
  induction l generalizing b with
  | nil => rfl
  | cons e t ih =>
    unfold Bus.setDirty
    rw [ih]
    dsimp only
    split <;> rfl

@[simp] theorem Bus.setDirty_map (b : Bus) (c : Cpu) (l : List EntryRef) :
    (Bus.setDirty c l b).map = b.map := by rw [Bus.setDirty_eq]
@[simp] theorem Bus.setDirty_io (b : Bus) (c : Cpu) (l : List EntryRef) :
    (Bus.setDirty c l b).io = b.io := by rw [Bus.setDirty_eq]
@[simp] theorem Bus.setDirty_apic (b : Bus) (c : Cpu) (l : List EntryRef) :
    (Bus.setDirty c l b).apic = b.apic := by rw [Bus.setDirty_eq]
@[simp] theorem Bus.setDirty_ev (b : Bus) (c : Cpu) (l : List EntryRef) :
    (Bus.setDirty c l b).ev = b.ev := by rw [Bus.setDirty_eq]
@[simp] theorem Bus.setDirty_out (b : Bus) (c : Cpu) (l : List EntryRef) :
    (Bus.setDirty c l b).out = b.out := by rw [Bus.setDirty_eq]
@[simp] theorem Bus.setDirty_lines (b : Bus) (c : Cpu) (l : List EntryRef) :
    (Bus.setDirty c l b).lines = b.lines := by rw [Bus.setDirty_eq]
@[simp] theorem Bus.setDirty_stale (b : Bus) (c : Cpu) (l : List EntryRef) :
    (Bus.setDirty c l b).stale = b.stale := by rw [Bus.setDirty_eq]
@[simp] theorem Bus.setDirty_hits (b : Bus) (c : Cpu) (l : List EntryRef) :
    (Bus.setDirty c l b).hits = b.hits := by rw [Bus.setDirty_eq]
@[simp] theorem Bus.setDirty_oldPg (b : Bus) (c : Cpu) (l : List EntryRef) :
    (Bus.setDirty c l b).oldPg = b.oldPg := by rw [Bus.setDirty_eq]
@[simp] theorem Bus.setDirty_freeCtr (b : Bus) (c : Cpu) (l : List EntryRef) :
    (Bus.setDirty c l b).freeCtr = b.freeCtr := by rw [Bus.setDirty_eq]

/-- What setting flags of entries leaves as it was. -/
theorem Bus.setAccessedFlags_eq (b : Bus) (c : Cpu) (l : List EntryRef) :
    Bus.setAccessedFlags c l b = { b with
        mem := (Bus.setAccessedFlags c l b).mem
        lossy := (Bus.setAccessedFlags c l b).lossy } := by
  induction l generalizing b with
  | nil => rfl
  | cons e t ih =>
    unfold Bus.setAccessedFlags
    rw [ih]
    rfl

@[simp] theorem Bus.setAccessedFlags_map (b : Bus) (c : Cpu) (l : List EntryRef) :
    (Bus.setAccessedFlags c l b).map = b.map := by rw [Bus.setAccessedFlags_eq]
@[simp] theorem Bus.setAccessedFlags_io (b : Bus) (c : Cpu) (l : List EntryRef) :
    (Bus.setAccessedFlags c l b).io = b.io := by rw [Bus.setAccessedFlags_eq]
@[simp] theorem Bus.setAccessedFlags_tlb (b : Bus) (c : Cpu) (l : List EntryRef) :
    (Bus.setAccessedFlags c l b).tlb = b.tlb := by rw [Bus.setAccessedFlags_eq]
@[simp] theorem Bus.setAccessedFlags_apic (b : Bus) (c : Cpu) (l : List EntryRef) :
    (Bus.setAccessedFlags c l b).apic = b.apic := by rw [Bus.setAccessedFlags_eq]
@[simp] theorem Bus.setAccessedFlags_ev (b : Bus) (c : Cpu) (l : List EntryRef) :
    (Bus.setAccessedFlags c l b).ev = b.ev := by rw [Bus.setAccessedFlags_eq]
@[simp] theorem Bus.setAccessedFlags_out (b : Bus) (c : Cpu) (l : List EntryRef) :
    (Bus.setAccessedFlags c l b).out = b.out := by rw [Bus.setAccessedFlags_eq]
@[simp] theorem Bus.setAccessedFlags_lines (b : Bus) (c : Cpu) (l : List EntryRef) :
    (Bus.setAccessedFlags c l b).lines = b.lines := by rw [Bus.setAccessedFlags_eq]
@[simp] theorem Bus.setAccessedFlags_stale (b : Bus) (c : Cpu) (l : List EntryRef) :
    (Bus.setAccessedFlags c l b).stale = b.stale := by rw [Bus.setAccessedFlags_eq]
@[simp] theorem Bus.setAccessedFlags_hits (b : Bus) (c : Cpu) (l : List EntryRef) :
    (Bus.setAccessedFlags c l b).hits = b.hits := by rw [Bus.setAccessedFlags_eq]
@[simp] theorem Bus.setAccessedFlags_oldPg (b : Bus) (c : Cpu) (l : List EntryRef) :
    (Bus.setAccessedFlags c l b).oldPg = b.oldPg := by rw [Bus.setAccessedFlags_eq]
@[simp] theorem Bus.setAccessedFlags_freeCtr (b : Bus) (c : Cpu) (l : List EntryRef) :
    (Bus.setAccessedFlags c l b).freeCtr = b.freeCtr := by rw [Bus.setAccessedFlags_eq]

@[simp] theorem Bus.fill_mem (b : Bus) (e : TlbEntry) : (Bus.fill e b).mem = b.mem := rfl
@[simp] theorem Bus.fill_map (b : Bus) (e : TlbEntry) : (Bus.fill e b).map = b.map := rfl
@[simp] theorem Bus.fill_io (b : Bus) (e : TlbEntry) : (Bus.fill e b).io = b.io := rfl
@[simp] theorem Bus.fill_apic (b : Bus) (e : TlbEntry) : (Bus.fill e b).apic = b.apic := rfl
@[simp] theorem Bus.fill_ev (b : Bus) (e : TlbEntry) : (Bus.fill e b).ev = b.ev := rfl
@[simp] theorem Bus.fill_out (b : Bus) (e : TlbEntry) : (Bus.fill e b).out = b.out := rfl
@[simp] theorem Bus.fill_lines (b : Bus) (e : TlbEntry) : (Bus.fill e b).lines = b.lines := rfl
@[simp] theorem Bus.fill_lossy (b : Bus) (e : TlbEntry) : (Bus.fill e b).lossy = b.lossy := rfl
@[simp] theorem Bus.fill_stale (b : Bus) (e : TlbEntry) : (Bus.fill e b).stale = b.stale := rfl
@[simp] theorem Bus.fill_hits (b : Bus) (e : TlbEntry) : (Bus.fill e b).hits = b.hits := rfl
@[simp] theorem Bus.fill_oldPg (b : Bus) (e : TlbEntry) : (Bus.fill e b).oldPg = b.oldPg := rfl
@[simp] theorem Bus.fill_freeCtr (b : Bus) (e : TlbEntry) : (Bus.fill e b).freeCtr = b.freeCtr := rfl

@[simp] theorem Bus.jumped_mem (b : Bus) : (Bus.jumped b).mem = b.mem := rfl
@[simp] theorem Bus.jumped_map (b : Bus) : (Bus.jumped b).map = b.map := rfl
@[simp] theorem Bus.jumped_io (b : Bus) : (Bus.jumped b).io = b.io := rfl
@[simp] theorem Bus.jumped_tlb (b : Bus) : (Bus.jumped b).tlb = b.tlb := rfl
@[simp] theorem Bus.jumped_apic (b : Bus) : (Bus.jumped b).apic = b.apic := rfl
@[simp] theorem Bus.jumped_ev (b : Bus) : (Bus.jumped b).ev = b.ev := rfl
@[simp] theorem Bus.jumped_out (b : Bus) : (Bus.jumped b).out = b.out := rfl
@[simp] theorem Bus.jumped_lines (b : Bus) : (Bus.jumped b).lines = b.lines := rfl
@[simp] theorem Bus.jumped_lossy (b : Bus) : (Bus.jumped b).lossy = b.lossy := rfl
@[simp] theorem Bus.jumped_hits (b : Bus) : (Bus.jumped b).hits = b.hits := rfl
@[simp] theorem Bus.jumped_oldPg (b : Bus) : (Bus.jumped b).oldPg = false := rfl
@[simp] theorem Bus.jumped_freeCtr (b : Bus) : (Bus.jumped b).freeCtr = b.freeCtr := rfl

@[simp] theorem Bus.serialized_mem (b : Bus) : (Bus.serialized b).mem = b.mem := rfl
@[simp] theorem Bus.serialized_map (b : Bus) : (Bus.serialized b).map = b.map := rfl
@[simp] theorem Bus.serialized_io (b : Bus) : (Bus.serialized b).io = b.io := rfl
@[simp] theorem Bus.serialized_tlb (b : Bus) : (Bus.serialized b).tlb = b.tlb := rfl
@[simp] theorem Bus.serialized_apic (b : Bus) : (Bus.serialized b).apic = b.apic := rfl
@[simp] theorem Bus.serialized_ev (b : Bus) : (Bus.serialized b).ev = b.ev := rfl
@[simp] theorem Bus.serialized_out (b : Bus) : (Bus.serialized b).out = b.out := rfl
@[simp] theorem Bus.serialized_lines (b : Bus) : (Bus.serialized b).lines = b.lines := rfl
@[simp] theorem Bus.serialized_lossy (b : Bus) : (Bus.serialized b).lossy = b.lossy := rfl
@[simp] theorem Bus.serialized_hits (b : Bus) : (Bus.serialized b).hits = b.hits := rfl
@[simp] theorem Bus.serialized_oldPg (b : Bus) : (Bus.serialized b).oldPg = false := rfl
@[simp] theorem Bus.serialized_freeCtr (b : Bus) : (Bus.serialized b).freeCtr = b.freeCtr := rfl
@[simp] theorem Bus.serialized_stale (b : Bus) : (Bus.serialized b).stale = [] := rfl

@[simp] theorem Bus.flushAll_mem (b : Bus) : (Bus.flushAll b).mem = b.mem := rfl
@[simp] theorem Bus.flushAll_map (b : Bus) : (Bus.flushAll b).map = b.map := rfl
@[simp] theorem Bus.flushAll_io (b : Bus) : (Bus.flushAll b).io = b.io := rfl
@[simp] theorem Bus.flushAll_apic (b : Bus) : (Bus.flushAll b).apic = b.apic := rfl
@[simp] theorem Bus.flushAll_ev (b : Bus) : (Bus.flushAll b).ev = b.ev := rfl
@[simp] theorem Bus.flushAll_out (b : Bus) : (Bus.flushAll b).out = b.out := rfl
@[simp] theorem Bus.flushAll_lines (b : Bus) : (Bus.flushAll b).lines = b.lines := rfl
@[simp] theorem Bus.flushAll_lossy (b : Bus) : (Bus.flushAll b).lossy = b.lossy := rfl
@[simp] theorem Bus.flushAll_stale (b : Bus) : (Bus.flushAll b).stale = b.stale := rfl
@[simp] theorem Bus.flushAll_hits (b : Bus) : (Bus.flushAll b).hits = b.hits := rfl
@[simp] theorem Bus.flushAll_oldPg (b : Bus) : (Bus.flushAll b).oldPg = b.oldPg := rfl
@[simp] theorem Bus.flushAll_freeCtr (b : Bus) : (Bus.flushAll b).freeCtr = b.freeCtr := rfl
@[simp] theorem Bus.flushAll_tlb (b : Bus) : (Bus.flushAll b).tlb = [] := rfl

@[simp] theorem Bus.flushLocal_mem (b : Bus) : (Bus.flushLocal b).mem = b.mem := rfl
@[simp] theorem Bus.flushLocal_map (b : Bus) : (Bus.flushLocal b).map = b.map := rfl
@[simp] theorem Bus.flushLocal_io (b : Bus) : (Bus.flushLocal b).io = b.io := rfl
@[simp] theorem Bus.flushLocal_apic (b : Bus) : (Bus.flushLocal b).apic = b.apic := rfl
@[simp] theorem Bus.flushLocal_ev (b : Bus) : (Bus.flushLocal b).ev = b.ev := rfl
@[simp] theorem Bus.flushLocal_out (b : Bus) : (Bus.flushLocal b).out = b.out := rfl
@[simp] theorem Bus.flushLocal_lines (b : Bus) : (Bus.flushLocal b).lines = b.lines := rfl
@[simp] theorem Bus.flushLocal_lossy (b : Bus) : (Bus.flushLocal b).lossy = b.lossy := rfl
@[simp] theorem Bus.flushLocal_stale (b : Bus) : (Bus.flushLocal b).stale = b.stale := rfl
@[simp] theorem Bus.flushLocal_hits (b : Bus) : (Bus.flushLocal b).hits = b.hits := rfl
@[simp] theorem Bus.flushLocal_oldPg (b : Bus) : (Bus.flushLocal b).oldPg = b.oldPg := rfl
@[simp] theorem Bus.flushLocal_freeCtr (b : Bus) : (Bus.flushLocal b).freeCtr = b.freeCtr := rfl
@[simp] theorem Bus.flushLocal_tlb (b : Bus) : (Bus.flushLocal b).tlb = b.tlb.filter (·.global) := rfl

@[simp] theorem Bus.flushPage_mem (b : Bus) (la : W32) : (Bus.flushPage la b).mem = b.mem := rfl
@[simp] theorem Bus.flushPage_map (b : Bus) (la : W32) : (Bus.flushPage la b).map = b.map := rfl
@[simp] theorem Bus.flushPage_io (b : Bus) (la : W32) : (Bus.flushPage la b).io = b.io := rfl
@[simp] theorem Bus.flushPage_apic (b : Bus) (la : W32) : (Bus.flushPage la b).apic = b.apic := rfl
@[simp] theorem Bus.flushPage_ev (b : Bus) (la : W32) : (Bus.flushPage la b).ev = b.ev := rfl
@[simp] theorem Bus.flushPage_out (b : Bus) (la : W32) : (Bus.flushPage la b).out = b.out := rfl
@[simp] theorem Bus.flushPage_lines (b : Bus) (la : W32) : (Bus.flushPage la b).lines = b.lines := rfl
@[simp] theorem Bus.flushPage_lossy (b : Bus) (la : W32) : (Bus.flushPage la b).lossy = b.lossy := rfl
@[simp] theorem Bus.flushPage_stale (b : Bus) (la : W32) : (Bus.flushPage la b).stale = b.stale := rfl
@[simp] theorem Bus.flushPage_hits (b : Bus) (la : W32) : (Bus.flushPage la b).hits = b.hits := rfl
@[simp] theorem Bus.flushPage_oldPg (b : Bus) (la : W32) : (Bus.flushPage la b).oldPg = b.oldPg := rfl
@[simp] theorem Bus.flushPage_freeCtr (b : Bus) (la : W32) : (Bus.flushPage la b).freeCtr = b.freeCtr := rfl
@[simp] theorem Bus.flushPage_tlb (b : Bus) (la : W32) :
    (Bus.flushPage la b).tlb = b.tlb.filter fun e => !e.covers la := rfl

@[simp] theorem Bus.emptied_mem (b : Bus) : (Bus.emptied b).mem = b.mem := rfl
@[simp] theorem Bus.emptied_map (b : Bus) : (Bus.emptied b).map = b.map := rfl
@[simp] theorem Bus.emptied_io (b : Bus) : (Bus.emptied b).io = b.io := rfl
@[simp] theorem Bus.emptied_tlb (b : Bus) : (Bus.emptied b).tlb = b.tlb := rfl
@[simp] theorem Bus.emptied_apic (b : Bus) : (Bus.emptied b).apic = b.apic := rfl
@[simp] theorem Bus.emptied_ev (b : Bus) : (Bus.emptied b).ev = b.ev := rfl
@[simp] theorem Bus.emptied_out (b : Bus) : (Bus.emptied b).out = b.out := rfl
@[simp] theorem Bus.emptied_stale (b : Bus) : (Bus.emptied b).stale = b.stale := rfl
@[simp] theorem Bus.emptied_hits (b : Bus) : (Bus.emptied b).hits = b.hits := rfl
@[simp] theorem Bus.emptied_oldPg (b : Bus) : (Bus.emptied b).oldPg = b.oldPg := rfl
@[simp] theorem Bus.emptied_freeCtr (b : Bus) : (Bus.emptied b).freeCtr = b.freeCtr := rfl
@[simp] theorem Bus.emptied_lossy (b : Bus) : (Bus.emptied b).lossy = [] := rfl
@[simp] theorem Bus.emptied_lines (b : Bus) : (Bus.emptied b).lines = false := rfl

@[simp] theorem Bus.resumed_mem (b : Bus) (c : Cpu) (cr0 cr4 : W32) :
    (Bus.resumed c cr0 cr4 b).mem = b.mem := by unfold Bus.resumed; split <;> rfl
@[simp] theorem Bus.resumed_map (b : Bus) (c : Cpu) (cr0 cr4 : W32) :
    (Bus.resumed c cr0 cr4 b).map = b.map := by unfold Bus.resumed; split <;> rfl
@[simp] theorem Bus.resumed_io (b : Bus) (c : Cpu) (cr0 cr4 : W32) :
    (Bus.resumed c cr0 cr4 b).io = b.io := by unfold Bus.resumed; split <;> rfl
@[simp] theorem Bus.resumed_apic (b : Bus) (c : Cpu) (cr0 cr4 : W32) :
    (Bus.resumed c cr0 cr4 b).apic = b.apic := by unfold Bus.resumed; split <;> rfl
@[simp] theorem Bus.resumed_ev (b : Bus) (c : Cpu) (cr0 cr4 : W32) :
    (Bus.resumed c cr0 cr4 b).ev = b.ev := by unfold Bus.resumed; split <;> rfl
@[simp] theorem Bus.resumed_out (b : Bus) (c : Cpu) (cr0 cr4 : W32) :
    (Bus.resumed c cr0 cr4 b).out = b.out := by unfold Bus.resumed; split <;> rfl
@[simp] theorem Bus.resumed_lines (b : Bus) (c : Cpu) (cr0 cr4 : W32) :
    (Bus.resumed c cr0 cr4 b).lines = b.lines := by unfold Bus.resumed; split <;> rfl
@[simp] theorem Bus.resumed_lossy (b : Bus) (c : Cpu) (cr0 cr4 : W32) :
    (Bus.resumed c cr0 cr4 b).lossy = b.lossy := by unfold Bus.resumed; split <;> rfl
@[simp] theorem Bus.resumed_stale (b : Bus) (c : Cpu) (cr0 cr4 : W32) :
    (Bus.resumed c cr0 cr4 b).stale = b.stale := by unfold Bus.resumed; split <;> rfl
@[simp] theorem Bus.resumed_hits (b : Bus) (c : Cpu) (cr0 cr4 : W32) :
    (Bus.resumed c cr0 cr4 b).hits = b.hits := by unfold Bus.resumed; split <;> rfl
@[simp] theorem Bus.resumed_oldPg (b : Bus) (c : Cpu) (cr0 cr4 : W32) :
    (Bus.resumed c cr0 cr4 b).oldPg = b.oldPg := by unfold Bus.resumed; split <;> rfl
@[simp] theorem Bus.resumed_freeCtr (b : Bus) (c : Cpu) (cr0 cr4 : W32) :
    (Bus.resumed c cr0 cr4 b).freeCtr = b.freeCtr := by unfold Bus.resumed; split <;> rfl

@[simp] theorem Bus.flushReleased_mem (b : Bus) :
    (Bus.flushReleased b).mem = b.mem := by unfold Bus.flushReleased; split <;> rfl
@[simp] theorem Bus.flushReleased_map (b : Bus) :
    (Bus.flushReleased b).map = b.map := by unfold Bus.flushReleased; split <;> rfl
@[simp] theorem Bus.flushReleased_io (b : Bus) :
    (Bus.flushReleased b).io = b.io := by unfold Bus.flushReleased; split <;> rfl
@[simp] theorem Bus.flushReleased_apic (b : Bus) :
    (Bus.flushReleased b).apic = b.apic := by unfold Bus.flushReleased; split <;> rfl
@[simp] theorem Bus.flushReleased_out (b : Bus) :
    (Bus.flushReleased b).out = b.out := by unfold Bus.flushReleased; split <;> rfl
@[simp] theorem Bus.flushReleased_lines (b : Bus) :
    (Bus.flushReleased b).lines = b.lines := by unfold Bus.flushReleased; split <;> rfl
@[simp] theorem Bus.flushReleased_lossy (b : Bus) :
    (Bus.flushReleased b).lossy = b.lossy := by unfold Bus.flushReleased; split <;> rfl
@[simp] theorem Bus.flushReleased_stale (b : Bus) :
    (Bus.flushReleased b).stale = b.stale := by unfold Bus.flushReleased; split <;> rfl
@[simp] theorem Bus.flushReleased_oldPg (b : Bus) :
    (Bus.flushReleased b).oldPg = b.oldPg := by unfold Bus.flushReleased; split <;> rfl
@[simp] theorem Bus.flushReleased_hits (b : Bus) :
    (Bus.flushReleased b).hits = b.hits := by unfold Bus.flushReleased; split <;> rfl
@[simp] theorem Bus.flushReleased_freeCtr (b : Bus) :
    (Bus.flushReleased b).freeCtr = b.freeCtr := by unfold Bus.flushReleased; split <;> rfl
@[simp] theorem Bus.flushReleased_tlb (b : Bus) :
    (Bus.flushReleased b).tlb = if b.ev.flushEnd then [] else b.tlb := by unfold Bus.flushReleased; split <;> rfl
@[simp] theorem Bus.flushReleased_flushEnd (b : Bus) : (Bus.flushReleased b).ev.flushEnd = false := by
  unfold Bus.flushReleased
  split
  · rfl
  · next h => simpa using h

end Sys2Proof.Machine
end

