-- ==== Sys2Proof/Laws/Encoding.lean ====
section
/-!
SUPPORT. The parts of the decoder undo the parts of the encoder: registers, immediates, addresses, ModR/M operands,
prefixes.
-/
namespace Sys2Proof.Decode

open Sys2Proof

/-! Running a parser. -/

theorem P.run_pure {α : Type} (a : α) (bs : List Byte) : (pure a : P α) bs = .ok a bs := rfl

theorem P.bind_ok {α β : Type} {x : P α} {f : α → P β} {bs t : List Byte} {a : α} (h : x bs = .ok a t) :
    (x >>= f) bs = f a t := by
  show EStateM.bind x f bs = _
  unfold EStateM.bind
  rw [h]

/-! Registers and conditions. -/

theorem gpr_encode (r : Gpr) : gpr (Encode.gpr r) = r := by cases r <;> rfl
theorem gpr8_encode (r : Gpr8) : gpr8 (Encode.gpr8 r) = r := by cases r <;> rfl
theorem base16_encode (b : Base16) : base16 (Encode.base16 b) = b := by cases b <;> rfl
theorem cond_encode (c : Cond) : cond (Encode.cond c) = c := by cases c <;> rfl

/-! The fields of a ModR/M or SIB byte. -/

theorem field_mod (m : BitVec 2) (r n : BitVec 3) : (m ++ r ++ n : Byte).extractLsb' 6 2 = m := by
  revert m r n; decide
theorem field_reg (m : BitVec 2) (r n : BitVec 3) : (m ++ r ++ n : Byte).extractLsb' 3 3 = r := by
  revert m r n; decide
theorem field_rm (m : BitVec 2) (r n : BitVec 3) : (m ++ r ++ n : Byte).extractLsb' 0 3 = n := by
  revert m r n; decide

/-! Numbers. -/

theorem byte_run (b : Byte) (t : List Byte) : byte (b :: t) = .ok b t := rfl

theorem word_run (v : W16) (t : List Byte) : word (Encode.word v ++ t) = .ok v t := by
  have h : (v.extractLsb' 8 8 ++ v.extractLsb' 0 8 : W16) = v := by
    ext i hi
    simp only [BitVec.getElem_append, BitVec.getElem_extractLsb']
    split <;> (simp [← BitVec.getLsbD_eq_getElem]; try (congr 1; omega))
  show EStateM.Result.ok (v.extractLsb' 8 8 ++ v.extractLsb' 0 8 : W16) t = _
  rw [h]

theorem dword_run (v : W32) (t : List Byte) : dword (Encode.dword v ++ t) = .ok v t := by
  have h : ((v.extractLsb' 24 8 ++ v.extractLsb' 16 8 : W16) ++ (v.extractLsb' 8 8 ++ v.extractLsb' 0 8 : W16) : W32)
      = v := by
    ext i hi
    simp only [BitVec.getElem_append, BitVec.getElem_extractLsb']
    split <;> split <;> (simp [← BitVec.getLsbD_eq_getElem]; try (congr 1; omega))
  show EStateM.Result.ok
    ((v.extractLsb' 24 8 ++ v.extractLsb' 16 8 : W16) ++ (v.extractLsb' 8 8 ++ v.extractLsb' 0 8 : W16) : W32) t = _
  rw [h]

theorem immv_run (c : Ctx) (i : ImmV) (h : c.osz = i.size) (t : List Byte) :
    immv c (Encode.immv i ++ t) = .ok i t := by
  cases i with
  | i16 v => unfold immv; rw [h]; exact P.bind_ok (word_run v t)
  | i32 v => unfold immv; rw [h]; exact P.bind_ok (dword_run v t)

theorem farPtr_run (c : Ctx) (p : FarPtr) (h : c.osz = Encode.farSize p) (t : List Byte) :
    farPtr c (Encode.farPtr p ++ t) = .ok p t := by
  cases p with
  | p16 o s =>
    unfold farPtr; rw [h]
    show (word >>= _) (Encode.word o ++ (Encode.word s ++ t)) = _
    rw [P.bind_ok (word_run o _)]
    exact P.bind_ok (word_run s t)
  | p32 o s =>
    unfold farPtr; rw [h]
    show (dword >>= _) (Encode.dword o ++ (Encode.word s ++ t)) = _
    rw [P.bind_ok (dword_run o _)]
    exact P.bind_ok (word_run s t)

/-! Addresses. -/

theorem disp16_run (d : Disp16) (t : List Byte) : disp16 (Encode.disp16 d).1 ((Encode.disp16 d).2 ++ t) = .ok d t := by
  cases d with
  | none => rfl
  | d8 d => rfl
  | d16 d => exact P.bind_ok (word_run d t)

theorem disp32_run (d : Disp32) (t : List Byte) : disp32 (Encode.disp32 d).1 ((Encode.disp32 d).2 ++ t) = .ok d t := by
  cases d with
  | none => rfl
  | d8 d => rfl
  | d32 d => exact P.bind_ok (dword_run d t)

theorem disp16_mod (d : Disp16) : (Encode.disp16 d).1 ≠ 3#2 := by cases d <;> simp [Encode.disp16]
theorem disp32_mod (d : Disp32) : (Encode.disp32 d).1 ≠ 3#2 := by cases d <;> simp [Encode.disp32]
theorem disp16_mod_zero {d : Disp16} (h : (Encode.disp16 d).1 = 0#2) : d = .none := by
  cases d <;> simp_all [Encode.disp16]
theorem disp32_mod_zero {d : Disp32} (h : (Encode.disp32 d).1 = 0#2) : d = .none := by
  cases d <;> simp_all [Encode.disp32]

theorem index_encode {i : Option Gpr} (h : i ≠ some .esp) :
    (if Encode.index i = 4#3 then none else some (gpr (Encode.index i))) = i := by
  rcases i with _ | r
  · rfl
  · cases r <;> first | exact absurd rfl h | rfl

/-- The bytes after the ModR/M byte of a memory operand. -/
theorem ea16_run (t : List Byte) (e : Ea) (he : e.wf = true) (reg : BitVec 3)
    (h32 : Encode.ea32 e = false) :
    ∃ m n rest, Encode.ea reg e = (m ++ reg ++ n) :: rest ∧ m ≠ 3#2 ∧ ea16 m n (rest ++ t) = .ok e t := by
  cases e with
  | abs16 d => exact ⟨0#2, 6#3, _, rfl, by decide, by unfold ea16; exact P.bind_ok (word_run d t)⟩
  | base16 b d =>
    refine ⟨_, _, _, rfl, disp16_mod d, ?_⟩
    unfold ea16
    rw [if_neg]
    · rw [P.bind_ok (disp16_run d t), base16_encode]; rfl
    · rintro ⟨h1, h2⟩
      have hd := disp16_mod_zero h1
      subst hd
      cases b <;> first | exact absurd h2 (by decide) | cases he
  | abs32 d => cases h32
  | base32 r d => cases h32
  | sib s i b d => cases h32
  | sibNoBase s i d => cases h32

theorem ea32_run (t : List Byte) (e : Ea) (he : e.wf = true) (reg : BitVec 3) (h32 : Encode.ea32 e = true) :
    ∃ m n rest, Encode.ea reg e = (m ++ reg ++ n) :: rest ∧ m ≠ 3#2 ∧ ea32 m n (rest ++ t) = .ok e t := by
  cases e with
  | abs16 d => cases h32
  | base16 b d => cases h32
  | abs32 d => exact ⟨0#2, 5#3, _, rfl, by decide, by unfold ea32; exact P.bind_ok (dword_run d t)⟩
  | base32 r d =>
    refine ⟨_, _, _, rfl, disp32_mod d, ?_⟩
    simp only [Ea.wf, Bool.and_eq_true, Bool.not_eq_true', beq_eq_false_iff_ne, Bool.and_eq_false_iff] at he
    unfold ea32
    rw [if_neg, if_neg]
    · rw [P.bind_ok (disp32_run d t), gpr_encode]; rfl
    · rintro ⟨h1, h2⟩
      have hd := disp32_mod_zero h1
      subst hd
      cases r <;> first | exact absurd h2 (by decide) | simp at he
    · intro h2
      cases r <;> first | exact absurd h2 (by decide) | simp at he
  | sib s i b d =>
    refine ⟨_, _, _, rfl, disp32_mod d, ?_⟩
    simp only [Ea.wf, Bool.and_eq_true, Bool.not_eq_true', beq_eq_false_iff_ne, Bool.and_eq_false_iff] at he
    unfold ea32
    rw [if_pos rfl]
    unfold eaSib
    show (byte >>= _) ((s ++ Encode.index i ++ Encode.gpr b) :: ((Encode.disp32 d).2 ++ t)) = _
    rw [P.bind_ok (byte_run _ _)]
    simp only [field_mod, field_reg, field_rm]
    rw [if_neg, P.bind_ok (disp32_run d t), index_encode he.1, gpr_encode]
    · rfl
    · rintro ⟨h1, h2⟩
      have hd := disp32_mod_zero h1
      subst hd
      cases b <;> first | exact absurd h2 (by decide) | simp at he
  | sibNoBase s i d =>
    refine ⟨0#2, 4#3, _, rfl, by decide, ?_⟩
    simp only [Ea.wf, Bool.not_eq_true', beq_eq_false_iff_ne] at he
    unfold ea32
    rw [if_pos rfl]
    unfold eaSib
    show (byte >>= _) ((s ++ Encode.index i ++ 5#3) :: (Encode.dword d ++ t)) = _
    rw [P.bind_ok (byte_run _ _)]
    simp only [field_mod, field_reg, field_rm]
    rw [if_pos (by decide), P.bind_ok (dword_run d t), index_encode he]
    rfl

/-- The ModR/M byte of a memory operand and what follows it. -/
theorem modrm_mem (c : Ctx) (reg : BitVec 3) (m : MemOp) (hm : m.wf = true) (hseg : c.seg = m.seg)
    (h32 : c.a32 = Encode.ea32 m.ea) (t : List Byte) :
    modrm c (Encode.ea reg m.ea ++ t) = .ok (reg, .mem m) t := by
  obtain ⟨sg, e⟩ := m
  simp only at hseg h32
  cases h : Encode.ea32 e with
  | false =>
    obtain ⟨mod, n, rest, heq, h3, hrun⟩ := ea16_run t e hm reg h
    rw [heq]
    show (byte >>= _) ((mod ++ reg ++ n) :: (rest ++ t)) = _
    rw [P.bind_ok (byte_run _ _)]
    simp only [field_mod, field_reg, field_rm]
    rw [if_neg h3, h32, h, if_neg (by decide), P.bind_ok hrun, hseg]
    rfl
  | true =>
    obtain ⟨mod, n, rest, heq, h3, hrun⟩ := ea32_run t e hm reg h
    rw [heq]
    show (byte >>= _) ((mod ++ reg ++ n) :: (rest ++ t)) = _
    rw [P.bind_ok (byte_run _ _)]
    simp only [field_mod, field_reg, field_rm]
    rw [if_neg h3, h32, h, if_pos rfl, P.bind_ok hrun, hseg]
    rfl

/-- The ModR/M byte of a register operand. -/
theorem modrm_reg (c : Ctx) (reg n : BitVec 3) (t : List Byte) :
    modrm c ((3#2 ++ reg ++ n) :: t) = .ok (reg, .reg n) t := by
  show (byte >>= _) _ = _
  rw [P.bind_ok (byte_run _ _)]
  simp only [field_mod, field_reg, field_rm]
  rfl

/-- The operand that the decoder's ModR/M parser answers for an encoded `r/m`. -/
def operand {ρ : Type} (num : ρ → BitVec 3) : RegMem ρ → RegMem (BitVec 3)
  | .reg r => .reg (num r)
  | .mem m => .mem m

theorem asRm_operand (rm : Rm) : asRm (operand Encode.gpr rm) = rm := by
  cases rm with
  | reg r => exact congrArg RegMem.reg (gpr_encode r)
  | mem m => rfl

theorem asRm8_operand (rm : Rm8) : asRm8 (operand Encode.gpr8 rm) = rm := by
  cases rm with
  | reg r => exact congrArg RegMem.reg (gpr8_encode r)
  | mem m => rfl

theorem modrm_run {ρ : Type} (num : ρ → BitVec 3) (c : Ctx) (reg : BitVec 3) (rm : RegMem ρ) (hrm : rm.wf = true)
    (h : ∀ m, Encode.memOf rm = some m → c.seg = m.seg ∧ c.a32 = Encode.ea32 m.ea) (t : List Byte) :
    modrm c (Encode.modrm num reg rm ++ t) = .ok (reg, operand num rm) t := by
  cases rm with
  | reg r => exact modrm_reg c reg (num r) t
  | mem m => exact modrm_mem c reg m hrm (h m rfl).1 (h m rfl).2 t

/-! Prefixes. -/

/-- Is 66H among the prefixes? -/
def size66 (d : Bool) : Option OpSize → Bool
  | none => false
  | some .w16 => d
  | some .w32 => !d

/-- Is 67H among the prefixes? -/
def addr67 (d : Bool) : Option MemOp → Bool
  | none => false
  | some m => d != Encode.ea32 m.ea

/-- The prefixes that the decoder has seen after the encoder's. -/
def ctxOf (d lock : Bool) (osz : Option OpSize) (m : Option MemOp) : Ctx :=
  { d, lock, seg := m.bind (·.seg), p66 := size66 d osz, p67 := addr67 d m }

theorem ctxOf_osz (d lock : Bool) (o : OpSize) (m : Option MemOp) : (ctxOf d lock (some o) m).osz = o := by
  cases d <;> cases o <;> rfl

theorem ctxOf_mem {d lock : Bool} {o : Option OpSize} {m : Option MemOp} (x : MemOp) (h : m = some x) :
    (ctxOf d lock o m).seg = x.seg ∧ (ctxOf d lock o m).a32 = Encode.ea32 x.ea := by
  subst h
  refine ⟨rfl, ?_⟩
  show (d ^^ (d != Encode.ea32 x.ea)) = _
  cases d <;> cases Encode.ea32 x.ea <;> rfl

/-- The first opcode bytes are no prefixes. -/
def notPrefix (b : Byte) : Bool :=
  !(b == 0x66#8 || b == 0x67#8 || b == 0xF0#8 || b == 0x2E#8 || b == 0x36#8 || b == 0x3E#8 || b == 0x26#8
    || b == 0x64#8 || b == 0x65#8 || b == 0xF2#8 || b == 0xF3#8)

theorem add_notPrefix {b : Byte} (h : notPrefix b = true) (c : Ctx) : c.add b = none := by
  simp only [notPrefix, Bool.not_eq_true', Bool.or_eq_false_iff, beq_eq_false_iff_ne] at h
  simp [Ctx.add, h]

theorem prefixes_stop {b : Byte} (h : notPrefix b = true) (n : Nat) (c : Ctx) (t : List Byte) :
    prefixes (n + 1) c (b :: t) = .ok (c, b) t := by
  unfold prefixes
  rw [P.bind_ok (byte_run _ _), add_notPrefix h]
  rfl

theorem prefixes_more {p : Byte} (n : Nat) (c c' : Ctx) (h : c.add p = some c') (t : List Byte) :
    prefixes (n + 1) c (p :: t) = prefixes n c' t := by
  conv_lhs => unfold prefixes
  rw [P.bind_ok (byte_run _ _), h]

theorem add_seg (c : Ctx) (s : Seg) : c.add (Encode.seg s) = some { c with seg := some s } := by
  cases s <;> rfl

/-- The prefixes of an encoded instruction, up to its first opcode byte. -/
theorem prefixes_run (d lock : Bool) (o : Option OpSize) (m : Option MemOp) (b : Byte) (hb : notPrefix b = true)
    (t : List Byte) :
    prefixes 15 ⟨d, false, none, false, false⟩ (Encode.pfx d lock o m ++ b :: t) = .ok (ctxOf d lock o m, b) t := by
  have h67 : ∀ (n : Nat) (c : Ctx) (x : MemOp), c.d = d → c.p67 = false →
      prefixes (n + 2) c ((if d == Encode.ea32 x.ea then [] else [0x67#8]) ++ b :: t)
        = .ok ({ c with p67 := d != Encode.ea32 x.ea }, b) t := by
    intro n c x hc hp
    cases hx : (d == Encode.ea32 x.ea) with
    | true =>
      rw [if_pos rfl, List.nil_append, prefixes_stop hb, bne, hx]
      obtain ⟨cd, cl, cs, cp, cq⟩ := c
      simp only at hp
      subst hp
      rfl
    | false =>
      rw [if_neg (by decide), List.singleton_append, prefixes_more _ _ { c with p67 := true } rfl,
        prefixes_stop hb, bne, hx]
      rfl
  have hmem : ∀ (n : Nat) (c : Ctx), c.d = d → c.p67 = false → c.seg = none →
      prefixes (n + 3) c (Encode.memBytes d m ++ b :: t)
        = .ok ({ c with
            seg := m.bind (·.seg)
            p67 := addr67 d m }, b) t := by
    intro n c hc hp hs
    obtain ⟨cd, cl, cs, cp, cq⟩ := c
    simp only at hc hp hs
    subst hc hp hs
    cases m with
    | none => exact prefixes_stop hb _ _ _
    | some x =>
      obtain ⟨sg, e⟩ := x
      cases sg with
      | none => exact h67 (n + 1) _ ⟨none, e⟩ rfl rfl
      | some sg =>
        show prefixes (n + 3) _ (Encode.seg sg :: ((if cd == Encode.ea32 e then [] else [0x67#8]) ++ b :: t)) = _
        rw [prefixes_more _ _ _ (add_seg _ sg)]
        exact h67 n _ ⟨some sg, e⟩ rfl rfl
  have hosz : ∀ (n : Nat) (c : Ctx), c.d = d → c.p67 = false → c.seg = none → c.p66 = false →
      prefixes (n + 4) c (Encode.oszByte d o ++ (Encode.memBytes d m ++ b :: t))
        = .ok ({ c with
            seg := m.bind (·.seg)
            p66 := size66 d o
            p67 := addr67 d m }, b) t := by
    intro n c hc hp hs h6
    obtain ⟨cd, cl, cs, cp, cq⟩ := c
    simp only at hc hp hs h6
    subst hc hp hs h6
    have a := hmem (n + 1) ⟨cd, cl, none, false, false⟩ rfl rfl rfl
    have b' := hmem n ⟨cd, cl, none, true, false⟩ rfl rfl rfl
    rcases o with _ | _ | _
    · exact a
    · cases cd
      · exact a
      · exact (prefixes_more _ _ _ rfl _).trans b'
    · cases cd
      · exact (prefixes_more _ _ _ rfl _).trans b'
      · exact a
  show prefixes 15 _ (Encode.lockByte lock ++ Encode.oszByte d o ++ Encode.memBytes d m ++ b :: t) = _
  rw [List.append_assoc, List.append_assoc]
  cases lock with
  | false => exact hosz 11 _ rfl rfl rfl rfl
  | true => exact (prefixes_more _ _ _ rfl _).trans (hosz 10 _ rfl rfl rfl rfl)

/-- What the decoder answers, when the prefixes and the instruction after them are parsed. -/
theorem decode_of_run {d lock : Bool} {o : Option OpSize} {m : Option MemOp} {b : Byte} {t : List Byte} {i : Instr}
    (hb : notPrefix b = true) (h : opcode (ctxOf d lock o m) b t = .ok i []) :
    decode d (Encode.pfx d lock o m ++ b :: t) = .ok i (Encode.pfx d lock o m ++ b :: t).length := by
  have h' : (do let (c, b) ← prefixes 15 ⟨d, false, none, false, false⟩; opcode c b : P Instr)
      (Encode.pfx d lock o m ++ b :: t) = .ok i [] := by
    rw [P.bind_ok (prefixes_run d lock o m b hb t)]
    exact h
  unfold decode
  rw [h']
  rfl

end Sys2Proof.Decode
end

