-- ==== Sys2Proof/Laws/Ops.lean ====
section
/-!
SUPPORT. What the shared operations do when they end well: writes, read-modify-write, the stack, segment loads, near
transfers; and the memory that each leaves.
-/
namespace Sys2Proof.Machine

/-! Instructions. -/

theorem runInstr_ok {x : M Unit} {s t : State} (h : x s.past = .ok () t) : runInstr x s = .next t := by
  unfold runInstr
  show (match x s.past with | .ok _ t => Host.Outcome.next t | .error e t => stopped s t e) = _
  rw [h]

theorem runInstr_raises {x : M Unit} {s t : State} {e : Exc} {b : Bus} (h : x s.past = .error (.exc e) t)
    (hc : e.commit = false) (hb : t.bus = b) : runInstr x s = s.raises e b := by
  unfold runInstr
  show (match x s.past with | .ok _ t => Host.Outcome.next t | .error e t => stopped s t e) = _
  rw [h]
  unfold State.raises stopped
  simp only [hc, hb, Bool.false_eq_true, if_false]

/-! Writes. -/

theorem leBytes_mod (n v : Nat) : leBytes n (v % 256 ^ n) = leBytes n v := by
  induction n generalizing v with
  | zero => rfl
  | succ n ih =>
    show BitVec.ofNat 8 (v % 256 ^ (n + 1)) :: leBytes n (v % 256 ^ (n + 1) / 256) = BitVec.ofNat 8 v :: leBytes n (v / 256)
    have h : 256 ^ (n + 1) = 256 * 256 ^ n := by rw [Nat.pow_succ, Nat.mul_comm]
    rw [h, Nat.mod_mul_right_div_self, ih]
    congr 1
    apply BitVec.eq_of_toNat_eq
    rw [BitVec.toNat_ofNat, BitVec.toNat_ofNat]
    exact Nat.mod_mul_right_mod v 256 (256 ^ n)

/-- An access that looks at no register. -/
def Blind {α : Type} (x : B α) : Prop := ∀ c c' b, x c b = x c' b

theorem Blind.pure {α : Type} (a : α) : Blind (pure a : B α) := fun _ _ _ => rfl
theorem Blind.getBus : Blind getBus := fun _ _ _ => rfl
theorem Blind.modBus (f : Bus → Bus) : Blind (modBus f) := fun _ _ _ => rfl
theorem Blind.refuseB {α : Type} (r : Refusal) : Blind (refuseB r : B α) := fun _ _ _ => rfl

theorem Blind.bind {α β : Type} {x : B α} {f : α → B β} (hx : Blind x) (hf : ∀ a, Blind (f a)) : Blind (x >>= f) := by
  intro c c' b
  rw [B.run_bind, B.run_bind, hx c c' b]
  cases x c' b with
  | ok a t => exact hf a c c' t
  | error e t => rfl

theorem Blind.ite {α : Type} {q : Prop} [Decidable q] {x y : B α} (hx : Blind x) (hy : Blind y) :
    Blind (if q then x else y) := by
  split <;> assumption

theorem blind_isDestination (a : Apic) (l : Bool) (d : Byte) : Blind (Apic.isDestination a l d) := by
  unfold Apic.isDestination
  repeat' first | exact .pure _ | exact .refuseB _ | apply Blind.ite

theorem blind_receive (m : ApicMsg) : Blind (Apic.receive m) := by
  unfold Apic.receive Apic.acceptMsg
  repeat' first
    | exact .pure _ | exact .refuseB _ | exact .modBus _ | exact .getBus | exact blind_isDestination _ _ _
    | apply Blind.ite | apply Blind.bind | intro _

theorem blind_send : Blind Apic.send := by
  unfold Apic.send Apic.selfInterrupt
  repeat' first
    | exact .pure _ | exact .refuseB _ | exact .modBus _ | exact .getBus | exact blind_receive _
    | apply Blind.ite | apply Blind.bind | intro _

theorem blind_store (off n : Nat) (v : W32) : Blind (Apic.store off n v) := by
  unfold Apic.store Apic.writeReg
  repeat' first
    | exact .pure _ | exact .refuseB _ | exact .modBus _ | exact .getBus | exact blind_send
    | apply Blind.ite | apply Blind.bind | intro _

theorem Bus.mark_congr {c c' : Cpu} (hc : c.ctl = c'.ctl) (f : Byte) (e : EntryRef) (b : Bus) :
    b.mark c f e = b.mark c' f e := by
  unfold Bus.mark Bus.losable Bus.holds Cpu.cd
  rw [hc]

theorem Bus.setDirty_congr {c c' : Cpu} (hc : c.ctl = c'.ctl) (l : List EntryRef) (b : Bus) :
    Bus.setDirty c l b = Bus.setDirty c' l b := by
  induction l generalizing b with
  | nil => rfl
  | cons e t ih =>
    unfold Bus.setDirty
    simp only [Bus.mark_congr hc, ih]

/-- A walk looks at the MSRs and at the control registers only. -/
theorem walk_congr {c c' : Cpu} (hm : c.msr = c'.msr) (hc : c.ctl = c'.ctl) (b : Bus) (la : W32) (write user : Bool) :
    walk c b la write user = walk c' b la write user := by
  cases c; cases c'; subst hm; subst hc; rfl

theorem Bus.setAccessedFlags_congr {c c' : Cpu} (hc : c.ctl = c'.ctl) (l : List EntryRef) (b : Bus) :
    Bus.setAccessedFlags c l b = Bus.setAccessedFlags c' l b := by
  induction l generalizing b with
  | nil => rfl
  | cons e t ih =>
    unfold Bus.setAccessedFlags
    rw [Bus.mark_congr hc, ih]

theorem speculateAt_congr (la : W32) {c c' : Cpu} (b : Bus) (hm : c.msr = c'.msr) (hc : c.ctl = c'.ctl) :
    speculateAt la c b = speculateAt la c' b := by
  unfold speculateAt
  rw [B.bind_ok (run_regs c b), B.bind_ok (run_regs c' b), B.bind_ok (run_getBus c b), B.bind_ok (run_getBus c' b),
    B.bind_ok (run_modBus _ c b), B.bind_ok (run_modBus _ c' b), walk_congr hm hc]
  cases walk c' b la false false with
  | ok e sets types =>
    have hw : walkAhead c types = walkAhead c' types := by unfold walkAhead Cpu.cd; rw [hc]
    dsimp only
    rw [hw]
    split
    · show EStateM.Result.ok () (Bus.fill e (Bus.setAccessedFlags c sets _))
        = .ok () (Bus.fill e (Bus.setAccessedFlags c' sets _))
      rw [Bus.setAccessedFlags_congr hc]
    · rfl
  | fault _ _ _ => rfl
  | refuse _ => rfl

theorem speculateAt_ok (la : W32) (c : Cpu) (b : Bus) :
    ∃ b1, speculateAt la c b = .ok () b1 ∧ b1.apic = b.apic := by
  unfold speculateAt
  rw [B.bind_ok (run_regs c b), B.bind_ok (run_getBus c b), B.bind_ok (run_modBus _ c b)]
  have ha : b.accessed.apic = b.apic := by unfold Bus.accessed; split <;> rfl
  have hm : ∀ (l : List EntryRef) (b : Bus), (Bus.setAccessedFlags c l b).apic = b.apic := fun l => by
    induction l with
    | nil => exact fun _ => rfl
    | cons e t ih => exact fun b => ih _
  cases walk c b la false false with
  | ok e sets types =>
    dsimp only
    split
    · exact ⟨_, rfl, (hm sets b.accessed).trans ha⟩
    · exact ⟨_, rfl, ha⟩
  | fault _ _ _ => exact ⟨_, rfl, ha⟩
  | refuse _ => exact ⟨_, rfl, ha⟩

theorem speculateFor_ok (n : Nat) (c : Cpu) (b : Bus) : ∃ b1, speculateFor n c b = .ok () b1 ∧ b1.apic = b.apic := by
  induction n generalizing b with
  | zero => exact ⟨b, rfl, rfl⟩
  | succ n ih =>
    obtain ⟨b1, h1, e1⟩ := speculateAt_ok (Config.freeWord b.freeCtr) c { b with freeCtr := b.freeCtr + 1 }
    obtain ⟨b2, h2, e2⟩ := ih b1
    refine ⟨b2, ?_, e2.trans e1⟩
    unfold speculateFor
    rw [B.bind_ok (run_free c b), B.bind_ok h1, h2]

/-- Loading translations ahead of need always completes, and leaves the APIC as it is. -/
theorem speculate_ok (c : Cpu) (b : Bus) : ∃ b1, speculate c b = .ok () b1 ∧ b1.apic = b.apic := by
  unfold speculate
  rw [B.bind_ok (run_regs c b)]
  split
  · rw [B.bind_ok (run_free c b)]
    exact speculateFor_ok _ c _
  · exact ⟨b, rfl, rfl⟩

/-- Without paging nothing is loaded ahead of need. -/
theorem speculate_unpaged {c : Cpu} (hp : c.pg = false) (b : Bus) : speculate c b = .ok () b := by
  unfold speculate
  rw [B.bind_ok (run_regs c b), hp]
  rfl

theorem speculateFor_congr (n : Nat) {c c' : Cpu} (b : Bus) (hm : c.msr = c'.msr) (hc : c.ctl = c'.ctl) :
    speculateFor n c b = speculateFor n c' b := by
  induction n generalizing b with
  | zero => rfl
  | succ n ih =>
    obtain ⟨b1, h1, -⟩ := speculateAt_ok (Config.freeWord b.freeCtr) c { b with freeCtr := b.freeCtr + 1 }
    unfold speculateFor
    rw [B.bind_ok (run_free c b), B.bind_ok (run_free c' b), B.bind_ok h1,
      B.bind_ok ((speculateAt_congr _ _ hm hc).symm.trans h1), ih]

theorem speculate_congr {c c' : Cpu} (b : Bus) (hm : c.msr = c'.msr) (hc : c.ctl = c'.ctl) :
    speculate c b = speculate c' b := by
  have hp : c.pg = c'.pg := by unfold Cpu.pg Cpu.pe; rw [hc]
  unfold speculate
  rw [B.bind_ok (run_regs c b), B.bind_ok (run_regs c' b), hp]
  split
  · rw [B.bind_ok (run_free c b), B.bind_ok (run_free c' b), speculateFor_congr _ _ hm hc]
  · rfl

/-- A store looks at the MSRs and at the control registers only. -/
theorem storePhys_congr (p : Phys) (l : List Byte) {c c' : Cpu} (b : Bus) (hm : c.msr = c'.msr) (hc : c.ctl = c'.ctl) :
    storePhys p l c b = storePhys p l c' b := by
  unfold storePhys
  rw [B.bind_ok (run_regs c b), B.bind_ok (run_regs c' b), B.bind_ok (run_modBus _ c b), B.bind_ok (run_modBus _ c' b),
    Bus.setDirty_congr hc]
  have h : p.apicOffset c = p.apicOffset c' := by unfold Phys.apicOffset Apic.enabled Apic.page; rw [hm]
  rw [h]
  cases p.apicOffset c' with
  | some off => exact blind_store _ _ _ c c' _
  | none =>
    show EStateM.Result.ok () (Bus.store c p l _) = .ok () (Bus.store c' p l _)
    unfold Bus.store Bus.losable Bus.holds Cpu.cd
    rw [hc]

theorem writePart_congr (p : Phys) (l : List Byte) {c c' : Cpu} (b : Bus) (hm : c.msr = c'.msr) (hc : c.ctl = c'.ctl) :
    writePart p l c b = writePart p l c' b := by
  obtain ⟨b0, h0, -⟩ := speculate_ok c b
  unfold writePart
  rw [B.bind_ok h0, B.bind_ok ((speculate_congr b hm hc).symm.trans h0), storePhys_congr p l b0 hm hc]

/-- A write is one store, or two where it crosses into a second page of memory. -/
theorem writePhys_cases (p : Phys) (l : List Byte) (c : Cpu) (b : Bus) :
    writePhys p l c b =
      if firstPart p.la p.addrs.length = p.addrs.length || (p.apicOffset c).isSome then writePart p l c b
      else
        (writePart (p.part 0 (firstPart p.la p.addrs.length)) (l.take (firstPart p.la p.addrs.length)) >>= fun _ =>
          writePart (p.part (firstPart p.la p.addrs.length) (p.addrs.length - firstPart p.la p.addrs.length))
            (l.drop (firstPart p.la p.addrs.length))) c b := by
  unfold writePhys
  rw [B.bind_ok (run_regs c b)]
  split <;> rfl

/-- In one page, and in the page of the APIC, it is one store. -/
theorem writePhys_part {p : Phys} {c : Cpu} (h : firstPart p.la p.addrs.length = p.addrs.length ∨ (p.apicOffset c).isSome = true)
    (l : List Byte) (b : Bus) : writePhys p l c b = writePart p l c b := by
  rw [writePhys_cases, if_pos (by simpa using h)]

/-- So does a write. -/
theorem writePhys_congr (p : Phys) (l : List Byte) {c c' : Cpu} (b : Bus) (hm : c.msr = c'.msr) (hc : c.ctl = c'.ctl) :
    writePhys p l c b = writePhys p l c' b := by
  have ha : p.apicOffset c = p.apicOffset c' := by unfold Phys.apicOffset Apic.enabled Apic.page; rw [hm]
  rw [writePhys_cases, writePhys_cases, ha]
  split
  · exact writePart_congr p l b hm hc
  · rw [B.run_bind, B.run_bind, writePart_congr _ _ b hm hc]
    cases writePart (p.part 0 (firstPart p.la p.addrs.length)) (l.take (firstPart p.la p.addrs.length)) c' b with
    | ok _ b1 => exact writePart_congr _ _ b1 hm hc
    | error _ _ => rfl

theorem memWriteBack_congr {w : Nat} (lock : Bool) (p : Phys) (v : BitVec w) {c c' : Cpu} (b : Bus) (hm : c.msr = c'.msr)
    (hc : c.ctl = c'.ctl) : memWriteBack lock p v c b = memWriteBack lock p v c' b := by
  cases lock
  · exact writePhys_congr p _ b hm hc
  · exact storePhys_congr p _ b hm hc

/-- From a quiet access to a write. -/
theorem Quiet.then_stored {α : Type} {x : B α} (hx : Quiet x) {c : Cpu} {b b1 b2 : Bus} {a : α} {as : List Nat}
    (h : x c b = .ok a b1) (h2 : Stored c as b1 b2) : Stored c as b b2 :=
  .trans (fun hb => hx.wf.ok h hb) ((hx.ok h).mono fun _ h => by cases h) h2

/-- Marking pages dirty is quiet, if there are none without paging. -/
theorem Bus.setDirty_stored (c : Cpu) (l : List EntryRef) (b : Bus) (as : List Nat) (h : c.pg = false → l = []) :
    Stored c as b (Bus.setDirty c l b) :=
  ⟨fun hb a _ => Bus.setDirty_marked c l b hb a, fun hp a _ => by rw [h hp]; rfl⟩

/-- A store of bytes stores at their places only. -/
theorem storePhys_stored {p : Phys} (l : List Byte) {c : Cpu} (b : Bus) (hp : c.pg = false → p.leaves = []) :
    Stored c p.addrs b ((storePhys p l).after c b) := by
  unfold storePhys
  rw [B.after_bind (run_regs c b), B.after_bind (run_modBus _ c b)]
  refine .trans (Bus.setDirty_wf _ _ _) (Bus.setDirty_stored c p.leaves b _ hp) ?_
  cases p.apicOffset c with
  | some off => exact ((quiet_Apic_store _ _ _).same c _).mono fun _ h => by cases h
  | none =>
    refine ⟨fun _ a ha => ⟨0#8, ?_⟩, fun _ a ha => Bus.store_read_other c p l _ ha⟩
    show (Bus.store c p l _).mem.read a = _
    rw [Bus.store_read_other c p l _ ha]
    simp

/-- A store stores at the places of its bytes only. -/
theorem writePart_stored {p : Phys} (l : List Byte) {c : Cpu} (b : Bus) (hp : c.pg = false → p.leaves = []) :
    Stored c p.addrs b ((writePart p l).after c b) := by
  obtain ⟨b0, h0, -⟩ := speculate_ok c b
  unfold writePart
  rw [B.after_bind h0]
  exact .trans (quiet_speculate.wf.ok h0) ((quiet_speculate.ok h0).mono fun _ h => by cases h)
    (storePhys_stored l b0 hp)

theorem Phys.part_leaves {p : Phys} (off n : Nat) (h : p.leaves = []) : (p.part off n).leaves = [] := by
  simp [Phys.part, h]

theorem Phys.part_addrs {p : Phys} {off n a : Nat} (h : a ∈ (p.part off n).addrs) : a ∈ p.addrs :=
  List.mem_of_mem_drop (List.mem_of_mem_take h)

/-- A write of bytes stores at their places only. -/
theorem writePhys_stored {p : Phys} (l : List Byte) {c : Cpu} (b : Bus) (hp : c.pg = false → p.leaves = []) :
    Stored c p.addrs b ((writePhys p l).after c b) := by
  have part (off n : Nat) (l : List Byte) (b : Bus) : Stored c p.addrs b ((writePart (p.part off n) l).after c b) :=
    (writePart_stored l b fun h => p.part_leaves off n (hp h)).mono fun _ => Phys.part_addrs
  have hx := writePhys_cases p l c b
  split at hx
  · rw [B.after_congr hx]
    exact writePart_stored l b hp
  · rw [B.after_congr hx]
    exact B.after_cases (part _ _ _ b) fun _ h => .trans ((keepsWf_writePart _ _).after c b) h (part _ _ _ _)

theorem memWriteBack_stored {w : Nat} (lock : Bool) {p : Phys} (v : BitVec w) {c : Cpu} (b : Bus)
    (hp : c.pg = false → p.leaves = []) : Stored c p.addrs b ((memWriteBack lock p v).after c b) := by
  cases lock
  · exact writePhys_stored _ b hp
  · exact storePhys_stored _ b hp

/-- A locked read-modify-write of a byte stores at its place only. -/
theorem lockedByte_stored {p : Phys} (f : Nat → Nat) {c : Cpu} {b b1 : Bus} (hp : c.pg = false → p.leaves = [])
    (h : lockedByte p f c b = .ok () b1) : Stored c p.addrs b b1 := by
  unfold lockedByte at h
  obtain ⟨_, b2, h2, h⟩ := B.bind_eq_ok h
  rw [B.bind_ok (run_regs c b2), B.bind_ok (run_modBus _ c b2)] at h
  obtain ⟨v, b3, h3, h⟩ := B.bind_eq_ok h
  refine quiet_speculate.then_stored h2 (.trans (Bus.setDirty_wf _ _ _) (Bus.setDirty_stored c p.leaves b2 _ hp) ?_)
  exact (quiet_readPhys p).then_stored h3 (B.after_ok h ▸ storePhys_stored _ b3 hp)

/-! Where an access goes without paging. -/

theorem checkRange_eq {p q : Phys} {c : Cpu} {b b1 : Bus} (h : checkRange p c b = .ok q b1) : q = p ∧ b1 = b := by
  unfold checkRange at h
  split at h
  · cases h; exact ⟨rfl, rfl⟩
  · cases h

theorem physical_leaves {la : W32} {n : Nat} {write user : Bool} {c : Cpu} {b b1 : Bus} {p : Phys}
    (h : physical la n write user c b = .ok p b1) (hp : c.pg = false) : p.leaves = [] := by
  unfold physical at h
  obtain ⟨q, b2, h1, h2⟩ := B.bind_eq_ok h
  have hq := physicalPage_leaves h1 hp
  split at h2
  · cases h2; exact hq
  · obtain ⟨r, b3, h3, h4⟩ := B.bind_eq_ok h2
    cases h4
    show q.leaves ++ r.leaves = []
    rw [hq, physicalPage_leaves h3 hp]; rfl

theorem memCheck_leaves {seg : Seg} {off : W32} {n al : Nat} {write : Bool} {c : Cpu} {b b1 : Bus} {p : Phys}
    (h : memCheck seg off n al write c b = .ok p b1) (hp : c.pg = false) : p.leaves = [] := by
  unfold memCheck at h
  rw [B.bind_ok (run_regs c b)] at h
  cases hs : segCheck c seg off n write with
  | some e => rw [hs] at h; cases h
  | none =>
    rw [hs] at h
    obtain ⟨q, b2, h1, h2⟩ := B.bind_eq_ok h
    obtain ⟨r, b3, h3, h4⟩ := B.bind_eq_ok h2
    obtain ⟨rfl, rfl⟩ := checkRange_eq h3
    split at h4
    · obtain ⟨_, _, h5, -⟩ := B.bind_eq_ok h4
      cases h5
    · cases h4; exact physical_leaves h1 hp

theorem memPrepare_leaves {seg : Seg} {off : W32} {n al : Nat} {write : Bool} {c : Cpu} {b b1 : Bus} {p : Phys}
    (h : memPrepare seg off n al write c b = .ok p b1) (hp : c.pg = false) : p.leaves = [] := by
  unfold memPrepare at h
  obtain ⟨q, b2, h1, h2⟩ := B.bind_eq_ok h
  obtain ⟨_, _, -, h3⟩ := B.bind_eq_ok h2
  cases h3
  exact memCheck_leaves h1 hp

/-- Reading a location that will be written stores nothing. -/
theorem memReadForWrite_stored {w : Nat} {seg : Seg} {off : W32} {c : Cpu} {b b1 : Bus} {x : BitVec w × Phys}
    (h : memReadForWrite w seg off c b = .ok x b1) :
    Stored c [] b b1 ∧ (b.mem.wf = true → b1.mem.wf = true) ∧ (c.pg = false → x.2.leaves = []) := by
  refine ⟨?_, fun hb => (keepsWf_memReadForWrite w seg off).ok h hb, ?_⟩
  all_goals
    unfold memReadForWrite at h
    obtain ⟨p, b2, h1, h2⟩ := B.bind_eq_ok h
    rw [B.bind_ok (run_regs c b2), B.bind_ok (run_modBus _ c b2)] at h2
    obtain ⟨v, b3, h3, h4⟩ := B.bind_eq_ok h2
    cases h4
  · have hl := memPrepare_leaves h1
    have hw := (quiet_memPrepare seg off (w / 8) (w / 8) true).wf.ok h1
    refine .trans hw ((quiet_memPrepare seg off _ _ _).ok h1) ?_
    exact .trans (Bus.setDirty_wf _ _ _) (Bus.setDirty_stored c p.leaves b2 [] hl) ((quiet_readPhys p).ok h3)
  · exact memPrepare_leaves h1

theorem Writes.stored {c : Cpu} {b : Bus} {seg : Seg} {off : W32} {n v : Nat} {p : Phys} {b2 : Bus}
    (h : Writes c b seg off n v p b2) : Stored c p.addrs b b2 := by
  obtain ⟨b1, h1, h2⟩ := h
  exact (quiet_memPrepare _ _ _ _ _).then_stored h1
    (B.after_ok h2 ▸ writePhys_stored (leBytes n v) b1 (memPrepare_leaves h1))

theorem Writes.wf {c : Cpu} {b : Bus} {seg : Seg} {off : W32} {n v : Nat} {p : Phys} {b2 : Bus}
    (h : Writes c b seg off n v p b2) (hb : b.mem.wf = true) : b2.mem.wf = true := by
  obtain ⟨b1, h1, h2⟩ := h
  exact (keepsWf_writePhys _ _).ok h2 ((quiet_memPrepare _ _ _ _ _).wf.ok h1 hb)

theorem Modifies.stored {w : Nat} {lock : Bool} {c : Cpu} {b : Bus} {seg : Seg} {off : W32} {x y : BitVec w} {k : Nat}
    {p : Phys} {b2 : Bus} (h : Modifies lock c b seg off x y k p b2) : Stored c p.addrs b b2 := by
  obtain ⟨b1, h1, h2⟩ := h
  obtain ⟨hs, hw, hl⟩ := memReadForWrite_stored h1
  have h3 := memWriteBack_stored lock y { b1 with freeCtr := b1.freeCtr + k } hl
  rw [B.after_ok h2] at h3
  exact .trans hw (hs.mono fun _ h => by cases h) h3

theorem Writes.run {w : Nat} {c : Cpu} {b : Bus} {seg : Seg} {off : W32} {v : BitVec w} {p : Phys} {b2 : Bus}
    (h : Writes c b seg off (w / 8) v.toNat p b2) : memWrite seg off v (w / 8) c b = .ok () b2 := by
  obtain ⟨b1, h1, h2⟩ := h
  unfold memWrite
  rw [B.bind_ok h1]
  exact h2

theorem storeMem_ok {w : Nat} {m : MemOp} {v : BitVec w} {s : State} {p : Phys} {b2 : Bus}
    (h : Writes s.cpu s.bus m.segment (m.off s.cpu) (w / 8) v.toNat p b2) :
    storeMem m v (w / 8) s = .ok () { s with bus := b2 } :=
  onBus_ok h.run

/-- Read, compute, write back; the computation may change registers that a write does not look at. -/
theorem modifyMem_ok {w : Nat} {lock : Bool} {m : MemOp} {f : BitVec w → M (BitVec w)} {s : State} {x y : BitVec w}
    {k : Nat} {p : Phys} {b2 : Bus} {c1 : Cpu} (h : Modifies lock s.cpu s.bus m.segment (m.off s.cpu) x y k p b2)
    (hf : ∀ b1, f x { s with bus := b1 } = .ok y { cpu := c1, bus := { b1 with freeCtr := b1.freeCtr + k } })
    (hm : c1.msr = s.cpu.msr) (hc : c1.ctl = s.cpu.ctl) :
    modifyMem lock w m f s = .ok () { cpu := c1, bus := b2 } := by
  obtain ⟨b1, h1, h2⟩ := h
  unfold modifyMem
  rw [M.bind_ok (run_getCpu s), M.bind_ok (onBus_ok h1)]
  show (f x >>= _) _ = _
  rw [M.bind_ok (hf b1)]
  refine onBus_ok (?_ : memWriteBack lock p y c1 { b1 with freeCtr := b1.freeCtr + k } = _)
  rw [memWriteBack_congr lock p y _ hm hc, h2]

/-! The stack. -/

theorem push_ok {w : Nat} {v : BitVec w} {s : State} {p : Phys} {b2 : Bus}
    (h : Writes s.cpu s.bus .ss (s.cpu.stackOff (s.cpu.below (w / 8))) (w / 8) v.toNat p b2) :
    push v s = .ok () { cpu := s.cpu.setEsp (s.cpu.below (w / 8)), bus := b2 } := by
  unfold push
  rw [M.bind_ok (run_getCpu s)]
  exact M.bind_ok (onBus_ok h.run)

theorem Writes.low {c : Cpu} {b : Bus} {seg : Seg} {off : W32} {n v v' : Nat} {p : Phys} {b2 : Bus}
    (h : Writes c b seg off n v p b2) (hv : v % 256 ^ n = v' % 256 ^ n) : Writes c b seg off n v' p b2 := by
  obtain ⟨b1, h1, h2⟩ := h
  refine ⟨b1, h1, ?_⟩
  rw [← leBytes_mod, ← hv, leBytes_mod]
  exact h2

theorem low16 (v : W32) : v.toNat % 256 ^ 2 = (v.extractLsb' 0 16).toNat % 256 ^ 2 := by
  rw [BitVec.extractLsb'_toNat]
  simp

theorem extractLsb'_append_low (x y : W16) : (x ++ y).extractLsb' 0 16 = y := by
  apply BitVec.eq_of_getLsbD_eq
  intro i hi
  rw [BitVec.getLsbD_extractLsb', BitVec.getLsbD_append]
  simp [hi]

/-- One slot. -/
theorem pushW_ok {osz : OpSize} {v : W32} {s : State} {p : Phys} {b2 : Bus}
    (h : Writes s.cpu s.bus .ss (s.cpu.stackOff (s.cpu.below osz.bytes)) osz.bytes v.toNat p b2) :
    pushW osz v s = .ok () { cpu := s.cpu.setEsp (s.cpu.below osz.bytes), bus := b2 } := by
  cases osz
  · exact push_ok (w := 16) (h.low (low16 v))
  · exact push_ok (w := 32) h

theorem pushSel_ok {osz : OpSize} {v : W16} {s : State} {p : Phys} {b2 : Bus}
    (h : Writes s.cpu { s.bus with freeCtr := s.bus.freeCtr + (Slot.sel v).frees osz } .ss
      (s.cpu.stackOff (s.cpu.below osz.bytes)) osz.bytes ((Slot.sel v).value s.bus).toNat p b2) :
    pushSel osz v s = .ok () { cpu := s.cpu.setEsp (s.cpu.below osz.bytes), bus := b2 } := by
  cases osz
  · refine push_ok (w := 16) (h.low ((low16 _).trans ?_))
    congr 2
    show ((Config.freeWord s.bus.freeCtr).extractLsb' 16 16 ++ v).extractLsb' 0 16 = v
    exact extractLsb'_append_low _ v
  · unfold pushSel
    dsimp only
    rw [M.bind_ok (onBus_ok (run_free _ _))]
    exact push_ok (w := 32) h

/-- Pushing a slot. -/
def Slot.push (osz : OpSize) : Slot → M Unit
  | .word v => pushW osz v
  | .sel s => pushSel osz s
  | .code mask v => do pushW osz (withReserved mask v (← onBus free))

/-- The error code of a delivery is a slot. -/
theorem pushCode_slots (osz : OpSize) (d : Delivery) :
    pushCode osz d = match d.code with
      | none => pure ()
      | some v => (Slot.code d.codeMask v).push osz := rfl

theorem Pushes.step {osz : OpSize} {v : Slot} {vs : List Slot} {s : State} {as : List Nat} {c1 : Cpu} {b1 : Bus}
    (h : Pushes osz (v :: vs) s.cpu s.bus as c1 b1) :
    ∃ b2 rest, v.push osz s = .ok () { cpu := s.cpu.setEsp (s.cpu.below osz.bytes), bus := b2 }
      ∧ Pushes osz vs (s.cpu.setEsp (s.cpu.below osz.bytes)) b2 rest c1 b1 := by
  obtain ⟨p, b2, rest, h1, h2, -⟩ := h
  refine ⟨b2, rest, ?_, h2⟩
  cases v with
  | word v => exact pushW_ok h1
  | sel v => exact pushSel_ok h1
  | code mask v => exact (M.bind_ok (onBus_ok (run_free _ _))).trans (pushW_ok h1)

theorem Pushes.wf {osz : OpSize} {vs : List Slot} {c : Cpu} {b : Bus} {as : List Nat} {c1 : Cpu} {b1 : Bus}
    (h : Pushes osz vs c b as c1 b1) (hb : b.mem.wf = true) : b1.mem.wf = true := by
  induction vs generalizing c b as with
  | nil => obtain ⟨-, -, rfl⟩ := h; exact hb
  | cons v vs ih =>
    obtain ⟨p, b2, rest, h1, h2, -⟩ := h
    exact ih h2 (h1.wf hb)

theorem Stored.cpu {c c' : Cpu} {as : List Nat} {b b1 : Bus} (h : Stored c as b b1) (hc : c.ctl.cr0 = c'.ctl.cr0) :
    Stored c' as b b1 := by
  refine ⟨h.1, fun hp => h.2 ?_⟩
  unfold Cpu.pg Cpu.pe at *
  rw [hc]
  exact hp

/-- Pushes store at their addresses only. -/
theorem Pushes.stored {osz : OpSize} {vs : List Slot} {c : Cpu} {b : Bus} {as : List Nat} {c1 : Cpu} {b1 : Bus}
    (h : Pushes osz vs c b as c1 b1) : Stored c as b b1 := by
  induction vs generalizing c b as with
  | nil => obtain ⟨-, -, rfl⟩ := h; exact .refl _ _ _
  | cons v vs ih =>
    obtain ⟨p, b2, rest, h1, h2, rfl⟩ := h
    have hb : Stored c (p.addrs ++ rest) b b2 := h1.stored.mono fun a ha => List.mem_append_left _ ha
    exact .trans h1.wf hb (((ih h2).cpu rfl).mono fun a ha => List.mem_append_right _ ha)

theorem stackMove_zero (c : Cpu) : c.stackOff (c.stackMove (BitVec.ofNat 32 0)) = c.stackOff c.gpr.esp := by
  have h : c.gpr.esp.extractLsb' 16 16 ++ (c.gpr.esp.extractLsb' 0 16 + (BitVec.ofNat 32 0).setWidth 16) = c.gpr.esp := by
    apply BitVec.eq_of_getLsbD_eq
    intro i hi
    rw [BitVec.getLsbD_append]
    by_cases h : i < 16
    · simp [h]
    · simp [h, show i - 16 < 16 by omega, show 16 + (i - 16) = i by omega]
  unfold Cpu.stackOff Cpu.stackMove
  rw [h]
  simp

/-- The value on top of the stack. -/
theorem peek_ok {w k : Nat} {v : BitVec w} {s : State} {b1 : Bus}
    (h : memRead w .ss (s.cpu.stackOff (s.cpu.stackMove (BitVec.ofNat 32 k))) (w / 8) s.cpu s.bus = .ok v b1) :
    peek w k s = .ok v { s with bus := b1 } := onBus_ok h

theorem pop_ok {w : Nat} {v : BitVec w} {s : State} {b1 : Bus}
    (h : memRead w .ss (s.cpu.stackOff s.cpu.gpr.esp) (w / 8) s.cpu s.bus = .ok v b1) :
    pop w s = .ok v { cpu := s.cpu.setEsp (s.cpu.stackMove (BitVec.ofNat 32 (w / 8))), bus := b1 } := by
  rw [← stackMove_zero] at h
  unfold pop
  rw [M.bind_ok (peek_ok h)]
  rfl

/-- What opening ESP[31:16] does. -/
theorem loosenEsp_ok (loose : Bool) (s : State) :
    loosenEsp loose s = .ok ()
      { cpu := if loose then s.cpu.setEspHigh (Config.freeWord s.bus.freeCtr) else s.cpu
        bus := { s.bus with freeCtr := s.bus.freeCtr + if loose then 1 else 0 } } := by
  cases loose <;> rfl

/-! Checks. -/

theorem stackRoom_ok {n : Nat} {c : Cpu} {b : Bus} (h : c.hasRoom n = true) : stackRoom n c b = .ok () b := by
  unfold stackRoom
  rw [B.bind_ok (run_regs c b)]
  show raiseIf (!c.hasRoom n) _ c b = _
  rw [h]; rfl

theorem stackHolds_ok {k n : Nat} {c : Cpu} {b : Bus} (h : c.holds k n = true) : stackHolds k n c b = .ok () b := by
  unfold stackHolds
  rw [B.bind_ok (run_regs c b)]
  show raiseIf (!c.holds k n) _ c b = _
  rw [h]; rfl

theorem checkEip_ok {off limit : W32} {c : Cpu} {b : Bus} (h : off.toNat ≤ limit.toNat) :
    checkEip off limit c b = .ok () b := by
  unfold checkEip
  rw [run_raiseIf, if_neg (by simp; omega)]

theorem Writes.room {c : Cpu} {b : Bus} {n v : Nat} {p : Phys} {b2 : Bus}
    (h : Writes c b .ss (c.stackOff (c.below n)) n v p b2) : c.hasRoom n = true := by
  obtain ⟨b1, h1, -⟩ := h
  unfold memPrepare at h1
  obtain ⟨q, b3, h1, -⟩ := B.bind_eq_ok h1
  unfold memCheck at h1
  rw [B.bind_ok (run_regs c b)] at h1
  cases h2 : segCheck c .ss (c.stackOff (c.below n)) n true with
  | some e => rw [h2] at h1; cases h1
  | none =>
    unfold segCheck at h2
    dsimp only at h2
    split at h2
    · cases h2
    · split at h2
      · assumption
      · cases h2

/-! Transfers. -/

theorem nearJump_ok {t : W32} {s : State} (h : t.toNat ≤ s.cpu.seg.cs.limit.toNat) :
    nearJump t s = .ok () { cpu := { s.cpu with eip := s.cpu.cutEip t }, bus := s.bus.jumped } := by
  unfold nearJump
  rw [M.bind_ok (run_getCpu s), M.bind_ok (onBus_ok (checkEip_ok h))]
  rfl

theorem nearJump_far {t : W32} {s : State} (h : s.cpu.seg.cs.limit.toNat < t.toNat) :
    nearJump t s = .error (.exc (.gp 0#32)) s := by
  unfold nearJump
  rw [M.bind_ok (run_getCpu s)]
  refine M.bind_error (onBus_error ?_)
  unfold checkEip
  rw [run_raiseIf, if_pos (by simpa using h)]

theorem farReal_ok {sel : W16} {t : W32} {s : State} (h : t.toNat ≤ s.cpu.seg.cs.limit.toNat) :
    farReal sel t s = .ok () { cpu := { s.cpu with seg.cs := s.cpu.seg.cs.paragraph sel, eip := t }
                               bus := s.bus.jumped } := by
  unfold farReal
  rw [M.bind_ok (run_getCpu s), M.bind_ok (onBus_ok (checkEip_ok h))]
  rfl

/-- Two jumps in a row are like one: a delivery that loads CS jumps twice. -/
@[simp] theorem Bus.jumped_jumped (b : Bus) : b.jumped.jumped = b.jumped := by
  unfold Bus.jumped
  simp only [List.map_map]
  rfl

/-- A serializing instruction after a jump. -/
@[simp] theorem Bus.jumped_serialized (b : Bus) : b.jumped.serialized = b.serialized := rfl

theorem loadCs_ok {sel : W16} {d : Desc} {cpl : BitVec 2} {t : W32} {s : State} {b1 : Bus}
    (h : setAccessed d s.cpu s.bus = .ok () b1) :
    loadCs sel d cpl t s = .ok () { cpu := { s.cpu.setCs sel d cpl with eip := d.ipOf t }, bus := b1.jumped } := by
  unfold loadCs
  rw [M.bind_ok (onBus_ok h)]
  rfl

theorem loadSeg_ok {sr : Seg} {sel : W16} {v : SegReg} {s : State} {b1 : Bus}
    (h : loadSegValue sr sel s.cpu s.bus = .ok v b1) :
    loadSeg sr sel s = .ok () { cpu := s.cpu.setSeg sr v, bus := b1 } := by
  unfold loadSeg
  rw [M.bind_ok (onBus_ok h)]
  rfl

/-! The accessed bit. -/

/-- A locked privilege-level-0 read-modify-write stores at the place of its byte only. -/
theorem sysLocked_stored {la : W32} {f : Nat → Nat} {c : Cpu} {b b1 : Bus} (h : sysLocked la f c b = .ok () b1) :
    ∃ p b2, physical la 1 true false c b = .ok p b2 ∧ Stored c p.addrs b b1 := by
  unfold sysLocked at h
  obtain ⟨p, b2, h1, h2⟩ := B.bind_eq_ok h
  obtain ⟨q, b3, h3, h4⟩ := B.bind_eq_ok h2
  obtain ⟨rfl, rfl⟩ := checkRange_eq h3
  exact ⟨q, b3, h1, (quiet_physical _ _ _ _).then_stored h1 (lockedByte_stored f (physical_leaves h1) h4)⟩

theorem setAccessed_stored {d : Desc} {c : Cpu} {b b1 : Bus} (h : setAccessed d c b = .ok () b1) :
    Stored c (accessedAddrs d c b) b b1 := by
  unfold setAccessed at h
  unfold accessedAddrs
  split at h
  · cases h; exact .refl _ _ _
  · next hd =>
    obtain ⟨p, b2, h1, h2⟩ := sysLocked_stored h
    rw [if_neg hd]
    unfold rightsAddrs
    rw [h1]
    exact h2

theorem setBusy_stored {d : Desc} {c : Cpu} {b b1 : Bus} (h : setBusy d c b = .ok () b1) :
    Stored c (rightsAddrs d c b) b b1 := by
  obtain ⟨p, b2, h1, h2⟩ := sysLocked_stored h
  unfold rightsAddrs
  rw [h1]
  exact h2

theorem keepsWf_setAccessed' {d : Desc} {c : Cpu} {b b1 : Bus} (h : setAccessed d c b = .ok () b1)
    (hb : b.mem.wf = true) : b1.mem.wf = true := (keepsWf_setAccessed d).ok h hb

/-! Fetching after a change of PG. -/

/-- With no change of PG behind it, a fetch is made with the present PG. -/
theorem fetchNext_settled {b : Bus} (h : b.oldPg = false) (c : Cpu) : fetchNext c b = fetchInstr c b := by
  simp [fetchNext, h]

/-- Any other fetch is made with one of the two settings of PG. -/
theorem fetchNext_cases (c : Cpu) (b : Bus) :
    (∃ b1, fetchNext c b = fetchInstr c.otherPg b1 ∧ b1.mem = b.mem)
      ∨ ∃ b1, fetchNext c b = fetchInstr c b1 ∧ b1.mem = b.mem ∧ b1.oldPg = false := by
  unfold fetchNext
  cases h : b.oldPg with
  | false => exact .inr ⟨b, rfl, rfl, h⟩
  | true =>
    have hr : freeBit c b
        = .ok ((Config.freeWord b.freeCtr).getLsbD 0) { b with freeCtr := b.freeCtr + 1 } := rfl
    rw [h] at hr
    simp only [if_true, hr]
    cases (Config.freeWord b.freeCtr).getLsbD 0
    · exact .inr ⟨_, rfl, rfl, rfl⟩
    · exact .inl ⟨_, rfl, rfl⟩

end Sys2Proof.Machine
end

