-- ==== Sys2Proof/Laws/PerInstr.lean ====
section
/-!
SUPPORT. The family `EncodedLength`, instruction by instruction: no encoding is longer than the limit of
`spec/30_encoding.md` R454.
-/
namespace Sys2Proof.Laws

open Sys2Proof

/-- The bytes of an instruction are at most 15, whatever the default size of the code segment
(`spec/30_encoding.md` R454). -/
def EncodedLength.Statement (i : Instr) : Prop := ∀ d, (encode d i).length ≤ 15

theorem lockByte_length (l : Bool) : (Encode.lockByte l).length ≤ 1 := by cases l <;> decide

theorem oszByte_length (d : Bool) (o : Option OpSize) : (Encode.oszByte d o).length ≤ 1 := by
  rcases o with _ | _ | _ <;> cases d <;> decide

theorem memBytes_length (d : Bool) (m : Option MemOp) : (Encode.memBytes d m).length ≤ 2 := by
  rcases m with _ | ⟨_ | s, e⟩
  · exact Nat.zero_le _
  · simp only [Encode.memBytes]; split <;> simp
  · simp only [Encode.memBytes]; split <;> simp

theorem pfx_length (d l : Bool) (o : Option OpSize) (m : Option MemOp) : (Encode.pfx d l o m).length ≤ 4 := by
  have a := lockByte_length l
  have b := oszByte_length d o
  have c := memBytes_length d m
  simp only [Encode.pfx, List.length_append]
  omega

theorem ea_length (reg : BitVec 3) (e : Ea) : (Encode.ea reg e).length ≤ 6 := by
  cases e with
  | abs16 d => exact Nat.le_of_ble_eq_true rfl
  | abs32 d => exact Nat.le_of_ble_eq_true rfl
  | sibNoBase s i d => exact Nat.le_of_ble_eq_true rfl
  | base16 b d => cases d <;> exact Nat.le_of_ble_eq_true rfl
  | base32 r d => cases d <;> exact Nat.le_of_ble_eq_true rfl
  | sib s i b d => cases d <;> exact Nat.le_of_ble_eq_true rfl

theorem modrm_length {ρ : Type} (num : ρ → BitVec 3) (reg : BitVec 3) (rm : RegMem ρ) :
    (Encode.modrm num reg rm).length ≤ 6 := by
  cases rm with
  | reg r => exact Nat.le_of_ble_eq_true rfl
  | mem m => exact ea_length reg m.ea

theorem immv_length (i : ImmV) : (Encode.immv i).length ≤ 4 := by cases i <;> exact Nat.le_of_ble_eq_true rfl

theorem farPtr_length (p : FarPtr) : (Encode.farPtr p).length ≤ 6 := by cases p <;> exact Nat.le_of_ble_eq_true rfl

theorem word_length (v : W16) : (Encode.word v).length = 2 := rfl

/-- A byte list made of prefixes, opcode bytes, a ModR/M part and an immediate. -/
theorem length_of_parts {p o m i : List Byte} (hp : p.length ≤ 4) (ho : o.length = 1) (hm : m.length ≤ 6)
    (hi : i.length ≤ 4) : (p ++ o ++ m ++ i).length ≤ 15 := by
  simp only [List.length_append]
  omega

/-- Prefixes and opcode bytes alone. -/
theorem length_of_one {p o : List Byte} (hp : p.length ≤ 4) (ho : o.length ≤ 2) : (p ++ o).length ≤ 15 := by
  simp only [List.length_append]
  omega

/-- The same without an immediate: the opcode may have two bytes. -/
theorem length_of_two {p o m : List Byte} (hp : p.length ≤ 4) (ho : o.length ≤ 2) (hm : m.length ≤ 6) :
    (p ++ o ++ m).length ≤ 15 := by
  simp only [List.length_append]
  omega

theorem EncodedLength.sgdt (osz : OpSize) (m : MemOp) : EncodedLength.Statement (.sgdt osz m) :=
  fun _ => length_of_two (pfx_length _ _ _ _) (by simp) (ea_length _ _)
theorem EncodedLength.sidt (osz : OpSize) (m : MemOp) : EncodedLength.Statement (.sidt osz m) :=
  fun _ => length_of_two (pfx_length _ _ _ _) (by simp) (ea_length _ _)
theorem EncodedLength.lgdt (osz : OpSize) (m : MemOp) : EncodedLength.Statement (.lgdt osz m) :=
  fun _ => length_of_two (pfx_length _ _ _ _) (by simp) (ea_length _ _)
theorem EncodedLength.lidt (osz : OpSize) (m : MemOp) : EncodedLength.Statement (.lidt osz m) :=
  fun _ => length_of_two (pfx_length _ _ _ _) (by simp) (ea_length _ _)
theorem EncodedLength.smsw (osz : OpSize) (rm : Rm) : EncodedLength.Statement (.smsw osz rm) :=
  fun _ => length_of_two (pfx_length _ _ _ _) (by simp) (modrm_length _ _ _)
theorem EncodedLength.lmsw (rm : Rm) : EncodedLength.Statement (.lmsw rm) :=
  fun _ => length_of_two (pfx_length _ _ _ _) (by simp) (modrm_length _ _ _)
theorem EncodedLength.invlpg (m : MemOp) : EncodedLength.Statement (.invlpg m) :=
  fun _ => length_of_two (pfx_length _ _ _ _) (by simp) (ea_length _ _)
theorem EncodedLength.sldt (osz : OpSize) (rm : Rm) : EncodedLength.Statement (.sldt osz rm) :=
  fun _ => length_of_two (pfx_length _ _ _ _) (by simp) (modrm_length _ _ _)
theorem EncodedLength.str (osz : OpSize) (rm : Rm) : EncodedLength.Statement (.str osz rm) :=
  fun _ => length_of_two (pfx_length _ _ _ _) (by simp) (modrm_length _ _ _)
theorem EncodedLength.lldt (rm : Rm) : EncodedLength.Statement (.lldt rm) :=
  fun _ => length_of_two (pfx_length _ _ _ _) (by simp) (modrm_length _ _ _)
theorem EncodedLength.ltr (rm : Rm) : EncodedLength.Statement (.ltr rm) :=
  fun _ => length_of_two (pfx_length _ _ _ _) (by simp) (modrm_length _ _ _)
theorem EncodedLength.verr (rm : Rm) : EncodedLength.Statement (.verr rm) :=
  fun _ => length_of_two (pfx_length _ _ _ _) (by simp) (modrm_length _ _ _)
theorem EncodedLength.verw (rm : Rm) : EncodedLength.Statement (.verw rm) :=
  fun _ => length_of_two (pfx_length _ _ _ _) (by simp) (modrm_length _ _ _)
theorem EncodedLength.lar (osz : OpSize) (r : Gpr) (rm : Rm) : EncodedLength.Statement (.lar osz r rm) :=
  fun _ => length_of_two (pfx_length _ _ _ _) (by simp) (modrm_length _ _ _)
theorem EncodedLength.lsl (osz : OpSize) (r : Gpr) (rm : Rm) : EncodedLength.Statement (.lsl osz r rm) :=
  fun _ => length_of_two (pfx_length _ _ _ _) (by simp) (modrm_length _ _ _)
theorem EncodedLength.clts : EncodedLength.Statement (.clts) :=
  fun _ => Nat.le_of_ble_eq_true rfl
theorem EncodedLength.invd : EncodedLength.Statement (.invd) :=
  fun _ => Nat.le_of_ble_eq_true rfl
theorem EncodedLength.wbinvd : EncodedLength.Statement (.wbinvd) :=
  fun _ => Nat.le_of_ble_eq_true rfl
theorem EncodedLength.ud2 : EncodedLength.Statement (.ud2) :=
  fun _ => Nat.le_of_ble_eq_true rfl
theorem EncodedLength.movRCr (n : BitVec 3) (r : Gpr) : EncodedLength.Statement (.movRCr n r) :=
  fun _ => Nat.le_of_ble_eq_true rfl
theorem EncodedLength.movRDr (n : BitVec 3) (r : Gpr) : EncodedLength.Statement (.movRDr n r) :=
  fun _ => Nat.le_of_ble_eq_true rfl
theorem EncodedLength.movCrR (n : BitVec 3) (r : Gpr) : EncodedLength.Statement (.movCrR n r) :=
  fun _ => Nat.le_of_ble_eq_true rfl
theorem EncodedLength.movDrR (n : BitVec 3) (r : Gpr) : EncodedLength.Statement (.movDrR n r) :=
  fun _ => Nat.le_of_ble_eq_true rfl
theorem EncodedLength.wrmsr : EncodedLength.Statement (.wrmsr) :=
  fun _ => Nat.le_of_ble_eq_true rfl
theorem EncodedLength.rdtsc : EncodedLength.Statement (.rdtsc) :=
  fun _ => Nat.le_of_ble_eq_true rfl
theorem EncodedLength.rdmsr : EncodedLength.Statement (.rdmsr) :=
  fun _ => Nat.le_of_ble_eq_true rfl
theorem EncodedLength.rdpmc : EncodedLength.Statement (.rdpmc) :=
  fun _ => Nat.le_of_ble_eq_true rfl
theorem EncodedLength.emms : EncodedLength.Statement (.emms) :=
  fun _ => Nat.le_of_ble_eq_true rfl
theorem EncodedLength.jccRel (cc : Cond) (rel : ImmV) : EncodedLength.Statement (.jccRel cc rel) :=
  fun _ => length_of_two (pfx_length _ _ _ _) (by simp) ((immv_length _).trans (by decide))
theorem EncodedLength.pushFs (osz : OpSize) : EncodedLength.Statement (.pushFs osz) :=
  fun _ => length_of_one (pfx_length _ _ _ _) (by simp)
theorem EncodedLength.popFs (osz : OpSize) : EncodedLength.Statement (.popFs osz) :=
  fun _ => length_of_one (pfx_length _ _ _ _) (by simp)
theorem EncodedLength.cpuid : EncodedLength.Statement (.cpuid) :=
  fun _ => Nat.le_of_ble_eq_true rfl
theorem EncodedLength.pushGs (osz : OpSize) : EncodedLength.Statement (.pushGs osz) :=
  fun _ => length_of_one (pfx_length _ _ _ _) (by simp)
theorem EncodedLength.popGs (osz : OpSize) : EncodedLength.Statement (.popGs osz) :=
  fun _ => length_of_one (pfx_length _ _ _ _) (by simp)
theorem EncodedLength.rsm : EncodedLength.Statement (.rsm) :=
  fun _ => Nat.le_of_ble_eq_true rfl
theorem EncodedLength.fxsave (m : MemOp) : EncodedLength.Statement (.fxsave m) :=
  fun _ => length_of_two (pfx_length _ _ _ _) (by simp) (ea_length _ _)
theorem EncodedLength.fxrstor (m : MemOp) : EncodedLength.Statement (.fxrstor m) :=
  fun _ => length_of_two (pfx_length _ _ _ _) (by simp) (ea_length _ _)
theorem EncodedLength.ldmxcsr (m : MemOp) : EncodedLength.Statement (.ldmxcsr m) :=
  fun _ => length_of_two (pfx_length _ _ _ _) (by simp) (ea_length _ _)
theorem EncodedLength.stmxcsr (m : MemOp) : EncodedLength.Statement (.stmxcsr m) :=
  fun _ => length_of_two (pfx_length _ _ _ _) (by simp) (ea_length _ _)
theorem EncodedLength.sfence : EncodedLength.Statement (.sfence) :=
  fun _ => Nat.le_of_ble_eq_true rfl
theorem EncodedLength.lss (osz : OpSize) (r : Gpr) (m : MemOp) : EncodedLength.Statement (.lss osz r m) :=
  fun _ => length_of_two (pfx_length _ _ _ _) (by simp) (ea_length _ _)
theorem EncodedLength.lfs (osz : OpSize) (r : Gpr) (m : MemOp) : EncodedLength.Statement (.lfs osz r m) :=
  fun _ => length_of_two (pfx_length _ _ _ _) (by simp) (ea_length _ _)
theorem EncodedLength.lgs (osz : OpSize) (r : Gpr) (m : MemOp) : EncodedLength.Statement (.lgs osz r m) :=
  fun _ => length_of_two (pfx_length _ _ _ _) (by simp) (ea_length _ _)
theorem EncodedLength.addRm8R8 (lock : Bool) (rm : Rm8) (r : Gpr8) : EncodedLength.Statement (.addRm8R8 lock rm r) :=
  fun _ => length_of_two (pfx_length _ _ _ _) (by simp) (modrm_length _ _ _)
theorem EncodedLength.addRmR (lock : Bool) (osz : OpSize) (rm : Rm) (r : Gpr) : EncodedLength.Statement (.addRmR lock osz rm r) :=
  fun _ => length_of_two (pfx_length _ _ _ _) (by simp) (modrm_length _ _ _)
theorem EncodedLength.addR8Rm8 (r : Gpr8) (rm : Rm8) : EncodedLength.Statement (.addR8Rm8 r rm) :=
  fun _ => length_of_two (pfx_length _ _ _ _) (by simp) (modrm_length _ _ _)
theorem EncodedLength.addRRm (osz : OpSize) (r : Gpr) (rm : Rm) : EncodedLength.Statement (.addRRm osz r rm) :=
  fun _ => length_of_two (pfx_length _ _ _ _) (by simp) (modrm_length _ _ _)
theorem EncodedLength.addAlImm8 (imm : Byte) : EncodedLength.Statement (.addAlImm8 imm) :=
  fun _ => Nat.le_of_ble_eq_true rfl
theorem EncodedLength.addEaxImm (imm : ImmV) : EncodedLength.Statement (.addEaxImm imm) :=
  fun _ => length_of_two (pfx_length _ _ _ _) (by simp) ((immv_length _).trans (by decide))
theorem EncodedLength.addRm8Imm8 (lock : Bool) (rm : Rm8) (imm : Byte) : EncodedLength.Statement (.addRm8Imm8 lock rm imm) :=
  fun _ => length_of_parts (pfx_length _ _ _ _) rfl (modrm_length _ _ _) (by simp)
theorem EncodedLength.addRmImm (lock : Bool) (rm : Rm) (imm : ImmV) : EncodedLength.Statement (.addRmImm lock rm imm) :=
  fun _ => length_of_parts (pfx_length _ _ _ _) rfl (modrm_length _ _ _) (immv_length _)
theorem EncodedLength.addRmImm8 (lock : Bool) (osz : OpSize) (rm : Rm) (imm : Byte) : EncodedLength.Statement (.addRmImm8 lock osz rm imm) :=
  fun _ => length_of_parts (pfx_length _ _ _ _) rfl (modrm_length _ _ _) (by simp)
theorem EncodedLength.pushEs (osz : OpSize) : EncodedLength.Statement (.pushEs osz) :=
  fun _ => length_of_one (pfx_length _ _ _ _) (by simp)
theorem EncodedLength.popEs (osz : OpSize) : EncodedLength.Statement (.popEs osz) :=
  fun _ => length_of_one (pfx_length _ _ _ _) (by simp)
theorem EncodedLength.orRm8R8 (lock : Bool) (rm : Rm8) (r : Gpr8) : EncodedLength.Statement (.orRm8R8 lock rm r) :=
  fun _ => length_of_two (pfx_length _ _ _ _) (by simp) (modrm_length _ _ _)
theorem EncodedLength.orRmR (lock : Bool) (osz : OpSize) (rm : Rm) (r : Gpr) : EncodedLength.Statement (.orRmR lock osz rm r) :=
  fun _ => length_of_two (pfx_length _ _ _ _) (by simp) (modrm_length _ _ _)
theorem EncodedLength.orR8Rm8 (r : Gpr8) (rm : Rm8) : EncodedLength.Statement (.orR8Rm8 r rm) :=
  fun _ => length_of_two (pfx_length _ _ _ _) (by simp) (modrm_length _ _ _)
theorem EncodedLength.orRRm (osz : OpSize) (r : Gpr) (rm : Rm) : EncodedLength.Statement (.orRRm osz r rm) :=
  fun _ => length_of_two (pfx_length _ _ _ _) (by simp) (modrm_length _ _ _)
theorem EncodedLength.orAlImm8 (imm : Byte) : EncodedLength.Statement (.orAlImm8 imm) :=
  fun _ => Nat.le_of_ble_eq_true rfl
theorem EncodedLength.orEaxImm (imm : ImmV) : EncodedLength.Statement (.orEaxImm imm) :=
  fun _ => length_of_two (pfx_length _ _ _ _) (by simp) ((immv_length _).trans (by decide))
theorem EncodedLength.orRm8Imm8 (lock : Bool) (rm : Rm8) (imm : Byte) : EncodedLength.Statement (.orRm8Imm8 lock rm imm) :=
  fun _ => length_of_parts (pfx_length _ _ _ _) rfl (modrm_length _ _ _) (by simp)
theorem EncodedLength.orRmImm (lock : Bool) (rm : Rm) (imm : ImmV) : EncodedLength.Statement (.orRmImm lock rm imm) :=
  fun _ => length_of_parts (pfx_length _ _ _ _) rfl (modrm_length _ _ _) (immv_length _)
theorem EncodedLength.orRmImm8 (lock : Bool) (osz : OpSize) (rm : Rm) (imm : Byte) : EncodedLength.Statement (.orRmImm8 lock osz rm imm) :=
  fun _ => length_of_parts (pfx_length _ _ _ _) rfl (modrm_length _ _ _) (by simp)
theorem EncodedLength.pushCs (osz : OpSize) : EncodedLength.Statement (.pushCs osz) :=
  fun _ => length_of_one (pfx_length _ _ _ _) (by simp)
theorem EncodedLength.pushSs (osz : OpSize) : EncodedLength.Statement (.pushSs osz) :=
  fun _ => length_of_one (pfx_length _ _ _ _) (by simp)
theorem EncodedLength.popSs (osz : OpSize) : EncodedLength.Statement (.popSs osz) :=
  fun _ => length_of_one (pfx_length _ _ _ _) (by simp)
theorem EncodedLength.pushDs (osz : OpSize) : EncodedLength.Statement (.pushDs osz) :=
  fun _ => length_of_one (pfx_length _ _ _ _) (by simp)
theorem EncodedLength.popDs (osz : OpSize) : EncodedLength.Statement (.popDs osz) :=
  fun _ => length_of_one (pfx_length _ _ _ _) (by simp)
theorem EncodedLength.andRm8R8 (lock : Bool) (rm : Rm8) (r : Gpr8) : EncodedLength.Statement (.andRm8R8 lock rm r) :=
  fun _ => length_of_two (pfx_length _ _ _ _) (by simp) (modrm_length _ _ _)
theorem EncodedLength.andRmR (lock : Bool) (osz : OpSize) (rm : Rm) (r : Gpr) : EncodedLength.Statement (.andRmR lock osz rm r) :=
  fun _ => length_of_two (pfx_length _ _ _ _) (by simp) (modrm_length _ _ _)
theorem EncodedLength.andR8Rm8 (r : Gpr8) (rm : Rm8) : EncodedLength.Statement (.andR8Rm8 r rm) :=
  fun _ => length_of_two (pfx_length _ _ _ _) (by simp) (modrm_length _ _ _)
theorem EncodedLength.andRRm (osz : OpSize) (r : Gpr) (rm : Rm) : EncodedLength.Statement (.andRRm osz r rm) :=
  fun _ => length_of_two (pfx_length _ _ _ _) (by simp) (modrm_length _ _ _)
theorem EncodedLength.andAlImm8 (imm : Byte) : EncodedLength.Statement (.andAlImm8 imm) :=
  fun _ => Nat.le_of_ble_eq_true rfl
theorem EncodedLength.andEaxImm (imm : ImmV) : EncodedLength.Statement (.andEaxImm imm) :=
  fun _ => length_of_two (pfx_length _ _ _ _) (by simp) ((immv_length _).trans (by decide))
theorem EncodedLength.andRm8Imm8 (lock : Bool) (rm : Rm8) (imm : Byte) : EncodedLength.Statement (.andRm8Imm8 lock rm imm) :=
  fun _ => length_of_parts (pfx_length _ _ _ _) rfl (modrm_length _ _ _) (by simp)
theorem EncodedLength.andRmImm (lock : Bool) (rm : Rm) (imm : ImmV) : EncodedLength.Statement (.andRmImm lock rm imm) :=
  fun _ => length_of_parts (pfx_length _ _ _ _) rfl (modrm_length _ _ _) (immv_length _)
theorem EncodedLength.andRmImm8 (lock : Bool) (osz : OpSize) (rm : Rm) (imm : Byte) : EncodedLength.Statement (.andRmImm8 lock osz rm imm) :=
  fun _ => length_of_parts (pfx_length _ _ _ _) rfl (modrm_length _ _ _) (by simp)
theorem EncodedLength.subRm8R8 (lock : Bool) (rm : Rm8) (r : Gpr8) : EncodedLength.Statement (.subRm8R8 lock rm r) :=
  fun _ => length_of_two (pfx_length _ _ _ _) (by simp) (modrm_length _ _ _)
theorem EncodedLength.subRmR (lock : Bool) (osz : OpSize) (rm : Rm) (r : Gpr) : EncodedLength.Statement (.subRmR lock osz rm r) :=
  fun _ => length_of_two (pfx_length _ _ _ _) (by simp) (modrm_length _ _ _)
theorem EncodedLength.subR8Rm8 (r : Gpr8) (rm : Rm8) : EncodedLength.Statement (.subR8Rm8 r rm) :=
  fun _ => length_of_two (pfx_length _ _ _ _) (by simp) (modrm_length _ _ _)
theorem EncodedLength.subRRm (osz : OpSize) (r : Gpr) (rm : Rm) : EncodedLength.Statement (.subRRm osz r rm) :=
  fun _ => length_of_two (pfx_length _ _ _ _) (by simp) (modrm_length _ _ _)
theorem EncodedLength.subAlImm8 (imm : Byte) : EncodedLength.Statement (.subAlImm8 imm) :=
  fun _ => Nat.le_of_ble_eq_true rfl
theorem EncodedLength.subEaxImm (imm : ImmV) : EncodedLength.Statement (.subEaxImm imm) :=
  fun _ => length_of_two (pfx_length _ _ _ _) (by simp) ((immv_length _).trans (by decide))
theorem EncodedLength.subRm8Imm8 (lock : Bool) (rm : Rm8) (imm : Byte) : EncodedLength.Statement (.subRm8Imm8 lock rm imm) :=
  fun _ => length_of_parts (pfx_length _ _ _ _) rfl (modrm_length _ _ _) (by simp)
theorem EncodedLength.subRmImm (lock : Bool) (rm : Rm) (imm : ImmV) : EncodedLength.Statement (.subRmImm lock rm imm) :=
  fun _ => length_of_parts (pfx_length _ _ _ _) rfl (modrm_length _ _ _) (immv_length _)
theorem EncodedLength.subRmImm8 (lock : Bool) (osz : OpSize) (rm : Rm) (imm : Byte) : EncodedLength.Statement (.subRmImm8 lock osz rm imm) :=
  fun _ => length_of_parts (pfx_length _ _ _ _) rfl (modrm_length _ _ _) (by simp)
theorem EncodedLength.xorRm8R8 (lock : Bool) (rm : Rm8) (r : Gpr8) : EncodedLength.Statement (.xorRm8R8 lock rm r) :=
  fun _ => length_of_two (pfx_length _ _ _ _) (by simp) (modrm_length _ _ _)
theorem EncodedLength.xorRmR (lock : Bool) (osz : OpSize) (rm : Rm) (r : Gpr) : EncodedLength.Statement (.xorRmR lock osz rm r) :=
  fun _ => length_of_two (pfx_length _ _ _ _) (by simp) (modrm_length _ _ _)
theorem EncodedLength.xorR8Rm8 (r : Gpr8) (rm : Rm8) : EncodedLength.Statement (.xorR8Rm8 r rm) :=
  fun _ => length_of_two (pfx_length _ _ _ _) (by simp) (modrm_length _ _ _)
theorem EncodedLength.xorRRm (osz : OpSize) (r : Gpr) (rm : Rm) : EncodedLength.Statement (.xorRRm osz r rm) :=
  fun _ => length_of_two (pfx_length _ _ _ _) (by simp) (modrm_length _ _ _)
theorem EncodedLength.xorAlImm8 (imm : Byte) : EncodedLength.Statement (.xorAlImm8 imm) :=
  fun _ => Nat.le_of_ble_eq_true rfl
theorem EncodedLength.xorEaxImm (imm : ImmV) : EncodedLength.Statement (.xorEaxImm imm) :=
  fun _ => length_of_two (pfx_length _ _ _ _) (by simp) ((immv_length _).trans (by decide))
theorem EncodedLength.xorRm8Imm8 (lock : Bool) (rm : Rm8) (imm : Byte) : EncodedLength.Statement (.xorRm8Imm8 lock rm imm) :=
  fun _ => length_of_parts (pfx_length _ _ _ _) rfl (modrm_length _ _ _) (by simp)
theorem EncodedLength.xorRmImm (lock : Bool) (rm : Rm) (imm : ImmV) : EncodedLength.Statement (.xorRmImm lock rm imm) :=
  fun _ => length_of_parts (pfx_length _ _ _ _) rfl (modrm_length _ _ _) (immv_length _)
theorem EncodedLength.xorRmImm8 (lock : Bool) (osz : OpSize) (rm : Rm) (imm : Byte) : EncodedLength.Statement (.xorRmImm8 lock osz rm imm) :=
  fun _ => length_of_parts (pfx_length _ _ _ _) rfl (modrm_length _ _ _) (by simp)
theorem EncodedLength.cmpRm8R8 (rm : Rm8) (r : Gpr8) : EncodedLength.Statement (.cmpRm8R8 rm r) :=
  fun _ => length_of_two (pfx_length _ _ _ _) (by simp) (modrm_length _ _ _)
theorem EncodedLength.cmpRmR (osz : OpSize) (rm : Rm) (r : Gpr) : EncodedLength.Statement (.cmpRmR osz rm r) :=
  fun _ => length_of_two (pfx_length _ _ _ _) (by simp) (modrm_length _ _ _)
theorem EncodedLength.cmpR8Rm8 (r : Gpr8) (rm : Rm8) : EncodedLength.Statement (.cmpR8Rm8 r rm) :=
  fun _ => length_of_two (pfx_length _ _ _ _) (by simp) (modrm_length _ _ _)
theorem EncodedLength.cmpRRm (osz : OpSize) (r : Gpr) (rm : Rm) : EncodedLength.Statement (.cmpRRm osz r rm) :=
  fun _ => length_of_two (pfx_length _ _ _ _) (by simp) (modrm_length _ _ _)
theorem EncodedLength.cmpAlImm8 (imm : Byte) : EncodedLength.Statement (.cmpAlImm8 imm) :=
  fun _ => Nat.le_of_ble_eq_true rfl
theorem EncodedLength.cmpEaxImm (imm : ImmV) : EncodedLength.Statement (.cmpEaxImm imm) :=
  fun _ => length_of_two (pfx_length _ _ _ _) (by simp) ((immv_length _).trans (by decide))
theorem EncodedLength.cmpRm8Imm8 (rm : Rm8) (imm : Byte) : EncodedLength.Statement (.cmpRm8Imm8 rm imm) :=
  fun _ => length_of_parts (pfx_length _ _ _ _) rfl (modrm_length _ _ _) (by simp)
theorem EncodedLength.cmpRmImm (rm : Rm) (imm : ImmV) : EncodedLength.Statement (.cmpRmImm rm imm) :=
  fun _ => length_of_parts (pfx_length _ _ _ _) rfl (modrm_length _ _ _) (immv_length _)
theorem EncodedLength.cmpRmImm8 (osz : OpSize) (rm : Rm) (imm : Byte) : EncodedLength.Statement (.cmpRmImm8 osz rm imm) :=
  fun _ => length_of_parts (pfx_length _ _ _ _) rfl (modrm_length _ _ _) (by simp)
theorem EncodedLength.incR (osz : OpSize) (r : Gpr) : EncodedLength.Statement (.incR osz r) :=
  fun _ => length_of_one (pfx_length _ _ _ _) (by simp)
theorem EncodedLength.decR (osz : OpSize) (r : Gpr) : EncodedLength.Statement (.decR osz r) :=
  fun _ => length_of_one (pfx_length _ _ _ _) (by simp)
theorem EncodedLength.pushR (osz : OpSize) (r : Gpr) : EncodedLength.Statement (.pushR osz r) :=
  fun _ => length_of_one (pfx_length _ _ _ _) (by simp)
theorem EncodedLength.popR (osz : OpSize) (r : Gpr) : EncodedLength.Statement (.popR osz r) :=
  fun _ => length_of_one (pfx_length _ _ _ _) (by simp)
theorem EncodedLength.bound (osz : OpSize) (r : Gpr) (m : MemOp) : EncodedLength.Statement (.bound osz r m) :=
  fun _ => length_of_two (pfx_length _ _ _ _) (by simp) (ea_length _ _)
theorem EncodedLength.arpl (rm : Rm) (r : Gpr) : EncodedLength.Statement (.arpl rm r) :=
  fun _ => length_of_two (pfx_length _ _ _ _) (by simp) (modrm_length _ _ _)
theorem EncodedLength.pushImm (imm : ImmV) : EncodedLength.Statement (.pushImm imm) :=
  fun _ => length_of_two (pfx_length _ _ _ _) (by simp) ((immv_length _).trans (by decide))
theorem EncodedLength.pushImm8 (osz : OpSize) (imm : Byte) : EncodedLength.Statement (.pushImm8 osz imm) :=
  fun _ => length_of_two (pfx_length _ _ _ _) (by simp) (by simp)
theorem EncodedLength.jccRel8 (osz : OpSize) (cc : Cond) (imm : Byte) : EncodedLength.Statement (.jccRel8 osz cc imm) :=
  fun _ => length_of_two (pfx_length _ _ _ _) (by simp) (by simp)
theorem EncodedLength.testRm8R8 (rm : Rm8) (r : Gpr8) : EncodedLength.Statement (.testRm8R8 rm r) :=
  fun _ => length_of_two (pfx_length _ _ _ _) (by simp) (modrm_length _ _ _)
theorem EncodedLength.testRmR (osz : OpSize) (rm : Rm) (r : Gpr) : EncodedLength.Statement (.testRmR osz rm r) :=
  fun _ => length_of_two (pfx_length _ _ _ _) (by simp) (modrm_length _ _ _)
theorem EncodedLength.xchgRm8R8 (lock : Bool) (rm : Rm8) (r : Gpr8) : EncodedLength.Statement (.xchgRm8R8 lock rm r) :=
  fun _ => length_of_two (pfx_length _ _ _ _) (by simp) (modrm_length _ _ _)
theorem EncodedLength.xchgRmR (lock : Bool) (osz : OpSize) (rm : Rm) (r : Gpr) : EncodedLength.Statement (.xchgRmR lock osz rm r) :=
  fun _ => length_of_two (pfx_length _ _ _ _) (by simp) (modrm_length _ _ _)
theorem EncodedLength.movRm8R8 (rm : Rm8) (r : Gpr8) : EncodedLength.Statement (.movRm8R8 rm r) :=
  fun _ => length_of_two (pfx_length _ _ _ _) (by simp) (modrm_length _ _ _)
theorem EncodedLength.movRmR (osz : OpSize) (rm : Rm) (r : Gpr) : EncodedLength.Statement (.movRmR osz rm r) :=
  fun _ => length_of_two (pfx_length _ _ _ _) (by simp) (modrm_length _ _ _)
theorem EncodedLength.movR8Rm8 (r : Gpr8) (rm : Rm8) : EncodedLength.Statement (.movR8Rm8 r rm) :=
  fun _ => length_of_two (pfx_length _ _ _ _) (by simp) (modrm_length _ _ _)
theorem EncodedLength.movRRm (osz : OpSize) (r : Gpr) (rm : Rm) : EncodedLength.Statement (.movRRm osz r rm) :=
  fun _ => length_of_two (pfx_length _ _ _ _) (by simp) (modrm_length _ _ _)
theorem EncodedLength.movRmSreg (osz : OpSize) (rm : Rm) (sr : BitVec 3) : EncodedLength.Statement (.movRmSreg osz rm sr) :=
  fun _ => length_of_two (pfx_length _ _ _ _) (by simp) (modrm_length _ _ _)
theorem EncodedLength.lea (osz : OpSize) (r : Gpr) (m : MemOp) : EncodedLength.Statement (.lea osz r m) :=
  fun _ => length_of_two (pfx_length _ _ _ _) (by simp) (ea_length _ _)
theorem EncodedLength.movSregRm (sr : BitVec 3) (rm : Rm) : EncodedLength.Statement (.movSregRm sr rm) :=
  fun _ => length_of_two (pfx_length _ _ _ _) (by simp) (modrm_length _ _ _)
theorem EncodedLength.popRm (osz : OpSize) (rm : Rm) : EncodedLength.Statement (.popRm osz rm) :=
  fun _ => length_of_two (pfx_length _ _ _ _) (by simp) (modrm_length _ _ _)
theorem EncodedLength.nop : EncodedLength.Statement (.nop) :=
  fun _ => Nat.le_of_ble_eq_true rfl
theorem EncodedLength.xchgEaxR (osz : OpSize) (r : Gpr) : EncodedLength.Statement (.xchgEaxR osz r) :=
  fun _ => length_of_one (pfx_length _ _ _ _) (by simp)
theorem EncodedLength.callFarPtr (p : FarPtr) : EncodedLength.Statement (.callFarPtr p) :=
  fun _ => length_of_two (pfx_length _ _ _ _) (by simp) (farPtr_length _)
theorem EncodedLength.wait : EncodedLength.Statement (.wait) :=
  fun _ => Nat.le_of_ble_eq_true rfl
theorem EncodedLength.pushf (osz : OpSize) : EncodedLength.Statement (.pushf osz) :=
  fun _ => length_of_one (pfx_length _ _ _ _) (by simp)
theorem EncodedLength.popf (osz : OpSize) : EncodedLength.Statement (.popf osz) :=
  fun _ => length_of_one (pfx_length _ _ _ _) (by simp)
theorem EncodedLength.testAlImm8 (imm : Byte) : EncodedLength.Statement (.testAlImm8 imm) :=
  fun _ => Nat.le_of_ble_eq_true rfl
theorem EncodedLength.testEaxImm (imm : ImmV) : EncodedLength.Statement (.testEaxImm imm) :=
  fun _ => length_of_two (pfx_length _ _ _ _) (by simp) ((immv_length _).trans (by decide))
theorem EncodedLength.movR8Imm8 (r : Gpr8) (imm : Byte) : EncodedLength.Statement (.movR8Imm8 r imm) :=
  fun _ => Nat.le_of_ble_eq_true rfl
theorem EncodedLength.movRImm (r : Gpr) (imm : ImmV) : EncodedLength.Statement (.movRImm r imm) :=
  fun _ => length_of_two (pfx_length _ _ _ _) (by simp) ((immv_length _).trans (by decide))
theorem EncodedLength.retNearImm (osz : OpSize) (imm : W16) : EncodedLength.Statement (.retNearImm osz imm) :=
  fun _ => length_of_two (pfx_length _ _ _ _) (by simp) ((word_length _).le.trans (by decide))
theorem EncodedLength.retNear (osz : OpSize) : EncodedLength.Statement (.retNear osz) :=
  fun _ => length_of_one (pfx_length _ _ _ _) (by simp)
theorem EncodedLength.les (osz : OpSize) (r : Gpr) (m : MemOp) : EncodedLength.Statement (.les osz r m) :=
  fun _ => length_of_two (pfx_length _ _ _ _) (by simp) (ea_length _ _)
theorem EncodedLength.lds (osz : OpSize) (r : Gpr) (m : MemOp) : EncodedLength.Statement (.lds osz r m) :=
  fun _ => length_of_two (pfx_length _ _ _ _) (by simp) (ea_length _ _)
theorem EncodedLength.movRm8Imm8 (rm : Rm8) (imm : Byte) : EncodedLength.Statement (.movRm8Imm8 rm imm) :=
  fun _ => length_of_parts (pfx_length _ _ _ _) rfl (modrm_length _ _ _) (by simp)
theorem EncodedLength.movRmImm (rm : Rm) (imm : ImmV) : EncodedLength.Statement (.movRmImm rm imm) :=
  fun _ => length_of_parts (pfx_length _ _ _ _) rfl (modrm_length _ _ _) (immv_length _)
theorem EncodedLength.retFarImm (osz : OpSize) (imm : W16) : EncodedLength.Statement (.retFarImm osz imm) :=
  fun _ => length_of_two (pfx_length _ _ _ _) (by simp) ((word_length _).le.trans (by decide))
theorem EncodedLength.retFar (osz : OpSize) : EncodedLength.Statement (.retFar osz) :=
  fun _ => length_of_one (pfx_length _ _ _ _) (by simp)
theorem EncodedLength.int3 : EncodedLength.Statement (.int3) :=
  fun _ => Nat.le_of_ble_eq_true rfl
theorem EncodedLength.intN (imm : Byte) : EncodedLength.Statement (.intN imm) :=
  fun _ => Nat.le_of_ble_eq_true rfl
theorem EncodedLength.into : EncodedLength.Statement (.into) :=
  fun _ => Nat.le_of_ble_eq_true rfl
theorem EncodedLength.iret (osz : OpSize) : EncodedLength.Statement (.iret osz) :=
  fun _ => length_of_one (pfx_length _ _ _ _) (by simp)
theorem EncodedLength.fninit : EncodedLength.Statement (.fninit) :=
  fun _ => Nat.le_of_ble_eq_true rfl
theorem EncodedLength.inAlImm8 (imm : Byte) : EncodedLength.Statement (.inAlImm8 imm) :=
  fun _ => Nat.le_of_ble_eq_true rfl
theorem EncodedLength.inEaxImm8 (osz : OpSize) (imm : Byte) : EncodedLength.Statement (.inEaxImm8 osz imm) :=
  fun _ => length_of_two (pfx_length _ _ _ _) (by simp) (by simp)
theorem EncodedLength.outImm8Al (imm : Byte) : EncodedLength.Statement (.outImm8Al imm) :=
  fun _ => Nat.le_of_ble_eq_true rfl
theorem EncodedLength.outImm8Eax (osz : OpSize) (imm : Byte) : EncodedLength.Statement (.outImm8Eax osz imm) :=
  fun _ => length_of_two (pfx_length _ _ _ _) (by simp) (by simp)
theorem EncodedLength.callRel (imm : ImmV) : EncodedLength.Statement (.callRel imm) :=
  fun _ => length_of_two (pfx_length _ _ _ _) (by simp) ((immv_length _).trans (by decide))
theorem EncodedLength.jmpRel (imm : ImmV) : EncodedLength.Statement (.jmpRel imm) :=
  fun _ => length_of_two (pfx_length _ _ _ _) (by simp) ((immv_length _).trans (by decide))
theorem EncodedLength.jmpFarPtr (p : FarPtr) : EncodedLength.Statement (.jmpFarPtr p) :=
  fun _ => length_of_two (pfx_length _ _ _ _) (by simp) (farPtr_length _)
theorem EncodedLength.jmpRel8 (osz : OpSize) (imm : Byte) : EncodedLength.Statement (.jmpRel8 osz imm) :=
  fun _ => length_of_two (pfx_length _ _ _ _) (by simp) (by simp)
theorem EncodedLength.inAlDx : EncodedLength.Statement (.inAlDx) :=
  fun _ => Nat.le_of_ble_eq_true rfl
theorem EncodedLength.inEaxDx (osz : OpSize) : EncodedLength.Statement (.inEaxDx osz) :=
  fun _ => length_of_one (pfx_length _ _ _ _) (by simp)
theorem EncodedLength.outDxAl : EncodedLength.Statement (.outDxAl) :=
  fun _ => Nat.le_of_ble_eq_true rfl
theorem EncodedLength.outDxEax (osz : OpSize) : EncodedLength.Statement (.outDxEax osz) :=
  fun _ => length_of_one (pfx_length _ _ _ _) (by simp)
theorem EncodedLength.hlt : EncodedLength.Statement (.hlt) :=
  fun _ => Nat.le_of_ble_eq_true rfl
theorem EncodedLength.testRm8Imm8 (rm : Rm8) (imm : Byte) : EncodedLength.Statement (.testRm8Imm8 rm imm) :=
  fun _ => length_of_parts (pfx_length _ _ _ _) rfl (modrm_length _ _ _) (by simp)
theorem EncodedLength.divRm8 (rm : Rm8) : EncodedLength.Statement (.divRm8 rm) :=
  fun _ => length_of_two (pfx_length _ _ _ _) (by simp) (modrm_length _ _ _)
theorem EncodedLength.idivRm8 (rm : Rm8) : EncodedLength.Statement (.idivRm8 rm) :=
  fun _ => length_of_two (pfx_length _ _ _ _) (by simp) (modrm_length _ _ _)
theorem EncodedLength.testRmImm (rm : Rm) (imm : ImmV) : EncodedLength.Statement (.testRmImm rm imm) :=
  fun _ => length_of_parts (pfx_length _ _ _ _) rfl (modrm_length _ _ _) (immv_length _)
theorem EncodedLength.divRm (osz : OpSize) (rm : Rm) : EncodedLength.Statement (.divRm osz rm) :=
  fun _ => length_of_two (pfx_length _ _ _ _) (by simp) (modrm_length _ _ _)
theorem EncodedLength.idivRm (osz : OpSize) (rm : Rm) : EncodedLength.Statement (.idivRm osz rm) :=
  fun _ => length_of_two (pfx_length _ _ _ _) (by simp) (modrm_length _ _ _)
theorem EncodedLength.cli : EncodedLength.Statement (.cli) :=
  fun _ => Nat.le_of_ble_eq_true rfl
theorem EncodedLength.sti : EncodedLength.Statement (.sti) :=
  fun _ => Nat.le_of_ble_eq_true rfl
theorem EncodedLength.incRm8 (lock : Bool) (rm : Rm8) : EncodedLength.Statement (.incRm8 lock rm) :=
  fun _ => length_of_two (pfx_length _ _ _ _) (by simp) (modrm_length _ _ _)
theorem EncodedLength.decRm8 (lock : Bool) (rm : Rm8) : EncodedLength.Statement (.decRm8 lock rm) :=
  fun _ => length_of_two (pfx_length _ _ _ _) (by simp) (modrm_length _ _ _)
theorem EncodedLength.incRm (lock : Bool) (osz : OpSize) (rm : Rm) : EncodedLength.Statement (.incRm lock osz rm) :=
  fun _ => length_of_two (pfx_length _ _ _ _) (by simp) (modrm_length _ _ _)
theorem EncodedLength.decRm (lock : Bool) (osz : OpSize) (rm : Rm) : EncodedLength.Statement (.decRm lock osz rm) :=
  fun _ => length_of_two (pfx_length _ _ _ _) (by simp) (modrm_length _ _ _)
theorem EncodedLength.callRm (osz : OpSize) (rm : Rm) : EncodedLength.Statement (.callRm osz rm) :=
  fun _ => length_of_two (pfx_length _ _ _ _) (by simp) (modrm_length _ _ _)
theorem EncodedLength.callFarMem (osz : OpSize) (m : MemOp) : EncodedLength.Statement (.callFarMem osz m) :=
  fun _ => length_of_two (pfx_length _ _ _ _) (by simp) (ea_length _ _)
theorem EncodedLength.jmpRm (osz : OpSize) (rm : Rm) : EncodedLength.Statement (.jmpRm osz rm) :=
  fun _ => length_of_two (pfx_length _ _ _ _) (by simp) (modrm_length _ _ _)
theorem EncodedLength.jmpFarMem (osz : OpSize) (m : MemOp) : EncodedLength.Statement (.jmpFarMem osz m) :=
  fun _ => length_of_two (pfx_length _ _ _ _) (by simp) (ea_length _ _)
theorem EncodedLength.pushRm (osz : OpSize) (rm : Rm) : EncodedLength.Statement (.pushRm osz rm) :=
  fun _ => length_of_two (pfx_length _ _ _ _) (by simp) (modrm_length _ _ _)

end Sys2Proof.Laws
end

