-- ==== Sys2Proof/Laws/State.lean ====
section
/-!
SUPPORT. One lemma for each field and each named update of the state: what the field is afterwards. With them no proof
unfolds a record update.
-/
namespace Sys2Proof.Machine

/-! The start of a meaning. -/

@[simp] theorem State.past_gpr (s : State) : s.past.cpu.gpr = s.cpu.gpr := rfl
@[simp] theorem State.past_eip (s : State) : s.past.cpu.eip = s.cpu.nextEip := rfl
@[simp] theorem State.past_fl (s : State) : s.past.cpu.fl = s.cpu.fl := rfl
@[simp] theorem State.past_seg (s : State) : s.past.cpu.seg = s.cpu.seg := rfl
@[simp] theorem State.past_cpl (s : State) : s.past.cpu.cpl = s.cpu.cpl := rfl
@[simp] theorem State.past_gdtr (s : State) : s.past.cpu.gdtr = s.cpu.gdtr := rfl
@[simp] theorem State.past_idtr (s : State) : s.past.cpu.idtr = s.cpu.idtr := rfl
@[simp] theorem State.past_ldtr (s : State) : s.past.cpu.ldtr = s.cpu.ldtr := rfl
@[simp] theorem State.past_tr (s : State) : s.past.cpu.tr = s.cpu.tr := rfl
@[simp] theorem State.past_ctl (s : State) : s.past.cpu.ctl = s.cpu.ctl := rfl
@[simp] theorem State.past_dbg (s : State) : s.past.cpu.dbg = s.cpu.dbg := rfl
@[simp] theorem State.past_fpu (s : State) : s.past.cpu.fpu = s.cpu.fpu := rfl
@[simp] theorem State.past_sse (s : State) : s.past.cpu.sse = s.cpu.sse := rfl
@[simp] theorem State.past_msr (s : State) : s.past.cpu.msr = s.cpu.msr := rfl
@[simp] theorem State.past_smm (s : State) : s.past.cpu.smm = s.cpu.smm := rfl
@[simp] theorem State.past_hid (s : State) : s.past.cpu.hid = s.cpu.hid := rfl
@[simp] theorem State.past_nextEip (s : State) : s.past.cpu.nextEip = s.cpu.nextEip := rfl
@[simp] theorem State.past_notes (s : State) : s.past.cpu.notes = s.cpu.notes := rfl
@[simp] theorem State.past_bus (s : State) : s.past.bus = s.bus := rfl

/-! Registers. -/

@[simp] theorem Cpu.setEsp_eip (c : Cpu) (v : W32) : (Cpu.setEsp c v).eip = c.eip := rfl
@[simp] theorem Cpu.setEsp_fl (c : Cpu) (v : W32) : (Cpu.setEsp c v).fl = c.fl := rfl
@[simp] theorem Cpu.setEsp_seg (c : Cpu) (v : W32) : (Cpu.setEsp c v).seg = c.seg := rfl
@[simp] theorem Cpu.setEsp_cpl (c : Cpu) (v : W32) : (Cpu.setEsp c v).cpl = c.cpl := rfl
@[simp] theorem Cpu.setEsp_gdtr (c : Cpu) (v : W32) : (Cpu.setEsp c v).gdtr = c.gdtr := rfl
@[simp] theorem Cpu.setEsp_idtr (c : Cpu) (v : W32) : (Cpu.setEsp c v).idtr = c.idtr := rfl
@[simp] theorem Cpu.setEsp_ldtr (c : Cpu) (v : W32) : (Cpu.setEsp c v).ldtr = c.ldtr := rfl
@[simp] theorem Cpu.setEsp_tr (c : Cpu) (v : W32) : (Cpu.setEsp c v).tr = c.tr := rfl
@[simp] theorem Cpu.setEsp_ctl (c : Cpu) (v : W32) : (Cpu.setEsp c v).ctl = c.ctl := rfl
@[simp] theorem Cpu.setEsp_dbg (c : Cpu) (v : W32) : (Cpu.setEsp c v).dbg = c.dbg := rfl
@[simp] theorem Cpu.setEsp_fpu (c : Cpu) (v : W32) : (Cpu.setEsp c v).fpu = c.fpu := rfl
@[simp] theorem Cpu.setEsp_sse (c : Cpu) (v : W32) : (Cpu.setEsp c v).sse = c.sse := rfl
@[simp] theorem Cpu.setEsp_msr (c : Cpu) (v : W32) : (Cpu.setEsp c v).msr = c.msr := rfl
@[simp] theorem Cpu.setEsp_smm (c : Cpu) (v : W32) : (Cpu.setEsp c v).smm = c.smm := rfl
@[simp] theorem Cpu.setEsp_hid (c : Cpu) (v : W32) : (Cpu.setEsp c v).hid = c.hid := rfl
@[simp] theorem Cpu.setEsp_nextEip (c : Cpu) (v : W32) : (Cpu.setEsp c v).nextEip = c.nextEip := rfl
@[simp] theorem Cpu.setEsp_notes (c : Cpu) (v : W32) : (Cpu.setEsp c v).notes = c.notes := rfl

@[simp] theorem Cpu.setEsp_esp (c : Cpu) (v : W32) : (c.setEsp v).gpr.esp = v := rfl

@[simp] theorem Cpu.setSeg_gpr (c : Cpu) (r : Seg) (v : SegReg) : (Cpu.setSeg c r v).gpr = c.gpr := rfl
@[simp] theorem Cpu.setSeg_eip (c : Cpu) (r : Seg) (v : SegReg) : (Cpu.setSeg c r v).eip = c.eip := rfl
@[simp] theorem Cpu.setSeg_fl (c : Cpu) (r : Seg) (v : SegReg) : (Cpu.setSeg c r v).fl = c.fl := rfl
@[simp] theorem Cpu.setSeg_cpl (c : Cpu) (r : Seg) (v : SegReg) : (Cpu.setSeg c r v).cpl = c.cpl := rfl
@[simp] theorem Cpu.setSeg_gdtr (c : Cpu) (r : Seg) (v : SegReg) : (Cpu.setSeg c r v).gdtr = c.gdtr := rfl
@[simp] theorem Cpu.setSeg_idtr (c : Cpu) (r : Seg) (v : SegReg) : (Cpu.setSeg c r v).idtr = c.idtr := rfl
@[simp] theorem Cpu.setSeg_ldtr (c : Cpu) (r : Seg) (v : SegReg) : (Cpu.setSeg c r v).ldtr = c.ldtr := rfl
@[simp] theorem Cpu.setSeg_tr (c : Cpu) (r : Seg) (v : SegReg) : (Cpu.setSeg c r v).tr = c.tr := rfl
@[simp] theorem Cpu.setSeg_ctl (c : Cpu) (r : Seg) (v : SegReg) : (Cpu.setSeg c r v).ctl = c.ctl := rfl
@[simp] theorem Cpu.setSeg_dbg (c : Cpu) (r : Seg) (v : SegReg) : (Cpu.setSeg c r v).dbg = c.dbg := rfl
@[simp] theorem Cpu.setSeg_fpu (c : Cpu) (r : Seg) (v : SegReg) : (Cpu.setSeg c r v).fpu = c.fpu := rfl
@[simp] theorem Cpu.setSeg_sse (c : Cpu) (r : Seg) (v : SegReg) : (Cpu.setSeg c r v).sse = c.sse := rfl
@[simp] theorem Cpu.setSeg_msr (c : Cpu) (r : Seg) (v : SegReg) : (Cpu.setSeg c r v).msr = c.msr := rfl
@[simp] theorem Cpu.setSeg_smm (c : Cpu) (r : Seg) (v : SegReg) : (Cpu.setSeg c r v).smm = c.smm := rfl
@[simp] theorem Cpu.setSeg_hid (c : Cpu) (r : Seg) (v : SegReg) : (Cpu.setSeg c r v).hid = c.hid := rfl
@[simp] theorem Cpu.setSeg_nextEip (c : Cpu) (r : Seg) (v : SegReg) : (Cpu.setSeg c r v).nextEip = c.nextEip := rfl
@[simp] theorem Cpu.setSeg_notes (c : Cpu) (r : Seg) (v : SegReg) : (Cpu.setSeg c r v).notes = c.notes := rfl
@[simp] theorem Cpu.setSeg_seg (c : Cpu) (r : Seg) (v : SegReg) : (Cpu.setSeg c r v).seg = c.seg.set r v := rfl

@[simp] theorem Cpu.setCs_gpr (c : Cpu) (s : W16) (d : Desc) (l : BitVec 2) : (Cpu.setCs c s d l).gpr = c.gpr := rfl
@[simp] theorem Cpu.setCs_eip (c : Cpu) (s : W16) (d : Desc) (l : BitVec 2) : (Cpu.setCs c s d l).eip = c.eip := rfl
@[simp] theorem Cpu.setCs_fl (c : Cpu) (s : W16) (d : Desc) (l : BitVec 2) : (Cpu.setCs c s d l).fl = c.fl := rfl
@[simp] theorem Cpu.setCs_gdtr (c : Cpu) (s : W16) (d : Desc) (l : BitVec 2) :
    (Cpu.setCs c s d l).gdtr = c.gdtr := rfl
@[simp] theorem Cpu.setCs_idtr (c : Cpu) (s : W16) (d : Desc) (l : BitVec 2) :
    (Cpu.setCs c s d l).idtr = c.idtr := rfl
@[simp] theorem Cpu.setCs_ldtr (c : Cpu) (s : W16) (d : Desc) (l : BitVec 2) :
    (Cpu.setCs c s d l).ldtr = c.ldtr := rfl
@[simp] theorem Cpu.setCs_tr (c : Cpu) (s : W16) (d : Desc) (l : BitVec 2) : (Cpu.setCs c s d l).tr = c.tr := rfl
@[simp] theorem Cpu.setCs_ctl (c : Cpu) (s : W16) (d : Desc) (l : BitVec 2) : (Cpu.setCs c s d l).ctl = c.ctl := rfl
@[simp] theorem Cpu.setCs_dbg (c : Cpu) (s : W16) (d : Desc) (l : BitVec 2) : (Cpu.setCs c s d l).dbg = c.dbg := rfl
@[simp] theorem Cpu.setCs_fpu (c : Cpu) (s : W16) (d : Desc) (l : BitVec 2) : (Cpu.setCs c s d l).fpu = c.fpu := rfl
@[simp] theorem Cpu.setCs_sse (c : Cpu) (s : W16) (d : Desc) (l : BitVec 2) : (Cpu.setCs c s d l).sse = c.sse := rfl
@[simp] theorem Cpu.setCs_msr (c : Cpu) (s : W16) (d : Desc) (l : BitVec 2) : (Cpu.setCs c s d l).msr = c.msr := rfl
@[simp] theorem Cpu.setCs_smm (c : Cpu) (s : W16) (d : Desc) (l : BitVec 2) : (Cpu.setCs c s d l).smm = c.smm := rfl
@[simp] theorem Cpu.setCs_hid (c : Cpu) (s : W16) (d : Desc) (l : BitVec 2) : (Cpu.setCs c s d l).hid = c.hid := rfl
@[simp] theorem Cpu.setCs_nextEip (c : Cpu) (s : W16) (d : Desc) (l : BitVec 2) :
    (Cpu.setCs c s d l).nextEip = c.nextEip := rfl
@[simp] theorem Cpu.setCs_notes (c : Cpu) (s : W16) (d : Desc) (l : BitVec 2) :
    (Cpu.setCs c s d l).notes = c.notes := rfl
@[simp] theorem Cpu.setCs_cpl (c : Cpu) (s : W16) (d : Desc) (l : BitVec 2) : (Cpu.setCs c s d l).cpl = l := rfl
@[simp] theorem Cpu.setCs_seg_cs (c : Cpu) (s : W16) (d : Desc) (l : BitVec 2) :
    (Cpu.setCs c s d l).seg.cs = d.reg (s.extractLsb' 2 14 ++ l) := rfl
@[simp] theorem Cpu.setCs_seg_es (c : Cpu) (s : W16) (d : Desc) (l : BitVec 2) :
    (Cpu.setCs c s d l).seg.es = c.seg.es := rfl
@[simp] theorem Cpu.setCs_seg_ss (c : Cpu) (s : W16) (d : Desc) (l : BitVec 2) :
    (Cpu.setCs c s d l).seg.ss = c.seg.ss := rfl
@[simp] theorem Cpu.setCs_seg_ds (c : Cpu) (s : W16) (d : Desc) (l : BitVec 2) :
    (Cpu.setCs c s d l).seg.ds = c.seg.ds := rfl
@[simp] theorem Cpu.setCs_seg_fs (c : Cpu) (s : W16) (d : Desc) (l : BitVec 2) :
    (Cpu.setCs c s d l).seg.fs = c.seg.fs := rfl
@[simp] theorem Cpu.setCs_seg_gs (c : Cpu) (s : W16) (d : Desc) (l : BitVec 2) :
    (Cpu.setCs c s d l).seg.gs = c.seg.gs := rfl

@[simp] theorem Cpu.putSp_eip (c : Cpu) (b : Bool) (v : W32) : (Cpu.putSp c b v).eip = c.eip := rfl
@[simp] theorem Cpu.putSp_fl (c : Cpu) (b : Bool) (v : W32) : (Cpu.putSp c b v).fl = c.fl := rfl
@[simp] theorem Cpu.putSp_seg (c : Cpu) (b : Bool) (v : W32) : (Cpu.putSp c b v).seg = c.seg := rfl
@[simp] theorem Cpu.putSp_cpl (c : Cpu) (b : Bool) (v : W32) : (Cpu.putSp c b v).cpl = c.cpl := rfl
@[simp] theorem Cpu.putSp_gdtr (c : Cpu) (b : Bool) (v : W32) : (Cpu.putSp c b v).gdtr = c.gdtr := rfl
@[simp] theorem Cpu.putSp_idtr (c : Cpu) (b : Bool) (v : W32) : (Cpu.putSp c b v).idtr = c.idtr := rfl
@[simp] theorem Cpu.putSp_ldtr (c : Cpu) (b : Bool) (v : W32) : (Cpu.putSp c b v).ldtr = c.ldtr := rfl
@[simp] theorem Cpu.putSp_tr (c : Cpu) (b : Bool) (v : W32) : (Cpu.putSp c b v).tr = c.tr := rfl
@[simp] theorem Cpu.putSp_ctl (c : Cpu) (b : Bool) (v : W32) : (Cpu.putSp c b v).ctl = c.ctl := rfl
@[simp] theorem Cpu.putSp_dbg (c : Cpu) (b : Bool) (v : W32) : (Cpu.putSp c b v).dbg = c.dbg := rfl
@[simp] theorem Cpu.putSp_fpu (c : Cpu) (b : Bool) (v : W32) : (Cpu.putSp c b v).fpu = c.fpu := rfl
@[simp] theorem Cpu.putSp_sse (c : Cpu) (b : Bool) (v : W32) : (Cpu.putSp c b v).sse = c.sse := rfl
@[simp] theorem Cpu.putSp_msr (c : Cpu) (b : Bool) (v : W32) : (Cpu.putSp c b v).msr = c.msr := rfl
@[simp] theorem Cpu.putSp_smm (c : Cpu) (b : Bool) (v : W32) : (Cpu.putSp c b v).smm = c.smm := rfl
@[simp] theorem Cpu.putSp_hid (c : Cpu) (b : Bool) (v : W32) : (Cpu.putSp c b v).hid = c.hid := rfl
@[simp] theorem Cpu.putSp_nextEip (c : Cpu) (b : Bool) (v : W32) : (Cpu.putSp c b v).nextEip = c.nextEip := rfl
@[simp] theorem Cpu.putSp_notes (c : Cpu) (b : Bool) (v : W32) : (Cpu.putSp c b v).notes = c.notes := rfl

@[simp] theorem Cpu.nullInner_gpr (c : Cpu) (l : BitVec 2) : (Cpu.nullInner c l).gpr = c.gpr := rfl
@[simp] theorem Cpu.nullInner_eip (c : Cpu) (l : BitVec 2) : (Cpu.nullInner c l).eip = c.eip := rfl
@[simp] theorem Cpu.nullInner_fl (c : Cpu) (l : BitVec 2) : (Cpu.nullInner c l).fl = c.fl := rfl
@[simp] theorem Cpu.nullInner_cpl (c : Cpu) (l : BitVec 2) : (Cpu.nullInner c l).cpl = c.cpl := rfl
@[simp] theorem Cpu.nullInner_gdtr (c : Cpu) (l : BitVec 2) : (Cpu.nullInner c l).gdtr = c.gdtr := rfl
@[simp] theorem Cpu.nullInner_idtr (c : Cpu) (l : BitVec 2) : (Cpu.nullInner c l).idtr = c.idtr := rfl
@[simp] theorem Cpu.nullInner_ldtr (c : Cpu) (l : BitVec 2) : (Cpu.nullInner c l).ldtr = c.ldtr := rfl
@[simp] theorem Cpu.nullInner_tr (c : Cpu) (l : BitVec 2) : (Cpu.nullInner c l).tr = c.tr := rfl
@[simp] theorem Cpu.nullInner_ctl (c : Cpu) (l : BitVec 2) : (Cpu.nullInner c l).ctl = c.ctl := rfl
@[simp] theorem Cpu.nullInner_dbg (c : Cpu) (l : BitVec 2) : (Cpu.nullInner c l).dbg = c.dbg := rfl
@[simp] theorem Cpu.nullInner_fpu (c : Cpu) (l : BitVec 2) : (Cpu.nullInner c l).fpu = c.fpu := rfl
@[simp] theorem Cpu.nullInner_sse (c : Cpu) (l : BitVec 2) : (Cpu.nullInner c l).sse = c.sse := rfl
@[simp] theorem Cpu.nullInner_msr (c : Cpu) (l : BitVec 2) : (Cpu.nullInner c l).msr = c.msr := rfl
@[simp] theorem Cpu.nullInner_smm (c : Cpu) (l : BitVec 2) : (Cpu.nullInner c l).smm = c.smm := rfl
@[simp] theorem Cpu.nullInner_hid (c : Cpu) (l : BitVec 2) : (Cpu.nullInner c l).hid = c.hid := rfl
@[simp] theorem Cpu.nullInner_nextEip (c : Cpu) (l : BitVec 2) : (Cpu.nullInner c l).nextEip = c.nextEip := rfl
@[simp] theorem Cpu.nullInner_notes (c : Cpu) (l : BitVec 2) : (Cpu.nullInner c l).notes = c.notes := rfl
@[simp] theorem Cpu.nullInner_seg_cs (c : Cpu) (l : BitVec 2) : (Cpu.nullInner c l).seg.cs = c.seg.cs := rfl
@[simp] theorem Cpu.nullInner_seg_ss (c : Cpu) (l : BitVec 2) : (Cpu.nullInner c l).seg.ss = c.seg.ss := rfl

@[simp] theorem Cpu.nmiEnabled_gpr (c : Cpu) : (Cpu.nmiEnabled c).gpr = c.gpr := rfl
@[simp] theorem Cpu.nmiEnabled_eip (c : Cpu) : (Cpu.nmiEnabled c).eip = c.eip := rfl
@[simp] theorem Cpu.nmiEnabled_fl (c : Cpu) : (Cpu.nmiEnabled c).fl = c.fl := rfl
@[simp] theorem Cpu.nmiEnabled_seg (c : Cpu) : (Cpu.nmiEnabled c).seg = c.seg := rfl
@[simp] theorem Cpu.nmiEnabled_cpl (c : Cpu) : (Cpu.nmiEnabled c).cpl = c.cpl := rfl
@[simp] theorem Cpu.nmiEnabled_gdtr (c : Cpu) : (Cpu.nmiEnabled c).gdtr = c.gdtr := rfl
@[simp] theorem Cpu.nmiEnabled_idtr (c : Cpu) : (Cpu.nmiEnabled c).idtr = c.idtr := rfl
@[simp] theorem Cpu.nmiEnabled_ldtr (c : Cpu) : (Cpu.nmiEnabled c).ldtr = c.ldtr := rfl
@[simp] theorem Cpu.nmiEnabled_tr (c : Cpu) : (Cpu.nmiEnabled c).tr = c.tr := rfl
@[simp] theorem Cpu.nmiEnabled_ctl (c : Cpu) : (Cpu.nmiEnabled c).ctl = c.ctl := rfl
@[simp] theorem Cpu.nmiEnabled_dbg (c : Cpu) : (Cpu.nmiEnabled c).dbg = c.dbg := rfl
@[simp] theorem Cpu.nmiEnabled_fpu (c : Cpu) : (Cpu.nmiEnabled c).fpu = c.fpu := rfl
@[simp] theorem Cpu.nmiEnabled_sse (c : Cpu) : (Cpu.nmiEnabled c).sse = c.sse := rfl
@[simp] theorem Cpu.nmiEnabled_msr (c : Cpu) : (Cpu.nmiEnabled c).msr = c.msr := rfl
@[simp] theorem Cpu.nmiEnabled_nextEip (c : Cpu) : (Cpu.nmiEnabled c).nextEip = c.nextEip := rfl
@[simp] theorem Cpu.nmiEnabled_notes (c : Cpu) : (Cpu.nmiEnabled c).notes = c.notes := rfl
@[simp] theorem Cpu.nmiEnabled_hid_nmiBlocked (c : Cpu) : (Cpu.nmiEnabled c).hid.nmiBlocked = false := rfl
@[simp] theorem Cpu.nmiEnabled_hid_run (c : Cpu) : (Cpu.nmiEnabled c).hid.run = c.hid.run := rfl
@[simp] theorem Cpu.nmiEnabled_hid_ssShadow (c : Cpu) : (Cpu.nmiEnabled c).hid.ssShadow = c.hid.ssShadow := rfl
@[simp] theorem Cpu.nmiEnabled_hid_stiShadow (c : Cpu) : (Cpu.nmiEnabled c).hid.stiShadow = c.hid.stiShadow := rfl
@[simp] theorem Cpu.nmiEnabled_hid_pendingDb (c : Cpu) : (Cpu.nmiEnabled c).hid.pendingDb = c.hid.pendingDb := rfl
@[simp] theorem Cpu.nmiEnabled_smm_nmiBlockedBySmm (c : Cpu) : (Cpu.nmiEnabled c).smm.nmiBlockedBySmm = false := rfl

@[simp] theorem Cpu.beforeDelivery_gpr (c : Cpu) (e : Exc) : (Cpu.beforeDelivery c e).gpr = c.gpr := rfl
@[simp] theorem Cpu.beforeDelivery_eip (c : Cpu) (e : Exc) : (Cpu.beforeDelivery c e).eip = c.eip := rfl
@[simp] theorem Cpu.beforeDelivery_fl (c : Cpu) (e : Exc) : (Cpu.beforeDelivery c e).fl = c.fl := rfl
@[simp] theorem Cpu.beforeDelivery_seg (c : Cpu) (e : Exc) : (Cpu.beforeDelivery c e).seg = c.seg := rfl
@[simp] theorem Cpu.beforeDelivery_cpl (c : Cpu) (e : Exc) : (Cpu.beforeDelivery c e).cpl = c.cpl := rfl
@[simp] theorem Cpu.beforeDelivery_gdtr (c : Cpu) (e : Exc) : (Cpu.beforeDelivery c e).gdtr = c.gdtr := rfl
@[simp] theorem Cpu.beforeDelivery_idtr (c : Cpu) (e : Exc) : (Cpu.beforeDelivery c e).idtr = c.idtr := rfl
@[simp] theorem Cpu.beforeDelivery_ldtr (c : Cpu) (e : Exc) : (Cpu.beforeDelivery c e).ldtr = c.ldtr := rfl
@[simp] theorem Cpu.beforeDelivery_tr (c : Cpu) (e : Exc) : (Cpu.beforeDelivery c e).tr = c.tr := rfl
@[simp] theorem Cpu.beforeDelivery_fpu (c : Cpu) (e : Exc) : (Cpu.beforeDelivery c e).fpu = c.fpu := rfl
@[simp] theorem Cpu.beforeDelivery_sse (c : Cpu) (e : Exc) : (Cpu.beforeDelivery c e).sse = c.sse := rfl
@[simp] theorem Cpu.beforeDelivery_msr (c : Cpu) (e : Exc) : (Cpu.beforeDelivery c e).msr = c.msr := rfl
@[simp] theorem Cpu.beforeDelivery_smm (c : Cpu) (e : Exc) : (Cpu.beforeDelivery c e).smm = c.smm := rfl
@[simp] theorem Cpu.beforeDelivery_hid (c : Cpu) (e : Exc) : (Cpu.beforeDelivery c e).hid = c.hid := rfl
@[simp] theorem Cpu.beforeDelivery_nextEip (c : Cpu) (e : Exc) : (Cpu.beforeDelivery c e).nextEip = c.nextEip := rfl
@[simp] theorem Cpu.beforeDelivery_notes (c : Cpu) (e : Exc) : (Cpu.beforeDelivery c e).notes = c.notes := rfl
@[simp] theorem Cpu.beforeDelivery_ctl_cr0 (c : Cpu) (e : Exc) : (Cpu.beforeDelivery c e).ctl.cr0 = c.ctl.cr0 := rfl
@[simp] theorem Cpu.beforeDelivery_ctl_cr2 (c : Cpu) (e : Exc) :
    (Cpu.beforeDelivery c e).ctl.cr2 = e.cr2.getD c.ctl.cr2 := rfl
@[simp] theorem Cpu.beforeDelivery_ctl_cr3 (c : Cpu) (e : Exc) : (Cpu.beforeDelivery c e).ctl.cr3 = c.ctl.cr3 := rfl
@[simp] theorem Cpu.beforeDelivery_ctl_cr4 (c : Cpu) (e : Exc) : (Cpu.beforeDelivery c e).ctl.cr4 = c.ctl.cr4 := rfl
@[simp] theorem Cpu.beforeDelivery_dbg_dr6 (c : Cpu) (e : Exc) :
    (Cpu.beforeDelivery c e).dbg.dr6 = c.dbg.dr6 ||| e.dr6 := rfl
@[simp] theorem Cpu.beforeDelivery_dbg_dr7 (c : Cpu) (e : Exc) : (Cpu.beforeDelivery c e).dbg.dr7 = c.dbg.dr7 := rfl

@[simp] theorem Cpu.clearNotes_gpr (c : Cpu) : (Cpu.clearNotes c).gpr = c.gpr := rfl
@[simp] theorem Cpu.clearNotes_eip (c : Cpu) : (Cpu.clearNotes c).eip = c.eip := rfl
@[simp] theorem Cpu.clearNotes_fl (c : Cpu) : (Cpu.clearNotes c).fl = c.fl := rfl
@[simp] theorem Cpu.clearNotes_seg (c : Cpu) : (Cpu.clearNotes c).seg = c.seg := rfl
@[simp] theorem Cpu.clearNotes_cpl (c : Cpu) : (Cpu.clearNotes c).cpl = c.cpl := rfl
@[simp] theorem Cpu.clearNotes_gdtr (c : Cpu) : (Cpu.clearNotes c).gdtr = c.gdtr := rfl
@[simp] theorem Cpu.clearNotes_idtr (c : Cpu) : (Cpu.clearNotes c).idtr = c.idtr := rfl
@[simp] theorem Cpu.clearNotes_ldtr (c : Cpu) : (Cpu.clearNotes c).ldtr = c.ldtr := rfl
@[simp] theorem Cpu.clearNotes_tr (c : Cpu) : (Cpu.clearNotes c).tr = c.tr := rfl
@[simp] theorem Cpu.clearNotes_ctl (c : Cpu) : (Cpu.clearNotes c).ctl = c.ctl := rfl
@[simp] theorem Cpu.clearNotes_dbg (c : Cpu) : (Cpu.clearNotes c).dbg = c.dbg := rfl
@[simp] theorem Cpu.clearNotes_fpu (c : Cpu) : (Cpu.clearNotes c).fpu = c.fpu := rfl
@[simp] theorem Cpu.clearNotes_sse (c : Cpu) : (Cpu.clearNotes c).sse = c.sse := rfl
@[simp] theorem Cpu.clearNotes_msr (c : Cpu) : (Cpu.clearNotes c).msr = c.msr := rfl
@[simp] theorem Cpu.clearNotes_smm (c : Cpu) : (Cpu.clearNotes c).smm = c.smm := rfl
@[simp] theorem Cpu.clearNotes_hid (c : Cpu) : (Cpu.clearNotes c).hid = c.hid := rfl
@[simp] theorem Cpu.clearNotes_nextEip (c : Cpu) : (Cpu.clearNotes c).nextEip = c.nextEip := rfl

@[simp] theorem Cpu.shadowSs_gpr (c : Cpu) : (Cpu.shadowSs c).gpr = c.gpr := by unfold Cpu.shadowSs; split <;> rfl
@[simp] theorem Cpu.shadowSs_eip (c : Cpu) : (Cpu.shadowSs c).eip = c.eip := by unfold Cpu.shadowSs; split <;> rfl
@[simp] theorem Cpu.shadowSs_fl (c : Cpu) : (Cpu.shadowSs c).fl = c.fl := by unfold Cpu.shadowSs; split <;> rfl
@[simp] theorem Cpu.shadowSs_seg (c : Cpu) : (Cpu.shadowSs c).seg = c.seg := by unfold Cpu.shadowSs; split <;> rfl
@[simp] theorem Cpu.shadowSs_cpl (c : Cpu) : (Cpu.shadowSs c).cpl = c.cpl := by unfold Cpu.shadowSs; split <;> rfl
@[simp] theorem Cpu.shadowSs_gdtr (c : Cpu) : (Cpu.shadowSs c).gdtr = c.gdtr := by unfold Cpu.shadowSs; split <;> rfl
@[simp] theorem Cpu.shadowSs_idtr (c : Cpu) : (Cpu.shadowSs c).idtr = c.idtr := by unfold Cpu.shadowSs; split <;> rfl
@[simp] theorem Cpu.shadowSs_ldtr (c : Cpu) : (Cpu.shadowSs c).ldtr = c.ldtr := by unfold Cpu.shadowSs; split <;> rfl
@[simp] theorem Cpu.shadowSs_tr (c : Cpu) : (Cpu.shadowSs c).tr = c.tr := by unfold Cpu.shadowSs; split <;> rfl
@[simp] theorem Cpu.shadowSs_ctl (c : Cpu) : (Cpu.shadowSs c).ctl = c.ctl := by unfold Cpu.shadowSs; split <;> rfl
@[simp] theorem Cpu.shadowSs_dbg (c : Cpu) : (Cpu.shadowSs c).dbg = c.dbg := by unfold Cpu.shadowSs; split <;> rfl
@[simp] theorem Cpu.shadowSs_fpu (c : Cpu) : (Cpu.shadowSs c).fpu = c.fpu := by unfold Cpu.shadowSs; split <;> rfl
@[simp] theorem Cpu.shadowSs_sse (c : Cpu) : (Cpu.shadowSs c).sse = c.sse := by unfold Cpu.shadowSs; split <;> rfl
@[simp] theorem Cpu.shadowSs_msr (c : Cpu) : (Cpu.shadowSs c).msr = c.msr := by unfold Cpu.shadowSs; split <;> rfl
@[simp] theorem Cpu.shadowSs_smm (c : Cpu) : (Cpu.shadowSs c).smm = c.smm := by unfold Cpu.shadowSs; split <;> rfl
@[simp] theorem Cpu.shadowSs_nextEip (c : Cpu) :
    (Cpu.shadowSs c).nextEip = c.nextEip := by unfold Cpu.shadowSs; split <;> rfl

@[simp] theorem Cpu.setIf_gpr (c : Cpu) : (Cpu.setIf c).gpr = c.gpr := by unfold Cpu.setIf; split <;> rfl
@[simp] theorem Cpu.setIf_eip (c : Cpu) : (Cpu.setIf c).eip = c.eip := by unfold Cpu.setIf; split <;> rfl
@[simp] theorem Cpu.setIf_seg (c : Cpu) : (Cpu.setIf c).seg = c.seg := by unfold Cpu.setIf; split <;> rfl
@[simp] theorem Cpu.setIf_cpl (c : Cpu) : (Cpu.setIf c).cpl = c.cpl := by unfold Cpu.setIf; split <;> rfl
@[simp] theorem Cpu.setIf_gdtr (c : Cpu) : (Cpu.setIf c).gdtr = c.gdtr := by unfold Cpu.setIf; split <;> rfl
@[simp] theorem Cpu.setIf_idtr (c : Cpu) : (Cpu.setIf c).idtr = c.idtr := by unfold Cpu.setIf; split <;> rfl
@[simp] theorem Cpu.setIf_ldtr (c : Cpu) : (Cpu.setIf c).ldtr = c.ldtr := by unfold Cpu.setIf; split <;> rfl
@[simp] theorem Cpu.setIf_tr (c : Cpu) : (Cpu.setIf c).tr = c.tr := by unfold Cpu.setIf; split <;> rfl
@[simp] theorem Cpu.setIf_ctl (c : Cpu) : (Cpu.setIf c).ctl = c.ctl := by unfold Cpu.setIf; split <;> rfl
@[simp] theorem Cpu.setIf_dbg (c : Cpu) : (Cpu.setIf c).dbg = c.dbg := by unfold Cpu.setIf; split <;> rfl
@[simp] theorem Cpu.setIf_fpu (c : Cpu) : (Cpu.setIf c).fpu = c.fpu := by unfold Cpu.setIf; split <;> rfl
@[simp] theorem Cpu.setIf_sse (c : Cpu) : (Cpu.setIf c).sse = c.sse := by unfold Cpu.setIf; split <;> rfl
@[simp] theorem Cpu.setIf_msr (c : Cpu) : (Cpu.setIf c).msr = c.msr := by unfold Cpu.setIf; split <;> rfl
@[simp] theorem Cpu.setIf_smm (c : Cpu) : (Cpu.setIf c).smm = c.smm := by unfold Cpu.setIf; split <;> rfl
@[simp] theorem Cpu.setIf_nextEip (c : Cpu) : (Cpu.setIf c).nextEip = c.nextEip := by unfold Cpu.setIf; split <;> rfl

@[simp] theorem Cpu.recordBranch_gpr (c : Cpu) (x y : W32) :
    (Cpu.recordBranch c x y).gpr = c.gpr := by unfold Cpu.recordBranch; split <;> rfl
@[simp] theorem Cpu.recordBranch_eip (c : Cpu) (x y : W32) :
    (Cpu.recordBranch c x y).eip = c.eip := by unfold Cpu.recordBranch; split <;> rfl
@[simp] theorem Cpu.recordBranch_fl (c : Cpu) (x y : W32) :
    (Cpu.recordBranch c x y).fl = c.fl := by unfold Cpu.recordBranch; split <;> rfl
@[simp] theorem Cpu.recordBranch_seg (c : Cpu) (x y : W32) :
    (Cpu.recordBranch c x y).seg = c.seg := by unfold Cpu.recordBranch; split <;> rfl
@[simp] theorem Cpu.recordBranch_cpl (c : Cpu) (x y : W32) :
    (Cpu.recordBranch c x y).cpl = c.cpl := by unfold Cpu.recordBranch; split <;> rfl
@[simp] theorem Cpu.recordBranch_gdtr (c : Cpu) (x y : W32) :
    (Cpu.recordBranch c x y).gdtr = c.gdtr := by unfold Cpu.recordBranch; split <;> rfl
@[simp] theorem Cpu.recordBranch_idtr (c : Cpu) (x y : W32) :
    (Cpu.recordBranch c x y).idtr = c.idtr := by unfold Cpu.recordBranch; split <;> rfl
@[simp] theorem Cpu.recordBranch_ldtr (c : Cpu) (x y : W32) :
    (Cpu.recordBranch c x y).ldtr = c.ldtr := by unfold Cpu.recordBranch; split <;> rfl
@[simp] theorem Cpu.recordBranch_tr (c : Cpu) (x y : W32) :
    (Cpu.recordBranch c x y).tr = c.tr := by unfold Cpu.recordBranch; split <;> rfl
@[simp] theorem Cpu.recordBranch_ctl (c : Cpu) (x y : W32) :
    (Cpu.recordBranch c x y).ctl = c.ctl := by unfold Cpu.recordBranch; split <;> rfl
@[simp] theorem Cpu.recordBranch_dbg (c : Cpu) (x y : W32) :
    (Cpu.recordBranch c x y).dbg = c.dbg := by unfold Cpu.recordBranch; split <;> rfl
@[simp] theorem Cpu.recordBranch_fpu (c : Cpu) (x y : W32) :
    (Cpu.recordBranch c x y).fpu = c.fpu := by unfold Cpu.recordBranch; split <;> rfl
@[simp] theorem Cpu.recordBranch_sse (c : Cpu) (x y : W32) :
    (Cpu.recordBranch c x y).sse = c.sse := by unfold Cpu.recordBranch; split <;> rfl
@[simp] theorem Cpu.recordBranch_smm (c : Cpu) (x y : W32) :
    (Cpu.recordBranch c x y).smm = c.smm := by unfold Cpu.recordBranch; split <;> rfl
@[simp] theorem Cpu.recordBranch_hid (c : Cpu) (x y : W32) :
    (Cpu.recordBranch c x y).hid = c.hid := by unfold Cpu.recordBranch; split <;> rfl
@[simp] theorem Cpu.recordBranch_nextEip (c : Cpu) (x y : W32) :
    (Cpu.recordBranch c x y).nextEip = c.nextEip := by unfold Cpu.recordBranch; split <;> rfl
@[simp] theorem Cpu.recordBranch_notes (c : Cpu) (x y : W32) :
    (Cpu.recordBranch c x y).notes = c.notes := by unfold Cpu.recordBranch; split <;> rfl

@[simp] theorem Cpu.recordException_gpr (c : Cpu) (x y : W32) :
    (Cpu.recordException c x y).gpr = c.gpr := by unfold Cpu.recordException; split <;> rfl
@[simp] theorem Cpu.recordException_eip (c : Cpu) (x y : W32) :
    (Cpu.recordException c x y).eip = c.eip := by unfold Cpu.recordException; split <;> rfl
@[simp] theorem Cpu.recordException_fl (c : Cpu) (x y : W32) :
    (Cpu.recordException c x y).fl = c.fl := by unfold Cpu.recordException; split <;> rfl
@[simp] theorem Cpu.recordException_seg (c : Cpu) (x y : W32) :
    (Cpu.recordException c x y).seg = c.seg := by unfold Cpu.recordException; split <;> rfl
@[simp] theorem Cpu.recordException_cpl (c : Cpu) (x y : W32) :
    (Cpu.recordException c x y).cpl = c.cpl := by unfold Cpu.recordException; split <;> rfl
@[simp] theorem Cpu.recordException_gdtr (c : Cpu) (x y : W32) :
    (Cpu.recordException c x y).gdtr = c.gdtr := by unfold Cpu.recordException; split <;> rfl
@[simp] theorem Cpu.recordException_idtr (c : Cpu) (x y : W32) :
    (Cpu.recordException c x y).idtr = c.idtr := by unfold Cpu.recordException; split <;> rfl
@[simp] theorem Cpu.recordException_ldtr (c : Cpu) (x y : W32) :
    (Cpu.recordException c x y).ldtr = c.ldtr := by unfold Cpu.recordException; split <;> rfl
@[simp] theorem Cpu.recordException_tr (c : Cpu) (x y : W32) :
    (Cpu.recordException c x y).tr = c.tr := by unfold Cpu.recordException; split <;> rfl
@[simp] theorem Cpu.recordException_ctl (c : Cpu) (x y : W32) :
    (Cpu.recordException c x y).ctl = c.ctl := by unfold Cpu.recordException; split <;> rfl
@[simp] theorem Cpu.recordException_dbg (c : Cpu) (x y : W32) :
    (Cpu.recordException c x y).dbg = c.dbg := by unfold Cpu.recordException; split <;> rfl
@[simp] theorem Cpu.recordException_fpu (c : Cpu) (x y : W32) :
    (Cpu.recordException c x y).fpu = c.fpu := by unfold Cpu.recordException; split <;> rfl
@[simp] theorem Cpu.recordException_sse (c : Cpu) (x y : W32) :
    (Cpu.recordException c x y).sse = c.sse := by unfold Cpu.recordException; split <;> rfl
@[simp] theorem Cpu.recordException_smm (c : Cpu) (x y : W32) :
    (Cpu.recordException c x y).smm = c.smm := by unfold Cpu.recordException; split <;> rfl
@[simp] theorem Cpu.recordException_hid (c : Cpu) (x y : W32) :
    (Cpu.recordException c x y).hid = c.hid := by unfold Cpu.recordException; split <;> rfl
@[simp] theorem Cpu.recordException_nextEip (c : Cpu) (x y : W32) :
    (Cpu.recordException c x y).nextEip = c.nextEip := by unfold Cpu.recordException; split <;> rfl
@[simp] theorem Cpu.recordException_notes (c : Cpu) (x y : W32) :
    (Cpu.recordException c x y).notes = c.notes := by unfold Cpu.recordException; split <;> rfl

@[simp] theorem Cpu.noteBranch_gpr (c : Cpu) :
    (Cpu.noteBranch c).gpr = c.gpr := by unfold Cpu.noteBranch; split <;> simp
@[simp] theorem Cpu.noteBranch_eip (c : Cpu) :
    (Cpu.noteBranch c).eip = c.eip := by unfold Cpu.noteBranch; split <;> simp
@[simp] theorem Cpu.noteBranch_fl (c : Cpu) : (Cpu.noteBranch c).fl = c.fl := by unfold Cpu.noteBranch; split <;> simp
@[simp] theorem Cpu.noteBranch_seg (c : Cpu) :
    (Cpu.noteBranch c).seg = c.seg := by unfold Cpu.noteBranch; split <;> simp
@[simp] theorem Cpu.noteBranch_cpl (c : Cpu) :
    (Cpu.noteBranch c).cpl = c.cpl := by unfold Cpu.noteBranch; split <;> simp
@[simp] theorem Cpu.noteBranch_gdtr (c : Cpu) :
    (Cpu.noteBranch c).gdtr = c.gdtr := by unfold Cpu.noteBranch; split <;> simp
@[simp] theorem Cpu.noteBranch_idtr (c : Cpu) :
    (Cpu.noteBranch c).idtr = c.idtr := by unfold Cpu.noteBranch; split <;> simp
@[simp] theorem Cpu.noteBranch_ldtr (c : Cpu) :
    (Cpu.noteBranch c).ldtr = c.ldtr := by unfold Cpu.noteBranch; split <;> simp
@[simp] theorem Cpu.noteBranch_tr (c : Cpu) : (Cpu.noteBranch c).tr = c.tr := by unfold Cpu.noteBranch; split <;> simp
@[simp] theorem Cpu.noteBranch_ctl (c : Cpu) :
    (Cpu.noteBranch c).ctl = c.ctl := by unfold Cpu.noteBranch; split <;> simp
@[simp] theorem Cpu.noteBranch_dbg (c : Cpu) :
    (Cpu.noteBranch c).dbg = c.dbg := by unfold Cpu.noteBranch; split <;> simp
@[simp] theorem Cpu.noteBranch_fpu (c : Cpu) :
    (Cpu.noteBranch c).fpu = c.fpu := by unfold Cpu.noteBranch; split <;> simp
@[simp] theorem Cpu.noteBranch_sse (c : Cpu) :
    (Cpu.noteBranch c).sse = c.sse := by unfold Cpu.noteBranch; split <;> simp
@[simp] theorem Cpu.noteBranch_smm (c : Cpu) :
    (Cpu.noteBranch c).smm = c.smm := by unfold Cpu.noteBranch; split <;> simp
@[simp] theorem Cpu.noteBranch_hid (c : Cpu) :
    (Cpu.noteBranch c).hid = c.hid := by unfold Cpu.noteBranch; split <;> simp
@[simp] theorem Cpu.noteBranch_nextEip (c : Cpu) :
    (Cpu.noteBranch c).nextEip = c.nextEip := by unfold Cpu.noteBranch; split <;> simp

@[simp] theorem Cpu.dropShadows_gpr (c : Cpu) :
    (Cpu.dropShadows c).gpr = c.gpr := by unfold Cpu.dropShadows; split <;> rfl
@[simp] theorem Cpu.dropShadows_eip (c : Cpu) :
    (Cpu.dropShadows c).eip = c.eip := by unfold Cpu.dropShadows; split <;> rfl
@[simp] theorem Cpu.dropShadows_fl (c : Cpu) :
    (Cpu.dropShadows c).fl = c.fl := by unfold Cpu.dropShadows; split <;> rfl
@[simp] theorem Cpu.dropShadows_seg (c : Cpu) :
    (Cpu.dropShadows c).seg = c.seg := by unfold Cpu.dropShadows; split <;> rfl
@[simp] theorem Cpu.dropShadows_cpl (c : Cpu) :
    (Cpu.dropShadows c).cpl = c.cpl := by unfold Cpu.dropShadows; split <;> rfl
@[simp] theorem Cpu.dropShadows_gdtr (c : Cpu) :
    (Cpu.dropShadows c).gdtr = c.gdtr := by unfold Cpu.dropShadows; split <;> rfl
@[simp] theorem Cpu.dropShadows_idtr (c : Cpu) :
    (Cpu.dropShadows c).idtr = c.idtr := by unfold Cpu.dropShadows; split <;> rfl
@[simp] theorem Cpu.dropShadows_ldtr (c : Cpu) :
    (Cpu.dropShadows c).ldtr = c.ldtr := by unfold Cpu.dropShadows; split <;> rfl
@[simp] theorem Cpu.dropShadows_tr (c : Cpu) :
    (Cpu.dropShadows c).tr = c.tr := by unfold Cpu.dropShadows; split <;> rfl
@[simp] theorem Cpu.dropShadows_ctl (c : Cpu) :
    (Cpu.dropShadows c).ctl = c.ctl := by unfold Cpu.dropShadows; split <;> rfl
@[simp] theorem Cpu.dropShadows_dbg (c : Cpu) :
    (Cpu.dropShadows c).dbg = c.dbg := by unfold Cpu.dropShadows; split <;> rfl
@[simp] theorem Cpu.dropShadows_fpu (c : Cpu) :
    (Cpu.dropShadows c).fpu = c.fpu := by unfold Cpu.dropShadows; split <;> rfl
@[simp] theorem Cpu.dropShadows_sse (c : Cpu) :
    (Cpu.dropShadows c).sse = c.sse := by unfold Cpu.dropShadows; split <;> rfl
@[simp] theorem Cpu.dropShadows_msr (c : Cpu) :
    (Cpu.dropShadows c).msr = c.msr := by unfold Cpu.dropShadows; split <;> rfl
@[simp] theorem Cpu.dropShadows_smm (c : Cpu) :
    (Cpu.dropShadows c).smm = c.smm := by unfold Cpu.dropShadows; split <;> rfl
@[simp] theorem Cpu.dropShadows_nextEip (c : Cpu) :
    (Cpu.dropShadows c).nextEip = c.nextEip := by unfold Cpu.dropShadows; split <;> rfl
@[simp] theorem Cpu.dropShadows_notes (c : Cpu) :
    (Cpu.dropShadows c).notes = c.notes := by unfold Cpu.dropShadows; split <;> rfl

@[simp] theorem Cpu.cpuidSignature_gpr (c : Cpu) :
    (Cpu.cpuidSignature c).gpr = c.gpr := by unfold Cpu.cpuidSignature; split <;> rfl
@[simp] theorem Cpu.cpuidSignature_eip (c : Cpu) :
    (Cpu.cpuidSignature c).eip = c.eip := by unfold Cpu.cpuidSignature; split <;> rfl
@[simp] theorem Cpu.cpuidSignature_fl (c : Cpu) :
    (Cpu.cpuidSignature c).fl = c.fl := by unfold Cpu.cpuidSignature; split <;> rfl
@[simp] theorem Cpu.cpuidSignature_seg (c : Cpu) :
    (Cpu.cpuidSignature c).seg = c.seg := by unfold Cpu.cpuidSignature; split <;> rfl
@[simp] theorem Cpu.cpuidSignature_cpl (c : Cpu) :
    (Cpu.cpuidSignature c).cpl = c.cpl := by unfold Cpu.cpuidSignature; split <;> rfl
@[simp] theorem Cpu.cpuidSignature_gdtr (c : Cpu) :
    (Cpu.cpuidSignature c).gdtr = c.gdtr := by unfold Cpu.cpuidSignature; split <;> rfl
@[simp] theorem Cpu.cpuidSignature_idtr (c : Cpu) :
    (Cpu.cpuidSignature c).idtr = c.idtr := by unfold Cpu.cpuidSignature; split <;> rfl
@[simp] theorem Cpu.cpuidSignature_ldtr (c : Cpu) :
    (Cpu.cpuidSignature c).ldtr = c.ldtr := by unfold Cpu.cpuidSignature; split <;> rfl
@[simp] theorem Cpu.cpuidSignature_tr (c : Cpu) :
    (Cpu.cpuidSignature c).tr = c.tr := by unfold Cpu.cpuidSignature; split <;> rfl
@[simp] theorem Cpu.cpuidSignature_ctl (c : Cpu) :
    (Cpu.cpuidSignature c).ctl = c.ctl := by unfold Cpu.cpuidSignature; split <;> rfl
@[simp] theorem Cpu.cpuidSignature_dbg (c : Cpu) :
    (Cpu.cpuidSignature c).dbg = c.dbg := by unfold Cpu.cpuidSignature; split <;> rfl
@[simp] theorem Cpu.cpuidSignature_fpu (c : Cpu) :
    (Cpu.cpuidSignature c).fpu = c.fpu := by unfold Cpu.cpuidSignature; split <;> rfl
@[simp] theorem Cpu.cpuidSignature_sse (c : Cpu) :
    (Cpu.cpuidSignature c).sse = c.sse := by unfold Cpu.cpuidSignature; split <;> rfl
@[simp] theorem Cpu.cpuidSignature_smm (c : Cpu) :
    (Cpu.cpuidSignature c).smm = c.smm := by unfold Cpu.cpuidSignature; split <;> rfl
@[simp] theorem Cpu.cpuidSignature_hid (c : Cpu) :
    (Cpu.cpuidSignature c).hid = c.hid := by unfold Cpu.cpuidSignature; split <;> rfl
@[simp] theorem Cpu.cpuidSignature_nextEip (c : Cpu) :
    (Cpu.cpuidSignature c).nextEip = c.nextEip := by unfold Cpu.cpuidSignature; split <;> rfl
@[simp] theorem Cpu.cpuidSignature_notes (c : Cpu) :
    (Cpu.cpuidSignature c).notes = c.notes := by unfold Cpu.cpuidSignature; split <;> rfl

@[simp] theorem Cpu.afterDelivery_gpr (c : Cpu) (d : Delivery) :
    (Cpu.afterDelivery c d).gpr = c.gpr := by unfold Cpu.afterDelivery; dsimp only; split <;> simp
@[simp] theorem Cpu.afterDelivery_eip (c : Cpu) (d : Delivery) :
    (Cpu.afterDelivery c d).eip = c.eip := by unfold Cpu.afterDelivery; dsimp only; split <;> simp
@[simp] theorem Cpu.afterDelivery_fl (c : Cpu) (d : Delivery) :
    (Cpu.afterDelivery c d).fl = c.fl := by unfold Cpu.afterDelivery; dsimp only; split <;> simp
@[simp] theorem Cpu.afterDelivery_seg (c : Cpu) (d : Delivery) :
    (Cpu.afterDelivery c d).seg = c.seg := by unfold Cpu.afterDelivery; dsimp only; split <;> simp
@[simp] theorem Cpu.afterDelivery_cpl (c : Cpu) (d : Delivery) :
    (Cpu.afterDelivery c d).cpl = c.cpl := by unfold Cpu.afterDelivery; dsimp only; split <;> simp
@[simp] theorem Cpu.afterDelivery_gdtr (c : Cpu) (d : Delivery) :
    (Cpu.afterDelivery c d).gdtr = c.gdtr := by unfold Cpu.afterDelivery; dsimp only; split <;> simp
@[simp] theorem Cpu.afterDelivery_idtr (c : Cpu) (d : Delivery) :
    (Cpu.afterDelivery c d).idtr = c.idtr := by unfold Cpu.afterDelivery; dsimp only; split <;> simp
@[simp] theorem Cpu.afterDelivery_ldtr (c : Cpu) (d : Delivery) :
    (Cpu.afterDelivery c d).ldtr = c.ldtr := by unfold Cpu.afterDelivery; dsimp only; split <;> simp
@[simp] theorem Cpu.afterDelivery_tr (c : Cpu) (d : Delivery) :
    (Cpu.afterDelivery c d).tr = c.tr := by unfold Cpu.afterDelivery; dsimp only; split <;> simp
@[simp] theorem Cpu.afterDelivery_ctl (c : Cpu) (d : Delivery) :
    (Cpu.afterDelivery c d).ctl = c.ctl := by unfold Cpu.afterDelivery; dsimp only; split <;> simp
@[simp] theorem Cpu.afterDelivery_fpu (c : Cpu) (d : Delivery) :
    (Cpu.afterDelivery c d).fpu = c.fpu := by unfold Cpu.afterDelivery; dsimp only; split <;> simp
@[simp] theorem Cpu.afterDelivery_sse (c : Cpu) (d : Delivery) :
    (Cpu.afterDelivery c d).sse = c.sse := by unfold Cpu.afterDelivery; dsimp only; split <;> simp
@[simp] theorem Cpu.afterDelivery_smm (c : Cpu) (d : Delivery) :
    (Cpu.afterDelivery c d).smm = c.smm := by unfold Cpu.afterDelivery; dsimp only; split <;> simp
@[simp] theorem Cpu.afterDelivery_nextEip (c : Cpu) (d : Delivery) :
    (Cpu.afterDelivery c d).nextEip = c.nextEip := by unfold Cpu.afterDelivery; dsimp only; split <;> simp

/-! Segment registers. -/

theorem SegRegs.get_set_same (r : SegRegs) (x : Seg) (v : SegReg) : (r.set x v).get x = v := by cases x <;> rfl

theorem SegRegs.get_set_other (r : SegRegs) {x y : Seg} (v : SegReg) (h : y ≠ x) : (r.set x v).get y = r.get y := by
  cases x <;> cases y <;> first | rfl | exact absurd rfl h

@[simp] theorem SegReg.nulled_base (r : SegReg) (s : W16) : (r.nulled s).base = r.base := rfl
@[simp] theorem SegReg.nulled_limit (r : SegReg) (s : W16) : (r.nulled s).limit = r.limit := rfl
@[simp] theorem SegReg.nulled_typ (r : SegReg) (s : W16) : (r.nulled s).typ = r.typ := rfl
@[simp] theorem SegReg.nulled_s (r : SegReg) (s : W16) : (r.nulled s).s = r.s := rfl
@[simp] theorem SegReg.nulled_dpl (r : SegReg) (s : W16) : (r.nulled s).dpl = r.dpl := rfl
@[simp] theorem SegReg.nulled_p (r : SegReg) (s : W16) : (r.nulled s).p = r.p := rfl
@[simp] theorem SegReg.nulled_avl (r : SegReg) (s : W16) : (r.nulled s).avl = r.avl := rfl
@[simp] theorem SegReg.nulled_db (r : SegReg) (s : W16) : (r.nulled s).db = r.db := rfl
@[simp] theorem SegReg.nulled_g (r : SegReg) (s : W16) : (r.nulled s).g = r.g := rfl
@[simp] theorem SegReg.nulled_sel (r : SegReg) (s : W16) : (r.nulled s).sel = s := rfl
@[simp] theorem SegReg.nulled_unusable (r : SegReg) (s : W16) : (r.nulled s).unusable = true := rfl
@[simp] theorem SegReg.paragraph_limit (r : SegReg) (s : W16) : (r.paragraph s).limit = r.limit := rfl
@[simp] theorem SegReg.paragraph_typ (r : SegReg) (s : W16) : (r.paragraph s).typ = r.typ := rfl
@[simp] theorem SegReg.paragraph_s (r : SegReg) (s : W16) : (r.paragraph s).s = r.s := rfl
@[simp] theorem SegReg.paragraph_dpl (r : SegReg) (s : W16) : (r.paragraph s).dpl = r.dpl := rfl
@[simp] theorem SegReg.paragraph_p (r : SegReg) (s : W16) : (r.paragraph s).p = r.p := rfl
@[simp] theorem SegReg.paragraph_avl (r : SegReg) (s : W16) : (r.paragraph s).avl = r.avl := rfl
@[simp] theorem SegReg.paragraph_db (r : SegReg) (s : W16) : (r.paragraph s).db = r.db := rfl
@[simp] theorem SegReg.paragraph_g (r : SegReg) (s : W16) : (r.paragraph s).g = r.g := rfl
@[simp] theorem SegReg.paragraph_sel (r : SegReg) (s : W16) : (r.paragraph s).sel = s := rfl
@[simp] theorem SegReg.paragraph_base (r : SegReg) (s : W16) : (r.paragraph s).base = s.setWidth 32 <<< 4 := rfl
@[simp] theorem SegReg.paragraph_unusable (r : SegReg) (s : W16) : (r.paragraph s).unusable = false := rfl

/-! General registers. -/

theorem Gprs.get_set_same (g : Gprs) (r : Gpr) (v : W32) : (g.set r v).get r = v := by cases r <;> rfl

theorem Gprs.get_set_other (g : Gprs) {r q : Gpr} (v : W32) (h : q ≠ r) : (g.set r v).get q = g.get q := by
  cases r <;> cases q <;> first | rfl | exact absurd rfl h

theorem Gprs.getV_setV_same (g : Gprs) (z : OpSize) (r : Gpr) (v : BitVec z.bits) : (g.setV z r v).getV z r = v := by
  cases z with
  | w16 =>
    show ((g.set r _).get r).extractLsb' 0 16 = v
    rw [Gprs.get_set_same]
    ext i hi
    simp only [BitVec.getElem_extractLsb', BitVec.getLsbD_append, Nat.zero_add]
    simp [show i < 16 from hi]
  | w32 => exact Gprs.get_set_same g r v

theorem Gprs.get_setV_other (g : Gprs) (z : OpSize) {r q : Gpr} (v : BitVec z.bits) (h : q ≠ r) :
    (g.setV z r v).get q = g.get q := by
  cases z <;> exact Gprs.get_set_other _ _ h

theorem Gprs.get_set8_other (g : Gprs) {r : Gpr8} {q : Gpr} (v : Byte) (h : q ≠ r.home.1) :
    (g.set8 r v).get q = g.get q := Gprs.get_set_other _ _ h

theorem Gprs.get8_set8_same (g : Gprs) (r : Gpr8) (v : Byte) : (g.set8 r v).get8 r = v := by
  unfold Gprs.get8 Gprs.set8
  rw [Gprs.get_set_same]
  generalize g.get r.home.1 = x
  cases r.home.2 <;> ext i hi <;>
    simp only [BitVec.getElem_extractLsb', BitVec.getLsbD_append, Bool.false_eq_true, if_false, if_true, Nat.zero_add]
  · rw [if_pos hi, BitVec.getLsbD_eq_getElem]
  · rw [if_neg (by omega), if_pos (by omega), Nat.add_sub_cancel_left, BitVec.getLsbD_eq_getElem]

/-! Flags. The control and system flags stay. -/

@[simp] theorem Eflags.add_tf {w : Nat} (f : Eflags) (x y : BitVec w) : (f.add x y).tf = f.tf := by
  simp only [Eflags.add, Eflags.szp]
@[simp] theorem Eflags.add_if_ {w : Nat} (f : Eflags) (x y : BitVec w) : (f.add x y).if_ = f.if_ := by
  simp only [Eflags.add, Eflags.szp]
@[simp] theorem Eflags.add_df {w : Nat} (f : Eflags) (x y : BitVec w) : (f.add x y).df = f.df := by
  simp only [Eflags.add, Eflags.szp]
@[simp] theorem Eflags.add_iopl {w : Nat} (f : Eflags) (x y : BitVec w) : (f.add x y).iopl = f.iopl := by
  simp only [Eflags.add, Eflags.szp]
@[simp] theorem Eflags.add_nt {w : Nat} (f : Eflags) (x y : BitVec w) : (f.add x y).nt = f.nt := by
  simp only [Eflags.add, Eflags.szp]
@[simp] theorem Eflags.add_rf {w : Nat} (f : Eflags) (x y : BitVec w) : (f.add x y).rf = f.rf := by
  simp only [Eflags.add, Eflags.szp]
@[simp] theorem Eflags.add_vm {w : Nat} (f : Eflags) (x y : BitVec w) : (f.add x y).vm = f.vm := by
  simp only [Eflags.add, Eflags.szp]
@[simp] theorem Eflags.add_ac {w : Nat} (f : Eflags) (x y : BitVec w) : (f.add x y).ac = f.ac := by
  simp only [Eflags.add, Eflags.szp]
@[simp] theorem Eflags.add_vif {w : Nat} (f : Eflags) (x y : BitVec w) : (f.add x y).vif = f.vif := by
  simp only [Eflags.add, Eflags.szp]
@[simp] theorem Eflags.add_vip {w : Nat} (f : Eflags) (x y : BitVec w) : (f.add x y).vip = f.vip := by
  simp only [Eflags.add, Eflags.szp]
@[simp] theorem Eflags.add_id {w : Nat} (f : Eflags) (x y : BitVec w) : (f.add x y).id = f.id := by
  simp only [Eflags.add, Eflags.szp]
@[simp] theorem Eflags.sub_tf {w : Nat} (f : Eflags) (x y : BitVec w) : (f.sub x y).tf = f.tf := by
  simp only [Eflags.sub, Eflags.szp]
@[simp] theorem Eflags.sub_if_ {w : Nat} (f : Eflags) (x y : BitVec w) : (f.sub x y).if_ = f.if_ := by
  simp only [Eflags.sub, Eflags.szp]
@[simp] theorem Eflags.sub_df {w : Nat} (f : Eflags) (x y : BitVec w) : (f.sub x y).df = f.df := by
  simp only [Eflags.sub, Eflags.szp]
@[simp] theorem Eflags.sub_iopl {w : Nat} (f : Eflags) (x y : BitVec w) : (f.sub x y).iopl = f.iopl := by
  simp only [Eflags.sub, Eflags.szp]
@[simp] theorem Eflags.sub_nt {w : Nat} (f : Eflags) (x y : BitVec w) : (f.sub x y).nt = f.nt := by
  simp only [Eflags.sub, Eflags.szp]
@[simp] theorem Eflags.sub_rf {w : Nat} (f : Eflags) (x y : BitVec w) : (f.sub x y).rf = f.rf := by
  simp only [Eflags.sub, Eflags.szp]
@[simp] theorem Eflags.sub_vm {w : Nat} (f : Eflags) (x y : BitVec w) : (f.sub x y).vm = f.vm := by
  simp only [Eflags.sub, Eflags.szp]
@[simp] theorem Eflags.sub_ac {w : Nat} (f : Eflags) (x y : BitVec w) : (f.sub x y).ac = f.ac := by
  simp only [Eflags.sub, Eflags.szp]
@[simp] theorem Eflags.sub_vif {w : Nat} (f : Eflags) (x y : BitVec w) : (f.sub x y).vif = f.vif := by
  simp only [Eflags.sub, Eflags.szp]
@[simp] theorem Eflags.sub_vip {w : Nat} (f : Eflags) (x y : BitVec w) : (f.sub x y).vip = f.vip := by
  simp only [Eflags.sub, Eflags.szp]
@[simp] theorem Eflags.sub_id {w : Nat} (f : Eflags) (x y : BitVec w) : (f.sub x y).id = f.id := by
  simp only [Eflags.sub, Eflags.szp]
@[simp] theorem Eflags.logic_tf {w : Nat} (f : Eflags) (x : BitVec w) (a : Bool) : (f.logic x a).tf = f.tf := by
  simp only [Eflags.logic, Eflags.szp]
@[simp] theorem Eflags.logic_if_ {w : Nat} (f : Eflags) (x : BitVec w) (a : Bool) : (f.logic x a).if_ = f.if_ := by
  simp only [Eflags.logic, Eflags.szp]
@[simp] theorem Eflags.logic_df {w : Nat} (f : Eflags) (x : BitVec w) (a : Bool) : (f.logic x a).df = f.df := by
  simp only [Eflags.logic, Eflags.szp]
@[simp] theorem Eflags.logic_iopl {w : Nat} (f : Eflags) (x : BitVec w) (a : Bool) : (f.logic x a).iopl = f.iopl := by
  simp only [Eflags.logic, Eflags.szp]
@[simp] theorem Eflags.logic_nt {w : Nat} (f : Eflags) (x : BitVec w) (a : Bool) : (f.logic x a).nt = f.nt := by
  simp only [Eflags.logic, Eflags.szp]
@[simp] theorem Eflags.logic_rf {w : Nat} (f : Eflags) (x : BitVec w) (a : Bool) : (f.logic x a).rf = f.rf := by
  simp only [Eflags.logic, Eflags.szp]
@[simp] theorem Eflags.logic_vm {w : Nat} (f : Eflags) (x : BitVec w) (a : Bool) : (f.logic x a).vm = f.vm := by
  simp only [Eflags.logic, Eflags.szp]
@[simp] theorem Eflags.logic_ac {w : Nat} (f : Eflags) (x : BitVec w) (a : Bool) : (f.logic x a).ac = f.ac := by
  simp only [Eflags.logic, Eflags.szp]
@[simp] theorem Eflags.logic_vif {w : Nat} (f : Eflags) (x : BitVec w) (a : Bool) : (f.logic x a).vif = f.vif := by
  simp only [Eflags.logic, Eflags.szp]
@[simp] theorem Eflags.logic_vip {w : Nat} (f : Eflags) (x : BitVec w) (a : Bool) : (f.logic x a).vip = f.vip := by
  simp only [Eflags.logic, Eflags.szp]
@[simp] theorem Eflags.logic_id {w : Nat} (f : Eflags) (x : BitVec w) (a : Bool) : (f.logic x a).id = f.id := by
  simp only [Eflags.logic, Eflags.szp]
@[simp] theorem Eflags.inc_tf {w : Nat} (f : Eflags) (x : BitVec w) : (f.inc x).tf = f.tf := by
  simp only [Eflags.inc, Eflags.add, Eflags.szp]
@[simp] theorem Eflags.inc_if_ {w : Nat} (f : Eflags) (x : BitVec w) : (f.inc x).if_ = f.if_ := by
  simp only [Eflags.inc, Eflags.add, Eflags.szp]
@[simp] theorem Eflags.inc_df {w : Nat} (f : Eflags) (x : BitVec w) : (f.inc x).df = f.df := by
  simp only [Eflags.inc, Eflags.add, Eflags.szp]
@[simp] theorem Eflags.inc_iopl {w : Nat} (f : Eflags) (x : BitVec w) : (f.inc x).iopl = f.iopl := by
  simp only [Eflags.inc, Eflags.add, Eflags.szp]
@[simp] theorem Eflags.inc_nt {w : Nat} (f : Eflags) (x : BitVec w) : (f.inc x).nt = f.nt := by
  simp only [Eflags.inc, Eflags.add, Eflags.szp]
@[simp] theorem Eflags.inc_rf {w : Nat} (f : Eflags) (x : BitVec w) : (f.inc x).rf = f.rf := by
  simp only [Eflags.inc, Eflags.add, Eflags.szp]
@[simp] theorem Eflags.inc_vm {w : Nat} (f : Eflags) (x : BitVec w) : (f.inc x).vm = f.vm := by
  simp only [Eflags.inc, Eflags.add, Eflags.szp]
@[simp] theorem Eflags.inc_ac {w : Nat} (f : Eflags) (x : BitVec w) : (f.inc x).ac = f.ac := by
  simp only [Eflags.inc, Eflags.add, Eflags.szp]
@[simp] theorem Eflags.inc_vif {w : Nat} (f : Eflags) (x : BitVec w) : (f.inc x).vif = f.vif := by
  simp only [Eflags.inc, Eflags.add, Eflags.szp]
@[simp] theorem Eflags.inc_vip {w : Nat} (f : Eflags) (x : BitVec w) : (f.inc x).vip = f.vip := by
  simp only [Eflags.inc, Eflags.add, Eflags.szp]
@[simp] theorem Eflags.inc_id {w : Nat} (f : Eflags) (x : BitVec w) : (f.inc x).id = f.id := by
  simp only [Eflags.inc, Eflags.add, Eflags.szp]
@[simp] theorem Eflags.dec_tf {w : Nat} (f : Eflags) (x : BitVec w) : (f.dec x).tf = f.tf := by
  simp only [Eflags.dec, Eflags.sub, Eflags.szp]
@[simp] theorem Eflags.dec_if_ {w : Nat} (f : Eflags) (x : BitVec w) : (f.dec x).if_ = f.if_ := by
  simp only [Eflags.dec, Eflags.sub, Eflags.szp]
@[simp] theorem Eflags.dec_df {w : Nat} (f : Eflags) (x : BitVec w) : (f.dec x).df = f.df := by
  simp only [Eflags.dec, Eflags.sub, Eflags.szp]
@[simp] theorem Eflags.dec_iopl {w : Nat} (f : Eflags) (x : BitVec w) : (f.dec x).iopl = f.iopl := by
  simp only [Eflags.dec, Eflags.sub, Eflags.szp]
@[simp] theorem Eflags.dec_nt {w : Nat} (f : Eflags) (x : BitVec w) : (f.dec x).nt = f.nt := by
  simp only [Eflags.dec, Eflags.sub, Eflags.szp]
@[simp] theorem Eflags.dec_rf {w : Nat} (f : Eflags) (x : BitVec w) : (f.dec x).rf = f.rf := by
  simp only [Eflags.dec, Eflags.sub, Eflags.szp]
@[simp] theorem Eflags.dec_vm {w : Nat} (f : Eflags) (x : BitVec w) : (f.dec x).vm = f.vm := by
  simp only [Eflags.dec, Eflags.sub, Eflags.szp]
@[simp] theorem Eflags.dec_ac {w : Nat} (f : Eflags) (x : BitVec w) : (f.dec x).ac = f.ac := by
  simp only [Eflags.dec, Eflags.sub, Eflags.szp]
@[simp] theorem Eflags.dec_vif {w : Nat} (f : Eflags) (x : BitVec w) : (f.dec x).vif = f.vif := by
  simp only [Eflags.dec, Eflags.sub, Eflags.szp]
@[simp] theorem Eflags.dec_vip {w : Nat} (f : Eflags) (x : BitVec w) : (f.dec x).vip = f.vip := by
  simp only [Eflags.dec, Eflags.sub, Eflags.szp]
@[simp] theorem Eflags.dec_id {w : Nat} (f : Eflags) (x : BitVec w) : (f.dec x).id = f.id := by
  simp only [Eflags.dec, Eflags.sub, Eflags.szp]
@[simp] theorem Eflags.statusFrom_tf (f : Eflags) (v : W32) : (f.statusFrom v).tf = f.tf := rfl
@[simp] theorem Eflags.statusFrom_if_ (f : Eflags) (v : W32) : (f.statusFrom v).if_ = f.if_ := rfl
@[simp] theorem Eflags.statusFrom_df (f : Eflags) (v : W32) : (f.statusFrom v).df = f.df := rfl
@[simp] theorem Eflags.statusFrom_iopl (f : Eflags) (v : W32) : (f.statusFrom v).iopl = f.iopl := rfl
@[simp] theorem Eflags.statusFrom_nt (f : Eflags) (v : W32) : (f.statusFrom v).nt = f.nt := rfl
@[simp] theorem Eflags.statusFrom_rf (f : Eflags) (v : W32) : (f.statusFrom v).rf = f.rf := rfl
@[simp] theorem Eflags.statusFrom_vm (f : Eflags) (v : W32) : (f.statusFrom v).vm = f.vm := rfl
@[simp] theorem Eflags.statusFrom_ac (f : Eflags) (v : W32) : (f.statusFrom v).ac = f.ac := rfl
@[simp] theorem Eflags.statusFrom_vif (f : Eflags) (v : W32) : (f.statusFrom v).vif = f.vif := rfl
@[simp] theorem Eflags.statusFrom_vip (f : Eflags) (v : W32) : (f.statusFrom v).vip = f.vip := rfl
@[simp] theorem Eflags.statusFrom_id (f : Eflags) (v : W32) : (f.statusFrom v).id = f.id := rfl
@[simp] theorem Eflags.inc_cf {w : Nat} (f : Eflags) (x : BitVec w) : (f.inc x).cf = f.cf := by simp only [Eflags.inc]
@[simp] theorem Eflags.dec_cf {w : Nat} (f : Eflags) (x : BitVec w) : (f.dec x).cf = f.cf := by simp only [Eflags.dec]

/-! Leaving SMM. -/

@[simp] theorem Cpu.resumed_gdtr (c : Cpu) (v : SmmSaved) (cr0 : W32) (g : Gprs) (f e : W32) :
    (Cpu.resumed c v cr0 g f e).gdtr = c.gdtr := rfl
@[simp] theorem Cpu.resumed_idtr (c : Cpu) (v : SmmSaved) (cr0 : W32) (g : Gprs) (f e : W32) :
    (Cpu.resumed c v cr0 g f e).idtr = c.idtr := rfl
@[simp] theorem Cpu.resumed_fpu (c : Cpu) (v : SmmSaved) (cr0 : W32) (g : Gprs) (f e : W32) :
    (Cpu.resumed c v cr0 g f e).fpu = c.fpu := rfl
@[simp] theorem Cpu.resumed_sse (c : Cpu) (v : SmmSaved) (cr0 : W32) (g : Gprs) (f e : W32) :
    (Cpu.resumed c v cr0 g f e).sse = c.sse := rfl
@[simp] theorem Cpu.resumed_msr (c : Cpu) (v : SmmSaved) (cr0 : W32) (g : Gprs) (f e : W32) :
    (Cpu.resumed c v cr0 g f e).msr = c.msr := rfl
@[simp] theorem Cpu.resumed_smm (c : Cpu) (v : SmmSaved) (cr0 : W32) (g : Gprs) (f e : W32) :
    (Cpu.resumed c v cr0 g f e).smm = c.smm := rfl
@[simp] theorem Cpu.resumed_hid (c : Cpu) (v : SmmSaved) (cr0 : W32) (g : Gprs) (f e : W32) :
    (Cpu.resumed c v cr0 g f e).hid = c.hid := rfl
@[simp] theorem Cpu.resumed_nextEip (c : Cpu) (v : SmmSaved) (cr0 : W32) (g : Gprs) (f e : W32) :
    (Cpu.resumed c v cr0 g f e).nextEip = c.nextEip := rfl
@[simp] theorem Cpu.resumed_gpr (c : Cpu) (v : SmmSaved) (cr0 : W32) (g : Gprs) (f e : W32) :
    (Cpu.resumed c v cr0 g f e).gpr = g := rfl
@[simp] theorem Cpu.resumed_fl (c : Cpu) (v : SmmSaved) (cr0 : W32) (g : Gprs) (f e : W32) :
    (Cpu.resumed c v cr0 g f e).fl = .ofBits f := rfl
@[simp] theorem Cpu.resumed_eip (c : Cpu) (v : SmmSaved) (cr0 : W32) (g : Gprs) (f e : W32) :
    (Cpu.resumed c v cr0 g f e).eip = e := rfl
@[simp] theorem Cpu.resumed_seg (c : Cpu) (v : SmmSaved) (cr0 : W32) (g : Gprs) (f e : W32) :
    (Cpu.resumed c v cr0 g f e).seg = v.segs := rfl
@[simp] theorem Cpu.resumed_cpl (c : Cpu) (v : SmmSaved) (cr0 : W32) (g : Gprs) (f e : W32) :
    (Cpu.resumed c v cr0 g f e).cpl = v.cpl := rfl
@[simp] theorem Cpu.resumed_ctl_cr0 (c : Cpu) (v : SmmSaved) (cr0 : W32) (g : Gprs) (f e : W32) :
    (Cpu.resumed c v cr0 g f e).ctl.cr0 = cr0 := rfl
@[simp] theorem Cpu.resumed_ctl_cr3 (c : Cpu) (v : SmmSaved) (cr0 : W32) (g : Gprs) (f e : W32) :
    (Cpu.resumed c v cr0 g f e).ctl.cr3 = v.cr3 := rfl
@[simp] theorem Cpu.resumed_ctl_cr4 (c : Cpu) (v : SmmSaved) (cr0 : W32) (g : Gprs) (f e : W32) :
    (Cpu.resumed c v cr0 g f e).ctl.cr4 = v.cr4 := rfl
@[simp] theorem Cpu.resumed_dbg_dr7 (c : Cpu) (v : SmmSaved) (cr0 : W32) (g : Gprs) (f e : W32) :
    (Cpu.resumed c v cr0 g f e).dbg.dr7 = v.dr7 := rfl

@[simp] theorem Cpu.leftSmm_gpr (c : Cpu) (x : W32) : (Cpu.leftSmm c x).gpr = c.gpr := rfl
@[simp] theorem Cpu.leftSmm_eip (c : Cpu) (x : W32) : (Cpu.leftSmm c x).eip = c.eip := rfl
@[simp] theorem Cpu.leftSmm_fl (c : Cpu) (x : W32) : (Cpu.leftSmm c x).fl = c.fl := rfl
@[simp] theorem Cpu.leftSmm_seg (c : Cpu) (x : W32) : (Cpu.leftSmm c x).seg = c.seg := rfl
@[simp] theorem Cpu.leftSmm_cpl (c : Cpu) (x : W32) : (Cpu.leftSmm c x).cpl = c.cpl := rfl
@[simp] theorem Cpu.leftSmm_gdtr (c : Cpu) (x : W32) : (Cpu.leftSmm c x).gdtr = c.gdtr := rfl
@[simp] theorem Cpu.leftSmm_idtr (c : Cpu) (x : W32) : (Cpu.leftSmm c x).idtr = c.idtr := rfl
@[simp] theorem Cpu.leftSmm_ldtr (c : Cpu) (x : W32) : (Cpu.leftSmm c x).ldtr = c.ldtr := rfl
@[simp] theorem Cpu.leftSmm_tr (c : Cpu) (x : W32) : (Cpu.leftSmm c x).tr = c.tr := rfl
@[simp] theorem Cpu.leftSmm_dbg (c : Cpu) (x : W32) : (Cpu.leftSmm c x).dbg = c.dbg := rfl
@[simp] theorem Cpu.leftSmm_fpu (c : Cpu) (x : W32) : (Cpu.leftSmm c x).fpu = c.fpu := rfl
@[simp] theorem Cpu.leftSmm_sse (c : Cpu) (x : W32) : (Cpu.leftSmm c x).sse = c.sse := rfl
@[simp] theorem Cpu.leftSmm_msr (c : Cpu) (x : W32) : (Cpu.leftSmm c x).msr = c.msr := rfl
@[simp] theorem Cpu.leftSmm_nextEip (c : Cpu) (x : W32) :
    (Cpu.leftSmm c x).nextEip = c.nextEip := rfl
@[simp] theorem Cpu.leftSmm_notes (c : Cpu) (x : W32) : (Cpu.leftSmm c x).notes = c.notes := rfl
@[simp] theorem Cpu.leftSmm_ctl_cr0 (c : Cpu) (x : W32) : (Cpu.leftSmm c x).ctl.cr0 = c.ctl.cr0 := rfl
@[simp] theorem Cpu.leftSmm_ctl_cr4 (c : Cpu) (x : W32) : (Cpu.leftSmm c x).ctl.cr4 = c.ctl.cr4 := rfl
@[simp] theorem Cpu.leftSmm_smm_smbase (c : Cpu) (x : W32) : (Cpu.leftSmm c x).smm.smbase = x := rfl
@[simp] theorem Cpu.leftSmm_smm_inSmm (c : Cpu) (x : W32) :
    (Cpu.leftSmm c x).smm.inSmm = false := rfl
@[simp] theorem Cpu.leftSmm_hid_run (c : Cpu) (x : W32) : (Cpu.leftSmm c x).hid.run = .running := rfl

/-! A change of PG, and EIP in a 16-bit code segment. -/

@[simp] theorem Cpu.otherPg_pg (c : Cpu) : c.otherPg.pg = !c.pg := by
  have h : c.otherPg.pg = (bit c.otherPg.ctl.cr0 31 && bit c.otherPg.ctl.cr0 0) := rfl
  rw [h]
  unfold Cpu.otherPg
  cases c.pg <;> simp [bit]
@[simp] theorem Cpu.otherPg_gpr (c : Cpu) : c.otherPg.gpr = c.gpr := rfl
@[simp] theorem Cpu.otherPg_eip (c : Cpu) : c.otherPg.eip = c.eip := rfl
@[simp] theorem Cpu.otherPg_fl (c : Cpu) : c.otherPg.fl = c.fl := rfl
@[simp] theorem Cpu.otherPg_seg (c : Cpu) : c.otherPg.seg = c.seg := rfl
@[simp] theorem Cpu.otherPg_cpl (c : Cpu) : c.otherPg.cpl = c.cpl := rfl
@[simp] theorem Cpu.otherPg_gdtr (c : Cpu) : c.otherPg.gdtr = c.gdtr := rfl
@[simp] theorem Cpu.otherPg_idtr (c : Cpu) : c.otherPg.idtr = c.idtr := rfl
@[simp] theorem Cpu.otherPg_ldtr (c : Cpu) : c.otherPg.ldtr = c.ldtr := rfl
@[simp] theorem Cpu.otherPg_tr (c : Cpu) : c.otherPg.tr = c.tr := rfl
@[simp] theorem Cpu.otherPg_dbg (c : Cpu) : c.otherPg.dbg = c.dbg := rfl
@[simp] theorem Cpu.otherPg_fpu (c : Cpu) : c.otherPg.fpu = c.fpu := rfl
@[simp] theorem Cpu.otherPg_sse (c : Cpu) : c.otherPg.sse = c.sse := rfl
@[simp] theorem Cpu.otherPg_msr (c : Cpu) : c.otherPg.msr = c.msr := rfl
@[simp] theorem Cpu.otherPg_smm (c : Cpu) : c.otherPg.smm = c.smm := rfl
@[simp] theorem Cpu.otherPg_hid (c : Cpu) : c.otherPg.hid = c.hid := rfl
@[simp] theorem Cpu.otherPg_nextEip (c : Cpu) : c.otherPg.nextEip = c.nextEip := rfl
@[simp] theorem Cpu.otherPg_notes (c : Cpu) : c.otherPg.notes = c.notes := rfl

theorem SegReg.cutEip_wide {r : SegReg} (h : r.db = true) (v : W32) : r.cutEip v = v := by simp [SegReg.cutEip, h]

theorem SegReg.cutEip_narrow {r : SegReg} (h : r.db = false) (v : W32) : r.cutEip v = v &&& 0xFFFF#32 := by
  simp [SegReg.cutEip, h]

/-- In a 16-bit code segment the upper half of EIP is 0. -/
theorem SegReg.cutEip_upper {r : SegReg} (h : r.db = false) (v : W32) : (r.cutEip v).extractLsb' 16 16 = 0#16 := by
  rw [SegReg.cutEip_narrow h]
  ext i hi
  simp only [BitVec.getElem_extractLsb', BitVec.getLsbD_and, BitVec.getElem_zero]
  interval_cases i <;> simp

theorem Cpu.cutEip_protected {c : Cpu} (h : c.prot = true) (v : W32) : c.cutEip v = c.seg.cs.cutEip v := by
  simp [Cpu.cutEip, h]

/-- Outside protected mode nothing is cut. -/
theorem Cpu.cutEip_other {c : Cpu} (h : c.prot = false) (v : W32) : c.cutEip v = v := by simp [Cpu.cutEip, h]

theorem Cpu.cutEip_eq (c : Cpu) (v : W32) : c.cutEip v = c.ipOf v := by
  unfold Cpu.cutEip Cpu.ipOf SegReg.cutEip
  cases c.prot <;> cases c.seg.cs.db <;> rfl

theorem Desc.reg_cutEip (d : Desc) (s : W16) (v : W32) : (d.reg s).cutEip v = d.ipOf v := rfl

/-! Frames of calls through 16-bit gates. -/

@[simp] theorem Cpu.noteGate16_gpr (c old : Cpu) (g d : Desc) : (c.noteGate16 old g d).gpr = c.gpr := rfl
@[simp] theorem Cpu.noteGate16_eip (c old : Cpu) (g d : Desc) : (c.noteGate16 old g d).eip = c.eip := rfl
@[simp] theorem Cpu.noteGate16_fl (c old : Cpu) (g d : Desc) : (c.noteGate16 old g d).fl = c.fl := rfl
@[simp] theorem Cpu.noteGate16_seg (c old : Cpu) (g d : Desc) : (c.noteGate16 old g d).seg = c.seg := rfl
@[simp] theorem Cpu.noteGate16_cpl (c old : Cpu) (g d : Desc) : (c.noteGate16 old g d).cpl = c.cpl := rfl
@[simp] theorem Cpu.noteGate16_gdtr (c old : Cpu) (g d : Desc) : (c.noteGate16 old g d).gdtr = c.gdtr := rfl
@[simp] theorem Cpu.noteGate16_idtr (c old : Cpu) (g d : Desc) : (c.noteGate16 old g d).idtr = c.idtr := rfl
@[simp] theorem Cpu.noteGate16_ldtr (c old : Cpu) (g d : Desc) : (c.noteGate16 old g d).ldtr = c.ldtr := rfl
@[simp] theorem Cpu.noteGate16_tr (c old : Cpu) (g d : Desc) : (c.noteGate16 old g d).tr = c.tr := rfl
@[simp] theorem Cpu.noteGate16_ctl (c old : Cpu) (g d : Desc) : (c.noteGate16 old g d).ctl = c.ctl := rfl
@[simp] theorem Cpu.noteGate16_dbg (c old : Cpu) (g d : Desc) : (c.noteGate16 old g d).dbg = c.dbg := rfl
@[simp] theorem Cpu.noteGate16_fpu (c old : Cpu) (g d : Desc) : (c.noteGate16 old g d).fpu = c.fpu := rfl
@[simp] theorem Cpu.noteGate16_sse (c old : Cpu) (g d : Desc) : (c.noteGate16 old g d).sse = c.sse := rfl
@[simp] theorem Cpu.noteGate16_msr (c old : Cpu) (g d : Desc) : (c.noteGate16 old g d).msr = c.msr := rfl
@[simp] theorem Cpu.noteGate16_smm (c old : Cpu) (g d : Desc) : (c.noteGate16 old g d).smm = c.smm := rfl
@[simp] theorem Cpu.noteGate16_nextEip (c old : Cpu) (g d : Desc) : (c.noteGate16 old g d).nextEip = c.nextEip := rfl
@[simp] theorem Cpu.noteGate16_notes (c old : Cpu) (g d : Desc) : (c.noteGate16 old g d).notes = c.notes := rfl
@[simp] theorem Cpu.noteGate16_hid_run (c old : Cpu) (g d : Desc) : (c.noteGate16 old g d).hid.run = c.hid.run := rfl
@[simp] theorem Cpu.noteGate16_hid_nmiBlocked (c old : Cpu) (g d : Desc) :
    (c.noteGate16 old g d).hid.nmiBlocked = c.hid.nmiBlocked := rfl
@[simp] theorem Cpu.noteGate16_hid_ssShadow (c old : Cpu) (g d : Desc) :
    (c.noteGate16 old g d).hid.ssShadow = c.hid.ssShadow := rfl
@[simp] theorem Cpu.noteGate16_hid_stiShadow (c old : Cpu) (g d : Desc) :
    (c.noteGate16 old g d).hid.stiShadow = c.hid.stiShadow := rfl
@[simp] theorem Cpu.noteGate16_hid_pendingDb (c old : Cpu) (g d : Desc) :
    (c.noteGate16 old g d).hid.pendingDb = c.hid.pendingDb := rfl
@[simp] theorem Cpu.noteGate16_hid_haltEip (c old : Cpu) (g d : Desc) :
    (c.noteGate16 old g d).hid.haltEip = c.hid.haltEip := rfl

@[simp] theorem Cpu.dropGate16_gpr (c : Cpu) (f : GateFrame) : (c.dropGate16 f).gpr = c.gpr := rfl
@[simp] theorem Cpu.dropGate16_eip (c : Cpu) (f : GateFrame) : (c.dropGate16 f).eip = c.eip := rfl
@[simp] theorem Cpu.dropGate16_fl (c : Cpu) (f : GateFrame) : (c.dropGate16 f).fl = c.fl := rfl
@[simp] theorem Cpu.dropGate16_seg (c : Cpu) (f : GateFrame) : (c.dropGate16 f).seg = c.seg := rfl
@[simp] theorem Cpu.dropGate16_cpl (c : Cpu) (f : GateFrame) : (c.dropGate16 f).cpl = c.cpl := rfl
@[simp] theorem Cpu.dropGate16_gdtr (c : Cpu) (f : GateFrame) : (c.dropGate16 f).gdtr = c.gdtr := rfl
@[simp] theorem Cpu.dropGate16_idtr (c : Cpu) (f : GateFrame) : (c.dropGate16 f).idtr = c.idtr := rfl
@[simp] theorem Cpu.dropGate16_ldtr (c : Cpu) (f : GateFrame) : (c.dropGate16 f).ldtr = c.ldtr := rfl
@[simp] theorem Cpu.dropGate16_tr (c : Cpu) (f : GateFrame) : (c.dropGate16 f).tr = c.tr := rfl
@[simp] theorem Cpu.dropGate16_ctl (c : Cpu) (f : GateFrame) : (c.dropGate16 f).ctl = c.ctl := rfl
@[simp] theorem Cpu.dropGate16_dbg (c : Cpu) (f : GateFrame) : (c.dropGate16 f).dbg = c.dbg := rfl
@[simp] theorem Cpu.dropGate16_fpu (c : Cpu) (f : GateFrame) : (c.dropGate16 f).fpu = c.fpu := rfl
@[simp] theorem Cpu.dropGate16_sse (c : Cpu) (f : GateFrame) : (c.dropGate16 f).sse = c.sse := rfl
@[simp] theorem Cpu.dropGate16_msr (c : Cpu) (f : GateFrame) : (c.dropGate16 f).msr = c.msr := rfl
@[simp] theorem Cpu.dropGate16_smm (c : Cpu) (f : GateFrame) : (c.dropGate16 f).smm = c.smm := rfl
@[simp] theorem Cpu.dropGate16_nextEip (c : Cpu) (f : GateFrame) : (c.dropGate16 f).nextEip = c.nextEip := rfl
@[simp] theorem Cpu.dropGate16_notes (c : Cpu) (f : GateFrame) : (c.dropGate16 f).notes = c.notes := rfl
@[simp] theorem Cpu.dropGate16_hid_run (c : Cpu) (f : GateFrame) : (c.dropGate16 f).hid.run = c.hid.run := rfl
@[simp] theorem Cpu.dropGate16_hid_nmiBlocked (c : Cpu) (f : GateFrame) :
    (c.dropGate16 f).hid.nmiBlocked = c.hid.nmiBlocked := rfl
@[simp] theorem Cpu.dropGate16_hid_ssShadow (c : Cpu) (f : GateFrame) :
    (c.dropGate16 f).hid.ssShadow = c.hid.ssShadow := rfl
@[simp] theorem Cpu.dropGate16_hid_stiShadow (c : Cpu) (f : GateFrame) :
    (c.dropGate16 f).hid.stiShadow = c.hid.stiShadow := rfl
@[simp] theorem Cpu.dropGate16_hid_pendingDb (c : Cpu) (f : GateFrame) :
    (c.dropGate16 f).hid.pendingDb = c.hid.pendingDb := rfl
@[simp] theorem Cpu.dropGate16_hid_haltEip (c : Cpu) (f : GateFrame) :
    (c.dropGate16 f).hid.haltEip = c.hid.haltEip := rfl

end Sys2Proof.Machine
end

