-- ==== Sys2Proof/Tests/Slice0.lean ====
section
/-!
SUPPORT. Tests: ill-formed terms are refused, words written out from the encodings decode to their instructions, single
steps on small states, and for each statement with hypotheses a state and operands that meet them.
-/
namespace Sys2Proof.Tests

/- One theorem after the other: in parallel, many kernel evaluations exhaust the process's threads. -/
set_option Elab.async false

open Sys2Proof.Machine

/-! States. -/

/-- Memory with bytes stored from given addresses on. -/
def Memory.with (m : Memory) (l : List (Nat × List Byte)) : Memory :=
  l.foldl (fun m (a, bs) => m.writeBytes (((List.range bs.length).map (a + ·)).zip bs)) m

/-- Memory that holds bytes from given addresses on. -/
def memory (l : List (Nat × List Byte)) : Memory := Memory.with [] l

/-- A doubleword at an address. -/
def dword (a v : Nat) : Nat × List Byte := (a, leBytes 4 v)

/-- A segment register of flat memory. -/
def flat (sel : W16) (typ : BitVec 4) (dpl : BitVec 2) : SegReg :=
  { SegReg.realMode sel 0#32 with limit := 0xFFFFFFFF#32, typ, dpl, db := true, g := true }

/-- General registers with a stack at 1000H and small numbers elsewhere. -/
def gprs : Gprs :=
  { eax := 0x64#32, ecx := 7#32, edx := 0#32, ebx := 0x2000#32, esp := 0x1000#32, ebp := 0x3000#32, esi := 0x10#32
    edi := 0x2010#32 }

/-- Real-address mode: code at 0800:0100, a stack frame at 1000H, the handler of INT 21H at 0900:0050. -/
def real : State :=
  { cpu := { Cpu.reset with
      gpr := gprs, eip := 0x100#32, nextEip := 0x102#32
      seg := { SegRegs.reset with cs := .realMode 0x800#16 0x8000#32, ds := .realMode 0#16 0#32 }
      idtr := { base := 0#32, limit := 0x3FF#16 } }
    bus := { Bus.reset with
      mem := memory [dword 0x84 0x09000050, dword 0x1000 0x08000040, dword 0x1004 0x0202, dword 0x2000 0x00050003,
        dword 0x8100 0x9090] } }

/-- Real-address mode with a 32-bit stack frame: EIP, CS, EFLAGS. -/
def real32 : State :=
  { real with bus.mem := memory [dword 0x1000 0x40, dword 0x1004 0x0800, dword 0x1008 0x0202, dword 0x2000 5] }

/-- Protected mode, flat, level 0. The GDT at 8000H holds code and data of level 0 and 3, a TSS, an LDT and conforming
code; gates for vectors 13 and 33 are at 9000H. -/
def prot : State :=
  { cpu := { real.cpu with
      ctl.cr0 := 0x60000011#32, cpl := 0#2
      seg := { es := flat 0x10#16 3#4 0#2, cs := flat 8#16 11#4 0#2, ss := flat 0x10#16 3#4 0#2
               ds := flat 0x10#16 3#4 0#2, fs := flat 0x10#16 3#4 0#2, gs := flat 0x10#16 3#4 0#2 }
      gdtr := { base := 0x8000#32, limit := 0x3F#16 }
      idtr := { base := 0x9000#32, limit := 0x7FF#16 }
      tr := { SegReg.systemReset 11#4 with sel := 0x28#16, base := 0x5000#32, limit := 0x67#32 } }
    bus := { Bus.reset with
      mem := memory [dword 0x1000 0x40, dword 0x1004 8, dword 0x1008 0x0202, dword 0x2000 0x40, dword 0x2004 8,
        dword 0x2008 0x2B, dword 0x200C 0xFFFFFFFF, dword 0x5004 0xF00, dword 0x5008 0x10,
        dword 0x8008 0xFFFF, dword 0x800C 0x00CF9A00, dword 0x8010 0xFFFF, dword 0x8014 0x00CF9200,
        dword 0x8018 0xFFFF, dword 0x801C 0x00CFFA00, dword 0x8020 0xFFFF, dword 0x8024 0x00CFF200,
        dword 0x8028 0x50000067, dword 0x802C 0x8900, dword 0x8030 0x60000007, dword 0x8034 0x8200,
        dword 0x8038 0xFFFF, dword 0x803C 0x00CF9E00, dword 0x9068 0x00080500, dword 0x906C 0x8F00,
        dword 0x9108 0x00080400, dword 0x910C 0xEE00] } }

/-- The same at level 3. -/
def user : State :=
  { prot with
    cpu := { prot.cpu with
      cpl := 3#2
      seg := { prot.cpu.seg with cs := flat 0x1B#16 11#4 3#2, ss := flat 0x23#16 3#4 3#2, ds := flat 0x23#16 3#4 3#2 } } }

/-- Virtual-8086 mode with IOPL 0 and CR4.VME. -/
def v86 : State :=
  { real with
    cpu := { real.cpu with
      ctl.cr0 := 0x60000011#32, ctl.cr4 := 1#32, fl.vm := true, cpl := 3#2
      seg := { es := .v86 0#16, cs := .v86 0x800#16, ss := .v86 0#16, ds := .v86 0#16, fs := .v86 0#16
               gs := .v86 0#16 } } }

/-- Protected mode at level 0 with more in the GDT: a call gate with one parameter at 40H, an available TSS at 48H, a task
gate to it at 50H, a busy TSS at 58H, to which the current TSS, with a redirection map, holds the link. Vectors 6 and
34 are task gates. Stack frames of several returns are at 5200H to 5500H. -/
def tasks : State :=
  { prot with
    cpu := { prot.cpu with gdtr.limit := 0x67#16, tr.limit := 0xFF#32 }
    bus.mem := Memory.with prot.bus.mem
      ([dword 0x8040 0x00080600, dword 0x8044 0xEC01, dword 0x8048 0x58000067, dword 0x804C 0x8900, dword 0x8050 0x00480000,
        dword 0x8054 0x8500, dword 0x8058 0x5C000067, dword 0x805C 0x8B00, dword 0x9018 0x00080400, dword 0x901C 0xEE00,
        dword 0x9030 0x00480000, dword 0x9034 0x8500, dword 0x9110 0x00480000, dword 0x9114 0xE500, dword 0x5000 0x58,
        dword 0x5064 0x00880000, dword 0x506C 2]
      ++ [0x5800, 0x5C00].flatMap (fun a => [dword (a + 32) 0x40, dword (a + 36) 2, dword (a + 56) 0x1000, dword (a + 72) 0x10,
        dword (a + 76) 8, dword (a + 80) 0x10, dword (a + 84) 0x10])
      ++ [dword 0x5200 0x40, dword 0x5204 0x1B, dword 0x5208 0x3000, dword 0x520C 0x23, dword 0x5300 0x40, dword 0x5304 0x1B,
        dword 0x5308 0x202, dword 0x530C 0x3000, dword 0x5310 0x23, dword 0x5400 0x100, dword 0x5404 0x800,
        dword 0x5408 0x20202, dword 0x540C 0x1000, dword 0x5500 0x00080040]) }

/-- The same with the stack pointer at an address. -/
def tasksAt (esp : W32) : State := { tasks with cpu.gpr.esp := esp }

/-- Virtual-8086 mode with IOPL 3 and these tables. -/
def virt : State :=
  { tasks with
    cpu := { tasks.cpu with
      fl.vm := true, fl.iopl := 3#2, cpl := 3#2
      seg := { es := .v86 0#16, cs := .v86 0x800#16, ss := .v86 0#16, ds := .v86 0#16, fs := .v86 0#16
               gs := .v86 0#16 } } }

/-- The same with CR4.VME. -/
def virtVme : State := { virt with cpu.ctl.cr4 := 1#32 }

/-- Paging, with a table at B000H whose second page is at 2000H and whose third is not present. -/
def paged : State :=
  { prot with
    cpu := { prot.cpu with ctl.cr0 := 0xE0010011#32, ctl.cr3 := 0xA000#32 }
    bus := { prot.bus with mem := memory [dword 0xA000 0xB007, dword 0xB004 0x2007, dword 0x2010 0x1234] } }

/-- The test of the next state, if there is one. -/
def leaves (o : Host.Outcome State Fault Refusal) (p : State → Bool) : Bool :=
  match o with
  | .next t => p t
  | _ => false

/-- A step or an instruction ends in a state. -/
def ends (o : Host.Outcome State Fault Refusal) : Bool := leaves o fun _ => true

theorem ends_spec {o : Host.Outcome State Fault Refusal} (h : ends o = true) : ∃ t, o = .next t := by
  cases o with
  | next t => exact ⟨t, rfl⟩
  | fault f => cases h
  | refused r => cases h

/-! How a hypothesis is met: a computation is run. -/

/-- An access ends well. -/
def okB {α : Type} (x : B α) (c : Cpu) (b : Bus) : Bool :=
  match x c b with
  | .ok _ _ => true
  | .error _ _ => false

theorem okB_spec {α : Type} {x : B α} {c : Cpu} {b : Bus} (h : okB x c b = true) : ∃ v b1, x c b = .ok v b1 := by
  unfold okB at h
  cases hx : x c b with
  | ok v b1 => exact ⟨v, b1, rfl⟩
  | error e b1 => rw [hx] at h; cases h

/-- An access stops, and how. -/
def stopsB {α : Type} (x : B α) (c : Cpu) (b : Bus) (e : Stop) : Bool :=
  match x c b with
  | .ok _ _ => false
  | .error e1 _ => decide (e1 = e)

theorem stopsB_spec {α : Type} {x : B α} {c : Cpu} {b : Bus} {e : Stop} (h : stopsB x c b e = true) :
    ∃ b1, x c b = .error e b1 := by
  unfold stopsB at h
  cases hx : x c b with
  | ok v b1 => rw [hx] at h; cases h
  | error e1 b1 => rw [hx, decide_eq_true_eq] at h; exact ⟨b1, by rw [h]⟩

/-- A computation ends well, with the registers as they were, in a value that passes the test. -/
def okM {α : Type} (x : M α) (s : State) (p : α → Bool := fun _ => true) : Bool :=
  match x s with
  | .ok v t => p v && decide (t.cpu = s.cpu)
  | .error _ _ => false

theorem okM_spec {α : Type} {x : M α} {s : State} {p : α → Bool} (h : okM x s p = true) :
    ∃ v b1, x s = .ok v { s with bus := b1 } ∧ p v = true := by
  unfold okM at h
  cases hx : x s with
  | ok v t =>
    rw [hx] at h
    simp only [Bool.and_eq_true, decide_eq_true_eq] at h
    exact ⟨v, t.bus, by rw [← h.2], h.1⟩
  | error e t => rw [hx] at h; cases h

/-- What a write leaves. -/
def tryWrite (c : Cpu) (b : Bus) (seg : Seg) (off : W32) (n v : Nat) (align : Nat := n) : Option (Phys × Bus) :=
  match memPrepare seg off n align true c b with
  | .ok p b1 =>
    match writePhys p (leBytes n v) c b1 with
    | .ok _ b2 => some (p, b2)
    | .error _ _ => none
  | .error _ _ => none

theorem tryWrite_spec {c : Cpu} {b : Bus} {seg : Seg} {off : W32} {n v align : Nat} {p : Phys} {b2 : Bus}
    (h : tryWrite c b seg off n v align = some (p, b2)) : WritesAt c b seg off n align v p b2 := by
  unfold tryWrite at h
  cases h1 : memPrepare seg off n align true c b with
  | error e b1 => rw [h1] at h; cases h
  | ok q b1 =>
    rw [h1] at h
    dsimp only at h
    cases h2 : writePhys q (leBytes n v) c b1 with
    | error e b3 => rw [h2] at h; cases h
    | ok u b3 => rw [h2] at h; cases h; exact ⟨b1, h1, h2⟩

theorem writesAt_of {c : Cpu} {b : Bus} {seg : Seg} {off : W32} {n v align : Nat}
    (h : (tryWrite c b seg off n v align).isSome = true) : ∃ p b2, WritesAt c b seg off n align v p b2 := by
  obtain ⟨x, hx⟩ := Option.isSome_iff_exists.mp h
  exact ⟨x.1, x.2, tryWrite_spec hx⟩

theorem writes_of {c : Cpu} {b : Bus} {seg : Seg} {off : W32} {n v : Nat}
    (h : (tryWrite c b seg off n v).isSome = true) : ∃ p b2, Writes c b seg off n v p b2 := writesAt_of h

/-- A location can be read and then written. -/
def canModify {w : Nat} (lock : Bool) (c : Cpu) (b : Bus) (seg : Seg) (off : W32) (x y : BitVec w) (k : Nat) : Bool :=
  match memReadForWrite w seg off c b with
  | .ok (v, p) b1 => v == x && okB (memWriteBack lock p y) c { b1 with freeCtr := b1.freeCtr + k }
  | .error _ _ => false

theorem modifies_of {w : Nat} {lock : Bool} {c : Cpu} {b : Bus} {seg : Seg} {off : W32} {x y : BitVec w} {k : Nat}
    (h : canModify lock c b seg off x y k = true) : ∃ p b2, Modifies lock c b seg off x y k p b2 := by
  unfold canModify at h
  cases h1 : memReadForWrite w seg off c b with
  | error e b1 => rw [h1] at h; cases h
  | ok r b1 =>
    obtain ⟨v, p⟩ := r
    rw [h1] at h
    simp only [Bool.and_eq_true, beq_iff_eq] at h
    obtain ⟨rfl, h⟩ := h
    obtain ⟨u, b2, h2⟩ := okB_spec h
    exact ⟨p, b2, b1, h1, h2⟩

/-- A location that a write may follow can be read, and then written. -/
def canMayModify {w : Nat} (c : Cpu) (b : Bus) (seg : Seg) (off : W32) (x y : BitVec w) : Bool :=
  match memReadMayWrite w seg off c b with
  | .ok (v, p) b1 => v == x && okB (memWriteNow p y) c b1
  | .error _ _ => false

theorem mayModify_of {w : Nat} {c : Cpu} {b : Bus} {seg : Seg} {off : W32} {x y : BitVec w}
    (h : canMayModify c b seg off x y = true) : ∃ p b2, MayModify c b seg off x y p b2 := by
  unfold canMayModify at h
  cases h1 : memReadMayWrite w seg off c b with
  | error e b1 => rw [h1] at h; cases h
  | ok r b1 =>
    obtain ⟨v, p⟩ := r
    rw [h1] at h
    simp only [Bool.and_eq_true, beq_iff_eq] at h
    obtain ⟨rfl, h⟩ := h
    obtain ⟨u, b2, h2⟩ := okB_spec h
    exact ⟨p, b2, b1, h1, h2⟩

/-- What pushing slots leaves. -/
def tryPush (osz : OpSize) : List Slot → Cpu → Bus → Option (List Nat × Cpu × Bus)
  | [], c, b => some ([], c, b)
  | v :: vs, c, b =>
    match tryWrite c { b with freeCtr := b.freeCtr + v.frees osz } .ss (c.stackOff (c.below osz.bytes)) osz.bytes
        (v.value b).toNat with
    | some (p, b2) =>
      match tryPush osz vs (c.setEsp (c.below osz.bytes)) b2 with
      | some (rest, c1, b1) => some (p.addrs ++ rest, c1, b1)
      | none => none
    | none => none

theorem tryPush_spec {osz : OpSize} {vs : List Slot} {c : Cpu} {b : Bus} {as : List Nat} {c1 : Cpu} {b1 : Bus}
    (h : tryPush osz vs c b = some (as, c1, b1)) : Pushes osz vs c b as c1 b1 := by
  induction vs generalizing c b as with
  | nil => cases h; exact ⟨rfl, rfl, rfl⟩
  | cons v vs ih =>
    unfold tryPush at h
    split at h
    · next p b2 h1 =>
      split at h
      · next rest c2 b3 h2 => cases h; exact ⟨p, b2, rest, tryWrite_spec h1, ih h2, rfl⟩
      · cases h
    · cases h

/-- An access ends well, and what follows it passes a test. -/
def thenB {α : Type} (x : B α) (c : Cpu) (b : Bus) (k : α → Bus → Bool) : Bool :=
  match x c b with
  | .ok v b1 => k v b1
  | .error _ _ => false

theorem thenB_spec {α : Type} {x : B α} {c : Cpu} {b : Bus} {k : α → Bus → Bool} (h : thenB x c b k = true) :
    ∃ v b1, x c b = .ok v b1 ∧ k v b1 = true := by
  unfold thenB at h
  cases hx : x c b with
  | ok v b1 => rw [hx] at h; exact ⟨v, b1, rfl, h⟩
  | error e b1 => rw [hx] at h; cases h

/-- A computation ends well, and what follows it passes a test. -/
def thenM {α : Type} (x : M α) (s : State) (k : α → State → Bool) : Bool :=
  match x s with
  | .ok v t => k v t
  | .error _ _ => false

theorem thenM_spec {α : Type} {x : M α} {s : State} {k : α → State → Bool} (h : thenM x s k = true) :
    ∃ v t, x s = .ok v t ∧ k v t = true := by
  unfold thenM at h
  cases hx : x s with
  | ok v t => rw [hx] at h; exact ⟨v, t, rfl, h⟩
  | error e t => rw [hx] at h; cases h

/-- Slots can be pushed, and what follows passes a test. -/
def thenPush (osz : OpSize) (vs : List Slot) (c : Cpu) (b : Bus) (k : Cpu → Bus → Bool) : Bool :=
  match tryPush osz vs c b with
  | some (_, c1, b1) => k c1 b1
  | none => false

theorem thenPush_spec {osz : OpSize} {vs : List Slot} {c : Cpu} {b : Bus} {k : Cpu → Bus → Bool}
    (h : thenPush osz vs c b k = true) : ∃ as c1 b1, Pushes osz vs c b as c1 b1 ∧ k c1 b1 = true := by
  unfold thenPush at h
  cases hx : tryPush osz vs c b with
  | some r => rw [hx] at h; exact ⟨r.1, r.2.1, r.2.2, tryPush_spec hx, h⟩
  | none => rw [hx] at h; cases h

theorem pushes_of {osz : OpSize} {vs : List Slot} {c : Cpu} {b : Bus}
    (h : thenPush osz vs c b (fun _ _ => true) = true) : ∃ as c1 b1, Pushes osz vs c b as c1 b1 := by
  obtain ⟨as, c1, b1, h1, -⟩ := thenPush_spec h
  exact ⟨as, c1, b1, h1⟩

/-- A computation ends in a value and a state. -/
def yields {ε σ α : Type} [DecidableEq σ] [DecidableEq α] (r : EStateM.Result ε σ α) (v : α) (t : σ) : Bool :=
  match r with
  | .ok w u => decide (w = v) && decide (u = t)
  | .error _ _ => false

theorem yields_spec {ε σ α : Type} [DecidableEq σ] [DecidableEq α] {r : EStateM.Result ε σ α} {v : α} {t : σ}
    (h : yields r v t = true) : r = .ok v t := by
  cases r with
  | ok w u =>
    simp only [yields, Bool.and_eq_true, decide_eq_true_eq] at h
    rw [h.1, h.2]
  | error e u => cases h

/-! Ill-formed terms: one for each check of `Sys2Proof/WellFormed.lean`. -/

theorem test_wf_refuses_bp_without_displacement :
    Instr.wf (.lea .w16 .eax ⟨none, .base16 .bp .none⟩) = false := by decide
theorem test_wf_refuses_esp_without_sib : Instr.wf (.movRRm .w32 .eax (.mem ⟨none, .base32 .esp .none⟩)) = false := by
  decide
theorem test_wf_refuses_ebp_without_displacement :
    Instr.wf (.pushRm .w32 (.mem ⟨some .ds, .base32 .ebp .none⟩)) = false := by decide
theorem test_wf_refuses_index_esp : Instr.wf (.invlpg ⟨none, .sib 0#2 (some .esp) .eax .none⟩) = false := by decide
theorem test_wf_refuses_sib_base_ebp_without_displacement :
    Instr.wf (.fxsave ⟨none, .sib 0#2 none .ebp .none⟩) = false := by decide
theorem test_wf_refuses_index_esp_without_base :
    Instr.wf (.lgdt .w32 ⟨none, .sibNoBase 0#2 (some .esp) 0#32⟩) = false := by decide
theorem test_wf_refuses_lock_of_register : Instr.wf (.addRmR true .w32 (.reg .eax) .ecx) = false := by decide
theorem test_wf_refuses_lock_of_byte_register : Instr.wf (.incRm8 true (.reg .al)) = false := by decide

/-! Decoding. -/

/-- Each word decodes to its instruction. -/
def decodes (l : List (Nat × Nat × Instr)) : Bool := l.all fun (n, w, i) => decodeTableWord n w == some i
theorem test_decode_system : decodes [
    (24, 0x00010F, .sgdt .w16 ⟨none, .base16 .bxsi .none⟩),
    (48, 0x12340E010F66, .sidt .w32 ⟨none, .abs16 0x1234#16⟩),
    (32, 0xFE56010F, .lgdt .w16 ⟨none, .base16 .bp (.d8 0xFE#8)⟩),
    (48, 0x80109F010F66, .lidt .w32 ⟨none, .base16 .bx (.d16 0x8010#16)⟩),
    (24, 0x25010F, .smsw .w16 (.mem ⟨none, .base16 .di .none⟩)),
    (32, 0x7F73010F, .lmsw (.mem ⟨none, .base16 .bpdi (.d8 0x7F#8)⟩)),
    (48, 0x123406000F66, .sldt .w32 (.mem ⟨none, .abs16 0x1234#16⟩)),
    (32, 0xFE4E000F, .str .w16 (.mem ⟨none, .base16 .bp (.d8 0xFE#8)⟩)),
    (24, 0xD1000F, .lldt (.reg .ecx)),
    (40, 0x80109F000F, .ltr (.mem ⟨none, .base16 .bx (.d16 0x8010#16)⟩)),
    (16, 0x060F, .clts),
    (16, 0x090F, .wbinvd),
    (16, 0x0B0F, .ud2),
    (16, 0x300F, .wrmsr),
    (16, 0x310F, .rdtsc),
    (16, 0x320F, .rdmsr),
    (16, 0x330F, .rdpmc),
    (16, 0xA20F, .cpuid),
    (16, 0xAA0F, .rsm),
    (8, 0xF4, .hlt),
    (8, 0xFA, .cli),
    (8, 0xFB, .sti)] = true := by decide +kernel

theorem test_decode_io : decodes [
    (24, 0x38010F, .invlpg ⟨none, .base16 .bxsi .none⟩),
    (16, 0x080F, .invd),
    (16, 0x9AE4, .inAlImm8 0x9A#8),
    (24, 0x9AE566, .inEaxImm8 .w32 0x9A#8),
    (16, 0x9AE6, .outImm8Al 0x9A#8),
    (24, 0x9AE766, .outImm8Eax .w32 0x9A#8),
    (8, 0xEC, .inAlDx),
    (16, 0xED66, .inEaxDx .w32),
    (8, 0xEE, .outDxAl),
    (16, 0xEF66, .outDxEax .w32)] = true := by decide +kernel

theorem test_decode_segment : decodes [
    (24, 0x25000F, .verr (.mem ⟨none, .base16 .di .none⟩)),
    (24, 0xEB000F, .verw (.reg .ebx)),
    (40, 0x7F73020F66, .lar .w32 .esi (.mem ⟨none, .base16 .bpdi (.d8 0x7F#8)⟩)),
    (24, 0x08030F, .lsl .w16 .ecx (.mem ⟨none, .base16 .bxsi .none⟩)),
    (32, 0x7F6BB20F, .lss .w16 .ebp ⟨none, .base16 .bpdi (.d8 0x7F#8)⟩),
    (32, 0x20B40F66, .lfs .w32 .esp ⟨none, .base16 .bxsi .none⟩),
    (40, 0x12340EB50F, .lgs .w16 .ecx ⟨none, .abs16 0x1234#16⟩),
    (24, 0xFE6663, .arpl (.mem ⟨none, .base16 .bp (.d8 0xFE#8)⟩) .esp),
    (32, 0x7F5BC466, .les .w32 .ebx ⟨none, .base16 .bpdi (.d8 0x7F#8)⟩),
    (16, 0x18C5, .lds .w16 .ebx ⟨none, .base16 .bxsi .none⟩)] = true := by decide +kernel

theorem test_decode_move : decodes [
    (24, 0xC2200F, .movRCr 0#3 .edx),
    (24, 0xD2210F, .movRDr 2#3 .edx),
    (24, 0xDC220F, .movCrR 3#3 .esp),
    (24, 0xC3230F, .movDrR 0#3 .ebx),
    (16, 0x2D86, .xchgRm8R8 false (.mem ⟨none, .base16 .di .none⟩) .ch),
    (32, 0x7F4387F0, .xchgRmR true .w16 (.mem ⟨none, .base16 .bpdi (.d8 0x7F#8)⟩) .eax),
    (16, 0xCC88, .movRm8R8 (.reg .ah) .cl),
    (16, 0x1089, .movRmR .w16 (.mem ⟨none, .base16 .bxsi .none⟩) .edx),
    (32, 0x12341E8A, .movR8Rm8 .bl (.mem ⟨none, .abs16 0x1234#16⟩)),
    (16, 0xDB8B, .movRRm .w16 .ebx (.reg .ebx)),
    (32, 0xFE668C66, .movRmSreg .w32 (.mem ⟨none, .base16 .bp (.d8 0xFE#8)⟩) 4#3),
    (32, 0x80109F8D, .lea .w16 .ebx ⟨none, .base16 .bx (.d16 0x8010#16)⟩),
    (16, 0xD88E, .movSregRm 3#3 (.reg .eax)),
    (8, 0x90, .nop),
    (8, 0x95, .xchgEaxR .w16 .ebp),
    (16, 0x9AB5, .movR8Imm8 .ch 0x9A#8),
    (24, 0x1234BB, .movRImm .ebx (.i16 0x1234#16)),
    (40, 0x9A123406C6, .movRm8Imm8 (.mem ⟨none, .abs16 0x1234#16⟩) 0x9A#8),
    (40, 0x1234FE46C7, .movRmImm (.mem ⟨none, .base16 .bp (.d8 0xFE#8)⟩) (.i16 0x1234#16))] = true := by decide +kernel

theorem test_decode_fpu_sse : decodes [
    (16, 0x770F, .emms),
    (40, 0x123406AE0F, .fxsave ⟨none, .abs16 0x1234#16⟩),
    (32, 0xFE4EAE0F, .fxrstor ⟨none, .base16 .bp (.d8 0xFE#8)⟩),
    (40, 0x801097AE0F, .ldmxcsr ⟨none, .base16 .bx (.d16 0x8010#16)⟩),
    (24, 0x1DAE0F, .stmxcsr ⟨none, .base16 .di .none⟩),
    (24, 0xF8AE0F, .sfence),
    (8, 0x9B, .wait),
    (16, 0xE3DB, .fninit)] = true := by decide +kernel

theorem test_decode_control : decodes [
    (32, 0x12348C0F, .jccRel .l (.i16 0x1234#16)),
    (32, 0x12343E62, .bound .w16 .edi ⟨none, .abs16 0x1234#16⟩),
    (16, 0x9A7C, .jccRel8 .w16 .l 0x9A#8),
    (64, 0xABCD123456789A66, .callFarPtr (.p32 0x12345678#32 0xABCD#16)),
    (32, 0x1234C266, .retNearImm .w32 0x1234#16),
    (8, 0xC3, .retNear .w16),
    (32, 0x1234CA66, .retFarImm .w32 0x1234#16),
    (8, 0xCB, .retFar .w16),
    (8, 0xCC, .int3),
    (16, 0x9ACD, .intN 0x9A#8),
    (8, 0xCE, .into),
    (8, 0xCF, .iret .w16),
    (24, 0x1234E8, .callRel (.i16 0x1234#16)),
    (48, 0x12345678E966, .jmpRel (.i32 0x12345678#32)),
    (40, 0xABCD1234EA, .jmpFarPtr (.p16 0x1234#16 0xABCD#16)),
    (24, 0x9AEB66, .jmpRel8 .w32 0x9A#8),
    (24, 0x15FF66, .callRm .w32 (.mem ⟨none, .base16 .di .none⟩)),
    (24, 0x7F5BFF, .callFarMem .w16 ⟨none, .base16 .bpdi (.d8 0x7F#8)⟩),
    (24, 0x20FF66, .jmpRm .w32 (.mem ⟨none, .base16 .bxsi .none⟩)),
    (32, 0x12342EFF, .jmpFarMem .w16 ⟨none, .abs16 0x1234#16⟩)] = true := by decide +kernel

theorem test_decode_stack : decodes [
    (24, 0xA00F66, .pushFs .w32),
    (16, 0xA10F, .popFs .w16),
    (16, 0xA80F, .pushGs .w16),
    (24, 0xA90F66, .popGs .w32),
    (8, 0x06, .pushEs .w16),
    (16, 0x0766, .popEs .w32),
    (16, 0x0E66, .pushCs .w32),
    (8, 0x16, .pushSs .w16),
    (16, 0x1766, .popSs .w32),
    (8, 0x1E, .pushDs .w16),
    (16, 0x1F66, .popDs .w32),
    (8, 0x53, .pushR .w16 .ebx),
    (16, 0x5B66, .popR .w32 .ebx),
    (24, 0x123468, .pushImm (.i16 0x1234#16)),
    (24, 0x9A6A66, .pushImm8 .w32 0x9A#8),
    (16, 0x058F, .popRm .w16 (.mem ⟨none, .base16 .di .none⟩)),
    (16, 0x9C66, .pushf .w32),
    (8, 0x9D, .popf .w16),
    (24, 0xF6FF66, .pushRm .w32 (.reg .esi))] = true := by decide +kernel

theorem test_decode_add : decodes [
    (24, 0xFE5600, .addRm8R8 false (.mem ⟨none, .base16 .bp (.d8 0xFE#8)⟩) .dl),
    (40, 0x80109701F0, .addRmR true .w16 (.mem ⟨none, .base16 .bx (.d16 0x8010#16)⟩) .edx),
    (16, 0xF002, .addR8Rm8 .dh (.reg .al)),
    (16, 0x2D03, .addRRm .w16 .ebp (.mem ⟨none, .base16 .di .none⟩)),
    (16, 0x9A04, .addAlImm8 0x9A#8),
    (24, 0x123405, .addEaxImm (.i16 0x1234#16)),
    (32, 0x9A7F4380, .addRm8Imm8 false (.mem ⟨none, .base16 .bpdi (.d8 0x7F#8)⟩) 0x9A#8),
    (40, 0x12340081F0, .addRmImm true (.mem ⟨none, .base16 .bxsi .none⟩) (.i16 0x1234#16)),
    (32, 0x9AC18366, .addRmImm8 false .w32 (.reg .ecx) 0x9A#8)] = true := by decide +kernel

theorem test_decode_logic_sub : decodes [
    (16, 0xC408, .orRm8R8 false (.reg .ah) .al),
    (40, 0x1234260966, .orRmR false .w32 (.mem ⟨none, .abs16 0x1234#16⟩) .esp),
    (24, 0xFE6E0A, .orR8Rm8 .ch (.mem ⟨none, .base16 .bp (.d8 0xFE#8)⟩)),
    (24, 0xFD0B66, .orRRm .w32 .edi (.reg .ebp)),
    (16, 0x9A0C, .orAlImm8 0x9A#8),
    (48, 0x123456780D66, .orEaxImm (.i32 0x12345678#32)),
    (24, 0x9AC880, .orRm8Imm8 false (.reg .al) 0x9A#8),
    (72, 0x1234567880108F8166, .orRmImm false (.mem ⟨none, .base16 .bx (.d16 0x8010#16)⟩) (.i32 0x12345678#32)),
    (32, 0x9A0D83F0, .orRmImm8 true .w16 (.mem ⟨none, .base16 .di .none⟩) 0x9A#8),
    (32, 0x7F5320F0, .andRm8R8 true (.mem ⟨none, .base16 .bpdi (.d8 0x7F#8)⟩) .dl),
    (24, 0xF42166, .andRmR false .w32 (.reg .esp) .esi),
    (16, 0x3022, .andR8Rm8 .dh (.mem ⟨none, .base16 .bxsi .none⟩)),
    (40, 0x1234362366, .andRRm .w32 .esi (.mem ⟨none, .abs16 0x1234#16⟩)),
    (16, 0x9A24, .andAlImm8 0x9A#8),
    (48, 0x123456782566, .andEaxImm (.i32 0x12345678#32)),
    (40, 0x9AFE6680F0, .andRm8Imm8 true (.mem ⟨none, .base16 .bp (.d8 0xFE#8)⟩) 0x9A#8),
    (56, 0x12345678E18166, .andRmImm false (.reg .ecx) (.i32 0x12345678#32)),
    (48, 0x9A8010A783F0, .andRmImm8 true .w16 (.mem ⟨none, .base16 .bx (.d16 0x8010#16)⟩) 0x9A#8),
    (16, 0x1D28, .subRm8R8 false (.mem ⟨none, .base16 .di .none⟩) .bl),
    (16, 0xC729, .subRmR false .w16 (.reg .edi) .eax),
    (24, 0x7F632A, .subR8Rm8 .ah (.mem ⟨none, .base16 .bpdi (.d8 0x7F#8)⟩)),
    (16, 0x002B, .subRRm .w16 .eax (.mem ⟨none, .base16 .bxsi .none⟩)),
    (16, 0x9A2C, .subAlImm8 0x9A#8),
    (24, 0x12342D, .subEaxImm (.i16 0x1234#16)),
    (40, 0x9A12342E80, .subRm8Imm8 false (.mem ⟨none, .abs16 0x1234#16⟩) 0x9A#8),
    (32, 0x1234EA81, .subRmImm false (.reg .edx) (.i16 0x1234#16)),
    (40, 0x9AFE6E8366, .subRmImm8 false .w32 (.mem ⟨none, .base16 .bp (.d8 0xFE#8)⟩) 0x9A#8),
    (40, 0x8010B730F0, .xorRm8R8 true (.mem ⟨none, .base16 .bx (.d16 0x8010#16)⟩) .dh),
    (24, 0xF63166, .xorRmR false .w32 (.reg .esi) .esi),
    (16, 0x3D32, .xorR8Rm8 .bh (.mem ⟨none, .base16 .di .none⟩)),
    (32, 0x7F433366, .xorRRm .w32 .eax (.mem ⟨none, .base16 .bpdi (.d8 0x7F#8)⟩)),
    (16, 0x9A34, .xorAlImm8 0x9A#8),
    (48, 0x123456783566, .xorEaxImm (.i32 0x12345678#32)),
    (32, 0x9A3080F0, .xorRm8Imm8 true (.mem ⟨none, .base16 .bxsi .none⟩) 0x9A#8),
    (56, 0x12345678F28166, .xorRmImm false (.reg .edx) (.i32 0x12345678#32)),
    (48, 0x9A12343683F0, .xorRmImm8 true .w16 (.mem ⟨none, .abs16 0x1234#16⟩) 0x9A#8)] = true := by decide +kernel

theorem test_decode_cmp : decodes [
    (24, 0xFE4638, .cmpRm8R8 (.mem ⟨none, .base16 .bp (.d8 0xFE#8)⟩) .al),
    (16, 0xC239, .cmpRmR .w16 (.reg .edx) .eax),
    (32, 0x8010AF3A, .cmpR8Rm8 .ch (.mem ⟨none, .base16 .bx (.d16 0x8010#16)⟩)),
    (16, 0x0D3B, .cmpRRm .w16 .ecx (.mem ⟨none, .base16 .di .none⟩)),
    (16, 0x9A3C, .cmpAlImm8 0x9A#8),
    (24, 0x12343D, .cmpEaxImm (.i16 0x1234#16)),
    (32, 0x9A7F7B80, .cmpRm8Imm8 (.mem ⟨none, .base16 .bpdi (.d8 0x7F#8)⟩) 0x9A#8),
    (32, 0x1234FD81, .cmpRmImm (.reg .ebp) (.i16 0x1234#16)),
    (32, 0x9A388366, .cmpRmImm8 .w32 (.mem ⟨none, .base16 .bxsi .none⟩) 0x9A#8)] = true := by decide +kernel

theorem test_decode_arith : decodes [
    (8, 0x43, .incR .w16 .ebx),
    (16, 0x4B66, .decR .w32 .ebx),
    (32, 0x8010A784, .testRm8R8 (.mem ⟨none, .base16 .bx (.d16 0x8010#16)⟩) .ah),
    (16, 0xD085, .testRmR .w16 (.reg .eax) .edx),
    (16, 0x9AA8, .testAlImm8 0x9A#8),
    (24, 0x1234A9, .testEaxImm (.i16 0x1234#16)),
    (40, 0x9A801087F6, .testRm8Imm8 (.mem ⟨none, .base16 .bx (.d16 0x8010#16)⟩) 0x9A#8),
    (16, 0xF7F6, .divRm8 (.reg .bh)),
    (16, 0x3DF6, .idivRm8 (.mem ⟨none, .base16 .di .none⟩)),
    (40, 0x12347F43F7, .testRmImm (.mem ⟨none, .base16 .bpdi (.d8 0x7F#8)⟩) (.i16 0x1234#16)),
    (24, 0xF0F766, .divRm .w32 (.reg .eax)),
    (16, 0x38F7, .idivRm .w16 (.mem ⟨none, .base16 .bxsi .none⟩)),
    (32, 0x123406FE, .incRm8 false (.mem ⟨none, .abs16 0x1234#16⟩)),
    (32, 0xFE4EFEF0, .decRm8 true (.mem ⟨none, .base16 .bp (.d8 0xFE#8)⟩)),
    (24, 0xC0FF66, .incRm false .w32 (.reg .eax)),
    (40, 0x80108FFFF0, .decRm true .w16 (.mem ⟨none, .base16 .bx (.d16 0x8010#16)⟩))] = true := by decide +kernel

/-- Addresses of 32 bits, with SIB bytes, and segment overrides, in a 16-bit segment (R465, R467). -/
theorem test_decode_addresses : decodes [
    (32, 0x0C048B67, .movRRm .w16 .eax (.mem ⟨none, .sib 0#2 (some .ecx) .esp .none⟩)),
    (40, 0x80468B6764, .movRRm .w16 .eax (.mem ⟨some .fs, .base32 .esi (.d8 0x80#8)⟩)),
    (64, 0x12345678B5048B67, .movRRm .w16 .eax (.mem ⟨none, .sibNoBase 2#2 (some .esi) 0x12345678#32⟩)),
    (40, 0x24048D6667, .lea .w32 .eax ⟨none, .sib 0#2 none .esp .none⟩),
    (56, 0x000020000D8B67, .movRRm .w16 .ecx (.mem ⟨none, .abs32 0x2000#32⟩)),
    (24, 0x048A26, .movR8Rm8 .al (.mem ⟨some .es, .base16 .si .none⟩))] = true := by decide +kernel

/-- Reserved and illegal bytes are refused, not read as a neighbour. -/
theorem test_decode_refuses : (decodeTableWord 8 0xD6 == none && decodeTableWord 16 0xFF0F == none
    && decodeTableWord 16 0xC0C4 == none && decodeTableWord 24 0xC801F0 == none) = true := by decide +kernel

/-! Single steps. The expected values are worked out by hand from the rules named. -/

/-- Memory operand at [EBX], which is 2000H. -/
def atEbx : MemOp := ⟨none, .base32 .ebx .none⟩

/-- R585: 64H + 7 = 6BH. -/
theorem test_add : leaves (exec (.addRmR false .w32 (.reg .eax) .ecx) real) fun t =>
    t.cpu.gpr.eax == 0x6B#32 && !t.cpu.fl.cf && t.cpu.eip == 0x102#32 := by decide +kernel
/-- R581: 64H + 9CH = 100H in a byte: 0, with carry. -/
theorem test_add_wraps : leaves (exec (.addAlImm8 0x9C#8) real) fun t =>
    t.cpu.gpr.eax == 0#32 && t.cpu.fl.cf && t.cpu.fl.zf && t.cpu.fl.af && !t.cpu.fl.of := by decide +kernel
/-- R588: 7 - 8, with an immediate byte. -/
theorem test_sub_borrows : leaves (exec (.subRmImm8 false .w32 (.reg .ecx) 8#8) real) fun t =>
    t.cpu.gpr.ecx == 0xFFFFFFFF#32 && t.cpu.fl.cf && t.cpu.fl.sf && !t.cpu.fl.zf := by decide +kernel
/-- R586, to memory: 03H OR 64H. -/
theorem test_or_memory : leaves (exec (.orRm8R8 true (.mem atEbx) .al) real) fun t =>
    t.bus.mem.read 0x2000 == 0x67#8 && t.bus.mem.read 0x2001 == 0#8 && !t.cpu.fl.cf := by decide +kernel
/-- R587: 64H AND 3CH. -/
theorem test_and : leaves (exec (.andAlImm8 0x3C#8) real) fun t => t.cpu.gpr.eax == 0x24#32 && t.cpu.fl.pf := by
  decide +kernel
/-- R589. -/
theorem test_xor_self : leaves (exec (.xorRmR false .w32 (.reg .eax) .eax) real) fun t =>
    t.cpu.gpr.eax == 0#32 && t.cpu.fl.zf && !t.cpu.fl.sf := by decide +kernel
/-- R590: 64H - 65H, nothing written. -/
theorem test_cmp : leaves (exec (.cmpRm8Imm8 (.reg .al) 0x65#8) real) fun t =>
    t.cpu.gpr == gprs && t.cpu.fl.cf && t.cpu.fl.sf := by decide +kernel
/-- R593: DEC of 0 in 16 bits; CF and the upper half stay. -/
theorem test_dec_keeps_cf : leaves (exec (.decR .w16 .edx) { real with cpu.fl.cf := true }) fun t =>
    t.cpu.gpr.edx == 0xFFFF#32 && t.cpu.fl.cf && t.cpu.fl.sf := by decide +kernel
/-- R592: 7FFFFFFFH + 1 overflows. -/
theorem test_inc_overflows : leaves (exec (.incRm false .w32 (.reg .eax)) { real with cpu.gpr.eax := 0x7FFFFFFF#32 })
    fun t => t.cpu.gpr.eax == 0x80000000#32 && t.cpu.fl.of && !t.cpu.fl.cf := by decide +kernel
/-- R591. -/
theorem test_test : leaves (exec (.testRm8Imm8 (.reg .al) 0x1B#8) real) fun t =>
    t.cpu.fl.zf && t.cpu.gpr == gprs := by decide +kernel
/-- R599, its example: 64H / 7 = 0EH remainder 2. -/
theorem test_div : leaves (exec (.divRm .w32 (.reg .ecx)) real) fun t =>
    t.cpu.gpr.eax == 0xE#32 && t.cpu.gpr.edx == 2#32 := by decide +kernel
/-- R599: division by 0 takes the exception of vector 0; no register changes. -/
theorem test_div_zero : leaves (exec (.divRm8 (.reg .dl)) real) fun t =>
    t.cpu.eip == 0#32 && t.cpu.gpr.eax == 0x64#32 && t.cpu.gpr.esp == 0xFFA#32 && t.bus.mem.read 0xFFB == 1#8 := by
  decide +kernel
/-- R602: -7 / 2 = -3 remainder -1. -/
theorem test_idiv : leaves (exec (.idivRm .w32 (.reg .ecx))
    { real with cpu.gpr := { gprs with eax := 0xFFFFFFF9#32, edx := 0xFFFFFFFF#32, ecx := 2#32 } }) fun t =>
    t.cpu.gpr.eax == 0xFFFFFFFD#32 && t.cpu.gpr.edx == 0xFFFFFFFF#32 := by decide +kernel
/-- R582: little-endian. -/
theorem test_mov_memory : leaves (exec (.movRmImm (.mem atEbx) (.i32 0x12345678#32)) real) fun t =>
    t.bus.mem.readBytes [0x2000, 0x2001, 0x2002, 0x2003] == [0x78#8, 0x56#8, 0x34#8, 0x12#8] := by decide +kernel
/-- R581: AH is bits 15:8, the rest stays. -/
theorem test_mov_high_byte : leaves (exec (.movR8Imm8 .ah 0xAB#8) real) fun t => t.cpu.gpr.eax == 0xAB64#32 := by
  decide +kernel
/-- R584, R468: BP + DI + 7FH, cut to 16 bits. -/
theorem test_lea : leaves (exec (.lea .w16 .eax ⟨none, .base16 .bpdi (.d8 0x7F#8)⟩) real) fun t =>
    t.cpu.gpr.eax == 0x508F#32 := by decide +kernel
/-- R598. -/
theorem test_xchg_memory : leaves (exec (.xchgRmR false .w16 (.mem atEbx) .eax) real) fun t =>
    t.cpu.gpr.eax == 3#32 && t.bus.mem.read 0x2000 == 0x64#8 := by decide +kernel
/-- R594, its example: the doubleword goes to 0FFCH. -/
theorem test_push : leaves (exec (.pushR .w32 .eax) prot) fun t =>
    t.cpu.gpr.esp == 0xFFC#32 && t.bus.mem.read 0xFFC == 0x64#8 := by decide +kernel
/-- R594: the value of ESP before. -/
theorem test_push_esp : leaves (exec (.pushR .w32 .esp) prot) fun t => t.bus.mem.read 0xFFD == 0x10#8 := by
  decide +kernel
/-- R595: the address of the destination is computed after the increment. -/
theorem test_pop_to_stack : leaves (exec (.popRm .w32 (.mem ⟨none, .sib 0#2 none .esp .none⟩)) prot) fun t =>
    t.cpu.gpr.esp == 0x1004#32 && t.bus.mem.read 0x1004 == 0x40#8 := by decide +kernel
/-- R595. -/
theorem test_pop_esp : leaves (exec (.popR .w32 .esp) prot) fun t => t.cpu.gpr.esp == 0x40#32 := by decide +kernel
/-- R596. -/
theorem test_nop : leaves (exec .nop real) fun t => t == real.past := by decide +kernel
/-- R597, its example: JNZ at offset 10H with displacement -3 goes to 0FH. -/
theorem test_jnz : leaves (exec (.jccRel8 .w16 .ne 0xFD#8) { real with cpu.nextEip := 0x12#32 }) fun t =>
    t.cpu.eip == 0xF#32 := by decide +kernel
/-- R610: a 16-bit target wraps. -/
theorem test_jmp_wraps : leaves (exec (.jmpRel8 .w16 0x80#8) { real with cpu.nextEip := 0x10#32 }) fun t =>
    t.cpu.eip == 0xFF90#32 := by decide +kernel
/-- R612. -/
theorem test_call : leaves (exec (.callRel (.i16 0x10#16)) real) fun t =>
    t.cpu.eip == 0x112#32 && t.cpu.gpr.esp == 0xFFE#32 && t.bus.mem.read 0xFFE == 2#8 && t.bus.mem.read 0xFFF == 1#8 := by
  decide +kernel
/-- R613. -/
theorem test_ret : leaves (exec (.retNearImm .w16 6#16) real) fun t =>
    t.cpu.eip == 0x40#32 && t.cpu.gpr.esp == 0x1008#32 := by decide +kernel
/-- R645. -/
theorem test_far_jump : leaves (exec (.jmpFarPtr (.p16 0x20#16 0x1234#16)) real) fun t =>
    t.cpu.eip == 0x20#32 && t.cpu.seg.cs.sel == 0x1234#16 && t.cpu.seg.cs.base == 0x12340#32 := by decide +kernel
/-- R616: a far call in protected mode. -/
theorem test_far_call : leaves (exec (.callFarPtr (.p32 0x20#32 8#16)) prot) fun t =>
    t.cpu.eip == 0x20#32 && t.cpu.gpr.esp == 0xFF8#32 && t.cpu.seg.cs.typ == 11#4 := by decide +kernel
/-- R645. -/
theorem test_far_return : leaves (exec (.retFar .w16) real) fun t =>
    t.cpu.eip == 0x40#32 && t.cpu.seg.cs.base == 0x8000#32 && t.cpu.gpr.esp == 0x1004#32 := by decide +kernel
/-- R634, R806: INT 21H through the table at 0. -/
theorem test_int : leaves (exec (.intN 0x21#8) { real with cpu.fl.if_ := true }) fun t =>
    t.cpu.eip == 0x50#32 && t.cpu.seg.cs.sel == 0x900#16 && !t.cpu.fl.if_
      && t.bus.mem.readBytes [0xFFA, 0xFFB, 0xFFC, 0xFFD, 0xFFE, 0xFFF] == [2#8, 1#8, 0#8, 8#8, 2#8, 2#8] := by
  decide +kernel
/-- R910: the same through an interrupt gate. -/
theorem test_int_gate : leaves (exec (.intN 0x21#8) { prot with cpu.fl.if_ := true }) fun t =>
    t.cpu.eip == 0x400#32 && !t.cpu.fl.if_ && t.cpu.gpr.esp == 0xFF4#32 := by decide +kernel
/-- R910: from level 3 to level 0, on the stack of the TSS. -/
theorem test_int_inner : leaves (exec (.intN 0x21#8) user) fun t =>
    t.cpu.cpl == 0#2 && t.cpu.seg.ss.sel == 0x10#16 && t.cpu.gpr.esp == 0xEEC#32 := by decide +kernel
/-- R636: INTO with OF = 0 goes on. -/
theorem test_into : leaves (exec .into real) fun t => t == real.past := by decide +kernel
/-- R808. -/
theorem test_iret : leaves (exec (.iret .w16) real) fun t =>
    t.cpu.eip == 0x40#32 && t.cpu.seg.cs.sel == 0x800#16 && t.cpu.fl.if_ && t.cpu.gpr.esp == 0x1006#32 := by
  decide +kernel
/-- R637: 64H lies outside 3 .. 5, so #BR, vector 5. -/
theorem test_bound_outside : leaves (exec (.bound .w16 .eax atEbx) real) fun t =>
    t.cpu.notes.faulted && t.cpu.gpr.esp == 0xFFA#32 := by decide +kernel
/-- R561: in real-address mode the base is 16 times the selector. -/
theorem test_mov_to_segment : leaves (exec (.movSregRm 3#3 (.reg .eax)) { real with cpu.gpr.eax := 0x1234#32 }) fun t =>
    t.cpu.seg.ds.sel == 0x1234#16 && t.cpu.seg.ds.base == 0x12340#32 := by decide +kernel
/-- R905: MOV SS holds off interrupts. -/
theorem test_mov_ss_shadow : leaves (exec (.movSregRm 2#3 (.reg .edx)) real) fun t => t.cpu.hid.ssShadow := by
  decide +kernel
/-- R562. -/
theorem test_mov_from_segment : leaves (exec (.movRmSreg .w32 (.reg .eax) 1#3) real) fun t =>
    t.cpu.gpr.eax == 0x800#32 := by decide +kernel
/-- R563, R560: the accessed bit is set in memory. -/
theorem test_pop_segment : leaves (exec (.popDs .w32) { prot with cpu.gpr.esp := 0x5008#32 }) fun t =>
    t.cpu.seg.ds.sel == 0x10#16 && t.bus.mem.read 0x8015 == 0x93#8 && t.cpu.gpr.esp == 0x500C#32 := by decide +kernel
/-- R564. -/
theorem test_push_segment : leaves (exec (.pushCs .w16) real) fun t =>
    t.bus.mem.read 0xFFF == 8#8 && t.cpu.gpr.esp == 0xFFE#32 := by decide +kernel
/-- R565. -/
theorem test_les : leaves (exec (.les .w16 .edi ⟨none, .abs16 0x84#16⟩) real) fun t =>
    t.cpu.seg.es.sel == 0x900#16 && t.cpu.gpr.edi == 0x50#32 := by decide +kernel
/-- R570: a data descriptor is visible, an interrupt gate's index is not in the table. -/
theorem test_lar : (leaves (exec (.lar .w32 .eax (.reg .ebx)) { prot with cpu.gpr.ebx := 0x10#32 }) (·.cpu.fl.zf)
    && leaves (exec (.lar .w32 .eax (.reg .ebx)) { prot with cpu.gpr.ebx := 0x40#32 }) fun t => !t.cpu.fl.zf) = true := by
  decide +kernel
/-- R570, its example: the access rights of a flat data descriptor, without the open bits. -/
theorem test_lar_value : (Desc.larValue ⟨0#32, 0xFFFF#32, 0x00CF9200#32⟩ 0#32) = 0x00C09200#32 := by decide
/-- R571. -/
theorem test_lsl : leaves (exec (.lsl .w32 .eax (.reg .ebx)) { prot with cpu.gpr.ebx := 0x28#32 }) fun t =>
    t.cpu.gpr.eax == 0x67#32 && t.cpu.fl.zf := by decide +kernel
/-- R573: code is not writable. -/
theorem test_verw : leaves (exec (.verw (.reg .ecx)) { prot with cpu.gpr.ecx := 8#32 }) fun t => !t.cpu.fl.zf := by
  decide +kernel
/-- R572. -/
theorem test_verr : leaves (exec (.verr (.reg .ecx)) { prot with cpu.gpr.ecx := 8#32 }) fun t => t.cpu.fl.zf := by
  decide +kernel
/-- R574: RPL 0 of AX is raised to that of CX, 3. -/
theorem test_arpl : leaves (exec (.arpl (.reg .eax) .ecx) prot) fun t =>
    t.cpu.gpr.eax == 0x67#32 && t.cpu.fl.zf := by decide +kernel
/-- R482: 24 bits of the base with a 16-bit operand size. -/
theorem test_lgdt : leaves (exec (.lgdt .w16 atEbx)
    { real with bus.mem := memory [dword 0x2000 0x567800FF, dword 0x2004 0x1234] }) fun t =>
    t.cpu.gdtr == { base := 0x00345678#32, limit := 0xFF#16 } := by decide +kernel
/-- R485. -/
theorem test_sidt : leaves (exec (.sidt .w32 atEbx) prot) fun t =>
    t.bus.mem.readBytes [0x2000, 0x2001, 0x2002, 0x2003] == [0xFF#8, 7#8, 0#8, 0x90#8] := by decide +kernel
/-- R488: LTR marks the TSS busy. -/
theorem test_ltr : leaves (exec (.ltr (.reg .ecx)) { prot with cpu.gpr.ecx := 0x28#32 }) fun t =>
    t.cpu.tr.base == 0x5000#32 && t.cpu.tr.typ == 11#4 && t.bus.mem.read 0x802D == 0x8B#8 := by decide +kernel
/-- R486. -/
theorem test_lldt : leaves (exec (.lldt (.reg .ecx)) { prot with cpu.gpr.ecx := 0x30#32 }) fun t =>
    t.cpu.ldtr.base == 0x6000#32 && t.cpu.ldtr.limit == 7#32 := by decide +kernel
/-- R487, R489. -/
theorem test_str : leaves (exec (.str .w16 (.reg .eax)) prot) fun t => t.cpu.gpr.eax == 0x28#32 := by decide +kernel
/-- R491: PG without PE is refused: #GP, vector 13, whose gate is at offset 500H. -/
theorem test_mov_cr0_refused : leaves (exec (.movCrR 0#3 .eax) { prot with cpu.gpr.eax := 0x80000000#32 }) fun t =>
    t.cpu.eip == 0x500#32 && t.cpu.ctl.cr0 == 0x60000011#32 && t.cpu.gpr.esp == 0xFF0#32 := by decide +kernel
/-- R492, its example: after reset CR0 reads 60000010H. -/
theorem test_mov_from_cr0 : leaves (exec (.movRCr 0#3 .eax) State.reset) fun t => t.cpu.gpr.eax == 0x60000010#32 := by
  decide +kernel
/-- R506: LMSW cannot clear PE. -/
theorem test_lmsw : leaves (exec (.lmsw (.reg .esi)) { prot with cpu.gpr.esi := 8#32 }) fun t =>
    t.cpu.ctl.cr0 == 0x60000019#32 := by decide +kernel
/-- R507. -/
theorem test_smsw : leaves (exec (.smsw .w16 (.reg .eax)) prot) fun t => t.cpu.gpr.eax == 0x11#32 := by decide +kernel
/-- R508, R481: CLTS at level 3 raises #GP(0). -/
theorem test_clts_user : leaves (exec .clts user) fun t => t.cpu.eip == 0x500#32 && t.cpu.cpl == 0#2 := by
  decide +kernel
/-- R512. -/
theorem test_invlpg : ends (exec (.invlpg atEbx) prot) = true := by decide +kernel
/-- R513. -/
theorem test_wbinvd : leaves (exec .wbinvd prot) fun t => t.bus.mem == prot.bus.mem := by decide +kernel
/-- R520: the APIC base after reset. -/
theorem test_rdmsr : leaves (exec .rdmsr { real with cpu.gpr.ecx := 0x1B#32 }) fun t =>
    t.cpu.gpr.eax == 0xFEE00900#32 && t.cpu.gpr.edx == 0#32 := by decide +kernel
/-- R521, R402: MTRRdefType. -/
theorem test_wrmsr : leaves (exec .wrmsr { real with cpu.gpr := { gprs with ecx := 0x2FF#32, eax := 0xC06#32 } }) fun t =>
    t.cpu.msr.mtrrDefType == 0xC06#64 := by decide +kernel
/-- R530. -/
theorem test_hlt : leaves (exec .hlt prot) fun t => t.cpu.hid.run == .halted && t.cpu.eip == 0x102#32 := by
  decide +kernel
/-- R533: GenuineIntel. -/
theorem test_cpuid : leaves (exec .cpuid { real with cpu.gpr.eax := 0#32 }) fun t =>
    t.cpu.gpr.ebx == 0x756E6547#32 && t.cpu.gpr.edx == 0x49656E69#32 && t.cpu.gpr.ecx == 0x6C65746E#32 := by
  decide +kernel
/-- R540. -/
theorem test_sti : leaves (exec .sti real) fun t => t.cpu.fl.if_ && t.cpu.hid.stiShadow := by decide +kernel
/-- R541 in virtual-8086 mode with VME: VIF. -/
theorem test_cli_v86 : leaves (exec .cli { v86 with cpu.fl.vif := true }) fun t => !t.cpu.fl.vif := by decide +kernel
/-- R542: at level 3 with IOPL 0, IF and IOPL stay. -/
theorem test_popf_user : leaves (exec (.popf .w32)
    { user with cpu.fl.if_ := true, bus.mem := user.bus.mem.writeBytes [(0x1000, 0xD5#8), (0x1001, 0x30#8)] }) fun t =>
    t.cpu.fl.if_ && t.cpu.fl.iopl == 0#2 && t.cpu.fl.cf && t.cpu.fl.zf := by decide +kernel
/-- R543. -/
theorem test_pushf : leaves (exec (.pushf .w32) { prot with cpu.fl.rf := true }) fun t =>
    t.bus.mem.readBytes [0xFFC, 0xFFD, 0xFFE] == [2#8, 0#8, 0#8] := by decide +kernel
/-- R1222, its example. -/
theorem test_mov_dr0 : leaves (exec (.movDrR 0#3 .eax) { prot with cpu.gpr.eax := 0x000A0001#32 }) fun t =>
    t.cpu.dbg.dr0 == 0x000A0001#32 := by decide +kernel
/-- R1223: DR4 is DR6. -/
theorem test_mov_dr4 : leaves (exec (.movRDr 4#3 .eax) prot) fun t => t.cpu.gpr.eax == 0xFFFF0FF0#32 := by
  decide +kernel
/-- R1262, its example. -/
theorem test_rdtsc : leaves (exec .rdtsc { user with cpu.msr.tsc := 0x100000005#64 }) fun t =>
    t.cpu.gpr.edx == 1#32 && t.cpu.gpr.eax == 5#32 := by decide +kernel
/-- R1270. -/
theorem test_rdpmc : leaves (exec .rdpmc { prot with cpu.gpr.ecx := 1#32, cpu.msr.perfCtr1 := 0x8000000003#40 }) fun t =>
    t.cpu.gpr.edx == 0x80#32 && t.cpu.gpr.eax == 3#32 := by decide +kernel
/-- R773, its example. -/
theorem test_fninit : leaves (exec .fninit State.reset) fun t =>
    t.cpu.fpu.cw == 0x037F#16 && t.cpu.fpu.tw == 0xFFFF#16 := by decide +kernel
/-- R775, R747. -/
theorem test_emms : leaves (exec .emms real) fun t => t.cpu.fpu.tw == 0xFFFF#16 := by decide +kernel
/-- R772. -/
theorem test_ldmxcsr : leaves (exec (.ldmxcsr atEbx) { real32 with cpu.ctl.cr4 := 0x200#32 }) fun t =>
    t.cpu.sse.mxcsr == 5#32 := by decide +kernel
/-- R772. -/
theorem test_stmxcsr : leaves (exec (.stmxcsr atEbx) { real with cpu.ctl.cr4 := 0x200#32 }) fun t =>
    t.bus.mem.readBytes [0x2000, 0x2001, 0x2002] == [0x80#8, 0x1F#8, 0#8] := by decide +kernel
/-- R742: FXSAVE with TS raises #NM, vector 7. -/
theorem test_fxsave_nm : leaves (exec (.fxsave atEbx) { real with cpu.ctl.cr0 := 0x60000018#32 }) fun t =>
    t.cpu.notes.faulted && t.cpu.gpr.esp == 0xFFA#32 := by decide +kernel
/-- R774. -/
theorem test_wait : leaves (exec .wait real) fun t => t == real.past := by decide +kernel
/-- R745: with CR0.NE = 0 and IGNNE# deasserted a pending error holds WAIT up. -/
theorem test_wait_holds : leaves (exec .wait { real with cpu.fpu.sw := 0x80#16 }) fun t => t.cpu.eip == 0x100#32 := by
  decide +kernel
/-- R351. -/
theorem test_sfence : leaves (exec .sfence real) fun t => t == real.past := by decide +kernel
/-- R601. -/
theorem test_out : leaves (exec (.outImm8Al 0x80#8) real) fun t => t.bus.io == [(0x80#16, 1, some 0x64#32)] := by
  decide +kernel
/-- R600: the access is recorded; the answer is the device's. -/
theorem test_in : leaves (exec (.inEaxDx .w16) { real with cpu.gpr.edx := 0x3F8#32 }) fun t =>
    t.bus.io == [(0x3F8#16, 2, none)] := by decide +kernel
/-- R966: RSM outside SMM raises #UD, vector 6. -/
theorem test_rsm_outside : leaves (exec .rsm real) fun t => t.cpu.notes.faulted && t.cpu.gpr.esp == 0xFFA#32 := by
  decide +kernel
/-- R966. -/
theorem test_ud2 : leaves (exec .ud2 real) fun t => t.cpu.notes.faulted := by decide +kernel

/-! For each statement with hypotheses: a state and operands that meet them, clause by clause. -/

theorem witness_DecodeEncodeAgree : Instr.wf (.addRmR true .w32 (.mem ⟨some .gs, .sib 3#2 none .ebp (.d8 0#8)⟩) .edi) = true
    ∧ Instr.wf (.jmpFarPtr (.p32 0xFFFFFFFF#32 0xFFFF#16)) = true := by decide

theorem legal_real : real.Legal :=
  ⟨⟨by unfold Cr0Fixed; decide, fun _ => by unfold Cr0PagingProtected; decide, by unfold Cr4Legal; decide,
    by unfold Dr7Legal; decide, by unfold MxcsrLegal; decide, fun v h => by cases h⟩, by decide +kernel⟩

theorem coherent_real : Cr0CachesCoherent real.cpu.ctl.cr0 := by unfold Cr0CachesCoherent; decide

theorem cr0_legal_real : Cr0Legal real.cpu.ctl.cr0 := ⟨legal_real.1.1, legal_real.1.2.1 rfl, coherent_real⟩

theorem witness_StepKeepsLegal :
    ∃ t, real.Legal ∧ step real = .next t ∧ real.cpu.smm.inSmm = false ∧ Cr0CachesCoherent real.cpu.ctl.cr0 := by
  obtain ⟨t, h⟩ := ends_spec (o := step real) (by decide +kernel)
  exact ⟨t, legal_real, h, rfl, coherent_real⟩

/-- The start of the step of `real`, where NOP stands. -/
def started : State := { real with cpu := real.cpu.clearNotes }

theorem witness_StepRunsDecodedInstruction :
    let c := { started.cpu with notes.ioEip := none }
    look real = .ok .instruction started ∧ checkBreakpoints c started.bus = .ok () started.bus
      ∧ c.virtualPending = false ∧ fetchNext c started.bus = .ok (.nop, 1) started.bus := by
  exact ⟨yields_spec (by decide +kernel), yields_spec (by decide +kernel), by decide +kernel, yields_spec (by decide +kernel)⟩

/-- Protected mode in a 16-bit code segment whose limit is that of a 32-bit one. -/
def narrow : State := { prot with cpu.seg.cs.db := false }

/-- A byte in the segment; an offset beyond the limit, and one within the limit of a 16-bit segment but above FFFFH. -/
theorem witness_FetchReadsCode : real.cpu.direct real.bus = true ∧ real.bus.stale = [] ∧ real.bus.oldPg = false
    ∧ Decode.decode real.cpu.d [0x90#8] = .ok .nop 1 ∧ real.cpu.eip.toNat + 1 ≤ real.cpu.seg.cs.limit.toNat + 1
    ∧ (∀ k, k < 1 →
      let a := (real.cpu.seg.cs.linear (real.cpu.eip + BitVec.ofNat 32 k)).toNat
      ¬(Apic.enabled real.cpu = true ∧ a / 4096 = Apic.page real.cpu) ∧ real.bus.mem.read a = [0x90#8].getD k 0#8)
    ∧ real.cpu.seg.cs.limit.toNat < ({ real.cpu with eip := 0x10000#32 } : Cpu).eip.toNat
    ∧ narrow.cpu.prot = true ∧ narrow.cpu.seg.cs.db = false ∧ narrow.cpu.eip.toNat + 1 ≤ 0x10000
    ∧ (0xFFFF < (0x10000#32).toNat ∧ (0x10000#32).toNat ≤ narrow.cpu.seg.cs.limit.toNat) :=
  ⟨by decide +kernel, rfl, rfl, rfl, by decide, by decide +kernel, by decide, rfl, rfl, by decide, by decide⟩

/-- The operands of ALU, TEST, MOV, JMP and CALL can be read, in a register and in memory. -/
theorem readable_operands : (∃ y b1, readRm8 (.mem atEbx) real.past = .ok y { real.past with bus := b1 })
    ∧ (∃ y b1, readRm .w16 (.mem atEbx) real.past = .ok y { real.past with bus := b1 })
    ∧ (∃ y b1, readRm .w32 (.mem atEbx) real.past = .ok y { real.past with bus := b1 })
    ∧ readRm .w32 (.reg .ecx) real.past = .ok 7#32 real.past := by
  refine ⟨?_, ?_, ?_, rfl⟩
  · obtain ⟨y, b1, h, -⟩ := okM_spec (x := readRm8 (.mem atEbx)) (s := real.past) (p := fun _ => true) (by decide +kernel)
    exact ⟨y, b1, h⟩
  · obtain ⟨y, b1, h, -⟩ := okM_spec (x := readRm .w16 (.mem atEbx)) (s := real.past) (p := fun _ => true) (by decide +kernel)
    exact ⟨y, b1, h⟩
  · obtain ⟨y, b1, h, -⟩ := okM_spec (x := readRm .w32 (.mem atEbx)) (s := real.past) (p := fun _ => true) (by decide +kernel)
    exact ⟨y, b1, h⟩

theorem witness_AluAndTestReadOperand : (∃ y b1, readRm8 (.mem atEbx) real.past = .ok y { real.past with bus := b1 })
    ∧ ∃ y b1, readRm .w32 (.mem atEbx) real.past = .ok y { real.past with bus := b1 } :=
  ⟨readable_operands.1, readable_operands.2.2.1⟩

theorem witness_AluWritesMemory : ∀ lock : Bool,
    (∃ p b2, Modifies lock real.past.cpu real.bus atEbx.segment (atEbx.off real.cpu) 3#8
      (Alu.xor.result 3#8 (real.cpu.gpr.get8 .al)) Alu.xor.frees p b2)
    ∧ ∃ p b2, Modifies lock real.past.cpu real.bus atEbx.segment (atEbx.off real.cpu) 0x00050003#32
      (Alu.sub.result 0x00050003#32 (real.cpu.gpr.getV .w32 .ecx)) Alu.sub.frees p b2 :=
  fun lock => by cases lock <;> exact ⟨modifies_of (by decide +kernel), modifies_of (by decide +kernel)⟩

theorem witness_AddSubFlagsFollowResult : 8 ≤ 8 ∧ 8 ≤ 16 ∧ 8 ≤ 32 := by decide

theorem witness_IncDecStepByOneKeepCarry : ∀ lock : Bool,
    (∃ p b2, Modifies lock real.past.cpu real.bus atEbx.segment (atEbx.off real.cpu) 3#16 (3#16 + 1#16) 0 p b2)
    ∧ (∃ p b2, Modifies lock real.past.cpu real.bus atEbx.segment (atEbx.off real.cpu) 3#16 (3#16 - 1#16) 0 p b2)
    ∧ (∃ p b2, Modifies lock real.past.cpu real.bus atEbx.segment (atEbx.off real.cpu) 3#8 (3#8 + 1#8) 0 p b2)
    ∧ ∃ p b2, Modifies lock real.past.cpu real.bus atEbx.segment (atEbx.off real.cpu) 3#8 (3#8 - 1#8) 0 p b2 :=
  fun lock => by
    cases lock <;> exact ⟨modifies_of (by decide +kernel), modifies_of (by decide +kernel), modifies_of (by decide +kernel),
      modifies_of (by decide +kernel)⟩

/-- 64H by 7, in bytes and in doublewords, where the divisor is not 0 and the quotients fit; a divisor 0; 700H by 7, which
is just too large for a byte, and 380H by 7, too large for a signed one. -/
theorem witness_DivideWritesQuotientOrRaisesDivideError :
    readRm8 (.reg .cl) real.past = .ok 7#8 real.past ∧ readRm .w32 (.reg .ecx) real.past = .ok 7#32 real.past
    ∧ 7#8 ≠ 0#8 ∧ (real.cpu.gpr.getV .w16 .eax).toNat / 7 < 2 ^ 8 ∧ (real.cpu.gpr.getV .w16 .eax).toInt.tdiv 7 < 2 ^ 7
    ∧ (real.cpu.gpr.getV .w32 .edx ++ real.cpu.gpr.getV .w32 .eax).toNat / 7 < 2 ^ 32
    ∧ readRm8 (.reg .dl) real.past = .ok 0#8 real.past ∧ readRm .w32 (.reg .edx) real.past = .ok 0#32 real.past
    ∧ ¬((0x700#16).toNat / (7#8).toNat < 2 ^ 8) ∧ (0x6FF#16).toNat / (7#8).toNat < 2 ^ 8
    ∧ ¬((0x380#16).toInt.tdiv (7#8).toInt < 2 ^ 7) ∧ (0x37F#16).toInt.tdiv (7#8).toInt < 2 ^ 7 :=
  ⟨rfl, rfl, by decide, by decide, by decide, by decide, rfl, rfl, by decide, by decide, by decide, by decide⟩

theorem witness_MovCopiesOperand : (∃ v b1, readRm8 (.mem atEbx) real.past = .ok v { real.past with bus := b1 })
    ∧ (∃ v b1, readRm .w32 (.mem atEbx) real.past = .ok v { real.past with bus := b1 })
    ∧ (∃ p b2, Writes real.past.cpu real.bus atEbx.segment (atEbx.off real.cpu) 1 0x64 p b2)
    ∧ ∃ p b2, Writes real.past.cpu real.bus atEbx.segment (atEbx.off real.cpu) 4 0xFFFFFFFF p b2 :=
  ⟨readable_operands.1, readable_operands.2.2.1, writes_of (by decide +kernel), writes_of (by decide +kernel)⟩

theorem witness_XchgSwapsOperands :
    (∃ p b2, Modifies true real.past.cpu real.bus atEbx.segment (atEbx.off real.cpu) 3#8 (real.cpu.gpr.get8 .ah) 0 p b2)
    ∧ ∃ p b2, Modifies true real.past.cpu real.bus atEbx.segment (atEbx.off real.cpu) 0x00050003#32
      (real.cpu.gpr.getV .w32 .esp) 0 p b2 :=
  ⟨modifies_of (by decide +kernel), modifies_of (by decide +kernel)⟩

/-- Slots below the stack pointer can be written; the top of the stack can be read, and popped into memory. -/
theorem witness_PushAndPopUseStackTop :
    (∃ as c1 b1, Pushes .w16 [.word ((real.cpu.gpr.getV .w16 .esp).setWidth 32)] real.past.cpu real.bus as c1 b1)
    ∧ (∃ as c1 b1, Pushes .w32 [.word 0xFFFFFFFF#32] prot.past.cpu prot.bus as c1 b1)
    ∧ (∃ v b1, readRm .w16 (.mem atEbx) real.past = .ok v { real.past with bus := b1 })
    ∧ (∃ as c1 b1, Pushes .w32 [.sel (prot.cpu.seg.get .cs).sel] prot.past.cpu prot.bus as c1 b1)
    ∧ (∃ v b1, memRead 16 .ss (real.cpu.stackOff real.cpu.gpr.esp) 2 real.past.cpu real.bus = .ok v b1)
    ∧ (∃ v b1, memRead 32 .ss (prot.cpu.stackOff prot.cpu.gpr.esp) 4 prot.past.cpu prot.bus = .ok v b1)
    ∧ ∃ p b2, Writes (real.past.cpu.setEsp (real.cpu.stackMove 2#32)) real.bus atEbx.segment
      (atEbx.off (real.past.cpu.setEsp (real.cpu.stackMove 2#32))) 2 0x40 p b2 :=
  ⟨pushes_of (by decide +kernel), pushes_of (by decide +kernel), readable_operands.2.1, pushes_of (by decide +kernel),
    okB_spec (by decide +kernel), okB_spec (by decide +kernel), writes_of (by decide +kernel)⟩

/-- A condition that holds and one that does not; a target at the limit of the segment, and one beyond it. -/
theorem witness_NearJumpsGoToTarget : Cond.holds real.cpu.fl .ne = true ∧ Cond.holds real.cpu.fl .e = false
    ∧ (truncEip .w16 (real.cpu.nextEip + 0xFEFD#32)).toNat = real.cpu.seg.cs.limit.toNat
    ∧ real.cpu.seg.cs.limit.toNat < (truncEip .w32 (real.cpu.nextEip + 0xFEFE#32)).toNat
    ∧ (0x12345#32).toNat ≤ narrow.cpu.seg.cs.limit.toNat ∧ narrow.cpu.ipOf 0x12345#32 = 0x2345#32
    ∧ ∃ v b1, readRm .w16 (.mem atEbx) real.past = .ok v { real.past with bus := b1 } :=
  ⟨rfl, rfl, by decide, by decide, by decide, by decide, readable_operands.2.1⟩

/-- A target at the limit of the segment, a stack without room, and a slot that holds an offset in the segment. -/
theorem witness_CallAndRetNearUseStackTop :
    (truncEip .w16 (real.cpu.nextEip + 0xFEFD#32)).toNat ≤ real.cpu.seg.cs.limit.toNat
    ∧ readRm .w16 (.reg .ecx) real.past = .ok 7#16 { real.past with bus := real.bus }
    ∧ (∃ as c1 b2, Pushes .w16 [.word real.cpu.nextEip] real.past.cpu real.bus as c1 b2)
    ∧ Cpu.hasRoom { real.cpu with gpr.esp := 1#32 } 2 = false
    ∧ (∃ v b1, memRead 16 .ss (real.cpu.stackOff real.cpu.gpr.esp) 2 real.past.cpu real.bus = .ok v b1)
    ∧ ∃ v b1, memRead 32 .ss (prot.cpu.stackOff prot.cpu.gpr.esp) 4 prot.past.cpu prot.bus = .ok v b1 :=
  ⟨by decide, rfl, pushes_of (by decide +kernel), by decide, okB_spec (by decide +kernel), okB_spec (by decide +kernel)⟩

/-- Far transfers in real-address mode: an offset at the limit, pushes that succeed, a pointer in memory, a frame. -/
theorem witness_FarTransfersInRealMode : real.cpu.prot = false ∧ v86.cpu.prot = false
    ∧ farPtrParts (.p16 0xFFFF#16 0x1234#16) = (.w16, 0x1234#16, 0xFFFF#32)
    ∧ (truncEip .w16 0xFFFF#32).toNat ≤ real.cpu.seg.cs.limit.toNat
    ∧ (∃ v b1, loadFar .w16 atEbx real.past = .ok v { real.past with bus := b1 })
    ∧ (∃ as c1 b2, Pushes .w16 [.sel real.cpu.seg.cs.sel, .word real.cpu.nextEip] real.past.cpu real.bus as c1 b2)
    ∧ (∃ off b1, peekW .w16 0 real.past = .ok off { real.past with bus := b1 })
    ∧ peekW .w16 2 real.past = .ok 0x800#32 real.past := by
  refine ⟨rfl, rfl, rfl, by decide, ?_, pushes_of (by decide +kernel), ?_, yields_spec (by decide +kernel)⟩
  · obtain ⟨v, b1, h, -⟩ := okM_spec (x := loadFar .w16 atEbx) (s := real.past) (p := fun _ => true) (by decide +kernel)
    exact ⟨v, b1, h⟩
  · obtain ⟨v, b1, h, -⟩ := okM_spec (x := peekW .w16 0) (s := real.past) (p := fun _ => true) (by decide +kernel)
    exact ⟨v, b1, h⟩

/-- The code segment descriptors of `prot`. -/
def code0 : Desc := ⟨0x8008#32, 0xFFFF#32, 0x00CF9A00#32⟩

theorem witness_FarTransfersInProtectedMode : prot.cpu.prot = true ∧ farPtrParts (.p32 0xFFFFFFFF#32 8#16) = (.w32, 8#16, 0xFFFFFFFF#32)
    ∧ selNull 8#16 = false ∧ fetchDesc 8#16 prot.past.cpu prot.bus = .ok (some code0) prot.bus ∧ code0.isCode = true
    ∧ directCode 8#16 code0 prot.past.cpu prot.bus = .ok () prot.bus
    ∧ (truncEip .w32 0xFFFFFFFF#32).toNat ≤ code0.limit.toNat ∧ okB (setAccessed code0) prot.past.cpu prot.bus = true
    ∧ prot.cpu.hasRoom 8 = true
    ∧ (∃ as c1 b3, Pushes .w32 [.sel prot.cpu.seg.cs.sel, .word prot.cpu.nextEip] prot.past.cpu prot.bus as c1 b3) := by
  refine ⟨rfl, rfl, rfl, yields_spec (by decide +kernel), rfl, yields_spec (by decide +kernel), by decide, by decide +kernel, by decide,
    pushes_of (by decide +kernel)⟩

/-- The call gate of `tasks`, and the code segment of level 3. -/
def gate : Desc := ⟨0x8040#32, 0x00080600#32, 0xEC01#32⟩
def code3 : Desc := ⟨0x8018#32, 0xFFFF#32, 0x00CFFA00#32⟩

/-- Parameters can be copied, and what follows passes a test. -/
def thenCopy (c0 : Cpu) (osz : OpSize) : Nat → Cpu → Bus → (Cpu → Bus → Bool) → Bool
  | 0, c, b, k => k c b
  | n + 1, c, b, k => thenB (readParam c0 osz n) c0 b fun v b2 =>
    thenPush osz [.word v] c b2 fun c2 b3 => thenCopy c0 osz n c2 b3 k

theorem thenCopy_spec {c0 : Cpu} {osz : OpSize} {n : Nat} {c : Cpu} {b : Bus} {k : Cpu → Bus → Bool}
    (h : thenCopy c0 osz n c b k = true) : ∃ as c1 b1, CopiesParams c0 osz n c b as c1 b1 ∧ k c1 b1 = true := by
  induction n generalizing c b with
  | zero => exact ⟨[], c, b, ⟨rfl, rfl, rfl⟩, h⟩
  | succ n ih =>
    obtain ⟨v, b2, h1, h⟩ := thenB_spec h
    obtain ⟨as1, c2, b3, h2, h⟩ := thenPush_spec h
    obtain ⟨as2, c1, b1, h3, h⟩ := ih h
    exact ⟨_, c1, b1, ⟨v, b2, c2, b3, as1, as2, h1, h2, h3, rfl⟩, h⟩

/-- A call to an inner level, if all of it ends well. -/
def canCallInner (g d : Desc) (c : Cpu) (b : Bus) : Bool :=
  let osz := g.gateSize
  thenB (innerStack d.dpl) c b fun st b1 =>
    yields (roomOn st (osz.bytes * (4 + g.gateCount)) c b1) () b1
      && thenB (setAccessed st.2.1) c b1 fun _ b2 =>
        thenPush osz [.sel c.seg.ss.sel, .word c.gpr.esp] (c.onInnerStack d.dpl st) b2 fun c2 b3 =>
        thenCopy c osz g.gateCount c2 b3 fun c3 b4 =>
        thenPush osz [.sel c.seg.cs.sel, .word c.eip] c3 b4 fun c1 b5 => okB (setAccessed d) c1 b5

theorem callInner_of {g d : Desc} {c : Cpu} {b : Bus} (h : canCallInner g d c b = true) :
    ∃ as c1 b6, InnerCall g d c b as c1 b6 := by
  obtain ⟨st, b1, h1, h⟩ := thenB_spec h
  rw [Bool.and_eq_true] at h
  obtain ⟨h2, h⟩ := h
  obtain ⟨_, b2, h3, h⟩ := thenB_spec h
  obtain ⟨as1, c2, b3, h4, h⟩ := thenPush_spec h
  obtain ⟨as2, c3, b4, h5, h⟩ := thenCopy_spec h
  obtain ⟨as3, c1, b5, h6, h⟩ := thenPush_spec h
  obtain ⟨_, b6, h7⟩ := okB_spec h
  exact ⟨_, c1, b6, st, b1, b2, b3, b4, b5, c2, c3, as1, as2, as3, h1, yields_spec h2, h3, h4, h5, h6, h7, rfl⟩

/-- The gate has DPL 3 and leads to code of level 0: JMP and CALL from level 0, CALL from level 3 with a parameter. A gate
of DPL 0 is out of reach of level 3; one that is not present, and one with a null selector, are refused. -/
theorem witness_CallGatesEnterCode : ((⟨0#32, 0#32, 0x8C00#32⟩ : Desc).dpl.toNat < user.cpu.cpl.toNat)
    ∧ gate.dpl = 3#2 ∧ gate.p = true ∧ (⟨0#32, 0x00080600#32, 0x6C00#32⟩ : Desc).p = false
    ∧ selNull (⟨0#32, 0x00030600#32, 0xEC00#32⟩ : Desc).gateSel = true ∧ selNull gate.gateSel = false
    ∧ tasks.cpu.prot = true ∧ farPtrParts (.p32 0#32 0x43#16) = (.w32, 0x43#16, 0#32)
    ∧ fetchDesc 0x43#16 tasks.past.cpu tasks.bus = .ok (some gate) tasks.bus ∧ gate.isSys [4, 12] = true
    ∧ gate.gateOff.toNat ≤ code0.limit.toNat ∧ callGateCode .jmp 0x43#16 gate tasks.past.cpu tasks.bus = .ok code0 tasks.bus
    ∧ okB (setAccessed code0) tasks.past.cpu tasks.bus = true
    ∧ callGateCode .call 0x43#16 gate tasks.past.cpu tasks.bus = .ok code0 tasks.bus
    ∧ tasks.cpu.cpl.toNat ≤ code0.dpl.toNat ∧ tasks.cpu.hasRoom 8 = true
    ∧ (∃ as c1 b4, Pushes .w32 [.sel tasks.cpu.seg.cs.sel, .word tasks.cpu.nextEip] tasks.past.cpu tasks.bus as c1 b4
      ∧ okB (setAccessed code0) c1 b4 = true)
    ∧ (let s : State := { user with cpu.gdtr.limit := 0x67#16, bus := tasks.bus }
      callGateCode .call 0x43#16 gate s.past.cpu s.bus = .ok code0 s.bus ∧ code0.conforming = false
        ∧ code0.dpl.toNat < s.cpu.cpl.toNat ∧ ∃ as c1 b4, InnerCall gate code0 s.past.cpu s.bus as c1 b4) := by
  refine ⟨by decide, rfl, rfl, rfl, rfl, rfl, rfl, rfl, yields_spec (by decide +kernel), rfl, by decide,
    yields_spec (by decide +kernel), by decide +kernel, yields_spec (by decide +kernel), by decide, by decide, ?_,
    yields_spec (by decide +kernel), rfl, by decide, callInner_of (by decide +kernel)⟩
  exact thenPush_spec (k := fun c b => okB (setAccessed code0) c b) (by decide +kernel)

/-- A task gate delivery, if all of it ends well. -/
def canTaskGate (d : Delivery) (c : Cpu) (b : Bus) : Bool :=
  c.pe && d.tableReady c && thenB (idtGate d) c b fun g b1 =>
    g.isSys [5] && thenM (taskSwitch .int g.gateSel (d.image c) d.retEip d.cs) ⟨c, b1⟩ fun _ t1 =>
      thenM (pushCode (if t1.cpu.tr.typ.getLsbD 3 then .w32 else .w16) d) t1 fun _ _ => true

theorem taskGate_of {d : Delivery} {c : Cpu} {b : Bus} (h : canTaskGate d c b = true) : ∃ g t, TaskGate d c b g t := by
  unfold canTaskGate at h
  simp only [Bool.and_eq_true] at h
  obtain ⟨⟨h1, h2⟩, h⟩ := h
  obtain ⟨g, b1, h3, h⟩ := thenB_spec h
  rw [Bool.and_eq_true] at h
  obtain ⟨_, t1, h5, h6⟩ := thenM_spec h.2
  obtain ⟨_, t, h7, -⟩ := thenM_spec h6
  exact ⟨g, t, h1, h2, h.1, b1, t1, h3, h5, h7⟩

/-- No address lies in the page of the APIC. -/
def offApic (c : Cpu) (as : List Nat) : Bool := as.all fun a => !Apic.enabled c || a / 4096 != Apic.page c

/-- A far jump to a TSS and a far call through a task gate, IRET along the link, INT 22H and #UD through task gates; and the
premises of what a switch leaves. -/
theorem witness_TaskSwitchSavesAndLoadsTasks :
    (∃ d b2 t, fetchDesc 0x48#16 tasks.past.cpu tasks.bus = .ok (some d) b2 ∧ d.isSys [1, 5, 9] = true
      ∧ farTaskSel 0x48#16 d tasks.past.cpu b2 = .ok 0x48#16 b2
      ∧ taskSwitch .jmp 0x48#16 tasks.cpu.fl tasks.cpu.nextEip tasks.cpu.seg.cs.sel ⟨tasks.past.cpu, b2⟩ = .ok () t)
    ∧ (∃ d b2 t, fetchDesc 0x50#16 tasks.past.cpu tasks.bus = .ok (some d) b2 ∧ d.isSys [1, 5, 9] = true
      ∧ farTaskSel 0x50#16 d tasks.past.cpu b2 = .ok 0x48#16 b2
      ∧ taskSwitch .call 0x48#16 tasks.cpu.fl tasks.cpu.nextEip tasks.cpu.seg.cs.sel ⟨tasks.past.cpu, b2⟩ = .ok () t)
    ∧ (let s : State := { tasks with cpu.fl.nt := true }
      let c := s.past.cpu.nmiEnabled
      s.cpu.prot = true ∧ 1 ≤ s.cpu.tr.limit.toNat ∧ sysRead s.cpu.tr.base 2 c s.bus = .ok 0x58 s.bus
        ∧ ∃ t, taskSwitch .iret 0x58#16 s.cpu.fl s.cpu.nextEip s.cpu.seg.cs.sel ⟨c, s.bus⟩ = .ok () t)
    ∧ (∃ g t, TaskGate (.software 0x22#8 tasks.past.cpu) tasks.past.cpu tasks.bus g t)
    ∧ (∃ g t, TaskGate (.ofExc .ud false (tasks.cpu.taking .ud)) (tasks.cpu.taking .ud) tasks.bus g t)
    ∧ tasks.cpu.pe = true ∧ tasks.cpu.pg = false ∧ tasks.bus.map = [] ∧ tasks.bus.mem.wf = true
    ∧ (let d : Desc := ⟨0x8048#32, 0x58000067#32, 0x8900#32⟩
      offApic tasks.cpu ((tasks.switchCells .jmp 0x48#16 d tasks.cpu.fl tasks.cpu.nextEip 8#16).map (·.1)
        ++ (List.range (tssSize (wideTss d.typ))).map (d.base.toNat + ·)) = true) := by
  refine ⟨?_, ?_, ⟨rfl, by decide, yields_spec (by decide +kernel), ?_⟩, taskGate_of (by decide +kernel),
    taskGate_of (by decide +kernel), rfl, rfl, rfl, by decide +kernel, by decide +kernel⟩
  · obtain ⟨_, t, h, -⟩ := thenM_spec (k := fun _ _ => true) (x := taskSwitch .jmp 0x48#16 tasks.cpu.fl tasks.cpu.nextEip
      tasks.cpu.seg.cs.sel) (s := tasks.past) (by decide +kernel)
    exact ⟨⟨0x8048#32, 0x58000067#32, 0x8900#32⟩, tasks.bus, t, yields_spec (by decide +kernel), rfl,
      yields_spec (by decide +kernel), h⟩
  · obtain ⟨_, t, h, -⟩ := thenM_spec (k := fun _ _ => true) (x := taskSwitch .call 0x48#16 tasks.cpu.fl tasks.cpu.nextEip
      tasks.cpu.seg.cs.sel) (s := tasks.past) (by decide +kernel)
    exact ⟨⟨0x8050#32, 0x00480000#32, 0x8500#32⟩, tasks.bus, t, yields_spec (by decide +kernel), rfl,
      yields_spec (by decide +kernel), h⟩
  · obtain ⟨_, t, h, -⟩ := thenM_spec (k := fun _ _ => true) (x := taskSwitch .iret 0x58#16 { tasks.cpu.fl with nt := true }
      tasks.cpu.nextEip tasks.cpu.seg.cs.sel) (s := ⟨({ tasks.past.cpu with fl.nt := true } : Cpu).nmiEnabled, tasks.bus⟩)
      (by decide +kernel)
    exact ⟨t, h⟩

/-- The frame of a call through a 16-bit gate on the top of the stack. -/
def gateFrame (esp : W32) : GateFrame := { la := esp, cs := 8#16, ip := 0x40#16 }

/-- A 32-bit return, and a 16-bit one to 32-bit code on a 32-bit stack, of a frame that a call through a gate left and of
another. -/
theorem witness_FarReturnToSameLevel : prot.cpu.prot = true ∧ prot.cpu.holds 0 8 = true
    ∧ peekW .w32 0 prot.past = .ok 0x40#32 prot.past ∧ peekW .w32 4 prot.past = .ok 8#32 prot.past
    ∧ returnCode 8#16 prot.past.cpu prot.bus = .ok code0 prot.bus ∧ selRpl 8#16 = prot.cpu.cpl
    ∧ (truncEip .w32 0x40#32).toNat ≤ code0.limit.toNat ∧ okB (setAccessed code0) prot.past.cpu prot.bus = true
    ∧ (let s := tasksAt 0x5500#32
      s.cpu.holds 0 4 = true ∧ peekW .w16 0 s.past = .ok 0x40#32 s.past ∧ peekW .w16 2 s.past = .ok 8#32 s.past
        ∧ bit code0.dw2 22 = true ∧ s.cpu.seg.ss.db = true ∧ gateFrame 0x5500#32 ∉ s.cpu.hid.gate16
        ∧ s.cpu.seg.ss.linear (s.cpu.stackOff s.cpu.gpr.esp) = (gateFrame 0x5500#32).la
        ∧ gateFrame 0x5500#32 ∈ ({ s.cpu.hid with gate16 := [gateFrame 0x5500#32] } : Hidden).gate16) := by
  exact ⟨rfl, by decide, yields_spec (by decide +kernel), yields_spec (by decide +kernel), yields_spec (by decide +kernel), rfl, by decide,
    by decide +kernel, by decide, yields_spec (by decide +kernel), yields_spec (by decide +kernel), rfl, rfl, by decide, rfl,
    by decide⟩

/-- A return to an outer level, if all of it ends well. -/
def canReturn (osz : OpSize) (cs : W16) (d : Desc) (eip : W32) (k : Nat) (c : Cpu) (b : Bus) : Bool :=
  c.holds k (2 * osz.bytes) && decide (eip.toNat ≤ d.limit.toNat)
    && thenM (peekW osz k) ⟨c, b⟩ fun _ t1 => decide (t1.cpu = c)
      && thenM (peekW osz (k + osz.bytes)) t1 fun ssW t2 => decide (t2.cpu = c)
        && thenB (stackSegment (ssW.extractLsb' 0 16) (selRpl cs) .gp) c t2.bus fun sd b3 =>
          thenB (setAccessed d) c b3 fun _ b4 =>
          okB (setAccessed sd) { c.setCs cs d (selRpl cs) with eip := d.ipOf eip } b4.jumped

theorem return_of {loose : Bool} {osz : OpSize} {cs : W16} {d : Desc} {eip : W32} {k : Nat} {extra : W32} {c : Cpu} {b : Bus}
    (h : canReturn osz cs d eip k c b = true) : ∃ as t, OuterReturn loose osz cs d eip k extra c b as t := by
  unfold canReturn at h
  simp only [Bool.and_eq_true, decide_eq_true_eq] at h
  obtain ⟨⟨h1, h2⟩, h⟩ := h
  obtain ⟨esp, ⟨c1, b1⟩, hp, h⟩ := thenM_spec h
  simp only [Bool.and_eq_true, decide_eq_true_eq] at h
  obtain ⟨rfl, h⟩ := h
  obtain ⟨ssW, ⟨c2, b2⟩, hq, h⟩ := thenM_spec h
  simp only [Bool.and_eq_true, decide_eq_true_eq] at h
  obtain ⟨rfl, h⟩ := h
  obtain ⟨sd, b3, h3, h⟩ := thenB_spec h
  obtain ⟨_, b4, h4, h⟩ := thenB_spec h
  obtain ⟨_, b5, h5⟩ := okB_spec h
  exact ⟨_, _, h1, h2, esp, ssW, sd, b1, b2, b3, b4, b5, hp, hq, h3, h4, h5, rfl, rfl⟩

/-- Frames of RETF and IRETD to level 3: with 32-bit slots, and one with 16-bit slots and 6 more bytes. The data segments of level 0 are dropped, one of level 3 stays. -/
theorem witness_OuterReturnSwitchesStackAndNullsInnerData : tasks.cpu.prot = true ∧ selRpl 0x1B#16 ≠ tasks.cpu.cpl
    ∧ (let s := tasksAt 0x5200#32
      s.cpu.holds 0 8 = true ∧ peekW .w32 0 s.past = .ok 0x40#32 s.past ∧ peekW .w32 4 s.past = .ok 0x1B#32 s.past
        ∧ returnCode 0x1B#16 s.past.cpu s.bus = .ok code3 s.bus
        ∧ ∃ as t, OuterReturn false .w32 0x1B#16 code3 0x40#32 8 0#32 s.past.cpu s.bus as t)
    ∧ (∃ as t, OuterReturn true .w16 0x1B#16 code3 0x40#32 10 6#32 (tasksAt 0x5200#32).past.cpu tasks.bus as t)
    ∧ (let s := tasksAt 0x5300#32
      let u : State := ⟨s.past.cpu.nmiEnabled, s.bus⟩
      s.cpu.fl.nt = false ∧ s.cpu.holds 0 12 = true ∧ s.cpu.holds 0 20 = true ∧ peekW .w32 0 u = .ok 0x40#32 u
        ∧ peekW .w32 4 u = .ok 0x1B#32 u ∧ peekW .w32 8 u = .ok 0x202#32 u ∧ bit 0x202#32 17 = false
        ∧ returnCode 0x1B#16 u.cpu u.bus = .ok code3 u.bus
        ∧ ∃ as t, OuterReturn false .w32 0x1B#16 code3 0x40#32 12 0#32 u.cpu u.bus as t)
    ∧ (flat 0x10#16 3#4 0#2).isData = true ∧ (flat 0x10#16 3#4 0#2).dpl.toNat < (3#2).toNat
    ∧ ¬((flat 0x23#16 3#4 3#2).dpl.toNat < (3#2).toNat) := by
  refine ⟨rfl, by decide, ⟨by decide, yields_spec (by decide +kernel), yields_spec (by decide +kernel), yields_spec (by decide +kernel),
    return_of (by decide +kernel)⟩, return_of (by decide +kernel), ⟨rfl, by decide, by decide, yields_spec (by decide +kernel), yields_spec (by decide +kernel),
    yields_spec (by decide +kernel), rfl, yields_spec (by decide +kernel), return_of (by decide +kernel)⟩, by decide, by decide, by decide⟩

/-- The bounds at 2000H are 3 and 5: 5 lies inside, 64H outside. -/
theorem witness_BoundChecksIndex : loadMem 16 atEbx 2 real.past = .ok 3#16 real.past
    ∧ loadAt 16 atEbx 2 real.past = .ok 5#16 real.past
    ∧ ((3#16).toInt ≤ (5#16).toInt ∧ (5#16).toInt ≤ (5#16).toInt) ∧ (5#16).toInt < (real.cpu.gpr.getV .w16 .eax).toInt := by
  exact ⟨yields_spec (by decide +kernel), yields_spec (by decide +kernel), by decide, by decide⟩

/-- Delivery in real-address mode is possible if the pushes and the read of the table end well. -/
def canDeliverReal (d : Delivery) (c : Cpu) (b : Bus) : Bool :=
  !c.pe && d.tableReady c && decide (4 * d.vec.toNat + 3 ≤ c.idtr.limit.toNat)
    && thenPush .w16 [.word (d.image c).toBits, .sel d.cs, .word d.retEip] c b fun c1 b1 =>
      okB (sysRead (c.idtr.base + 4#32 * d.vec.setWidth 32) 4) c1 b1

theorem deliversReal_of {d : Delivery} {c : Cpu} {b : Bus} (h : canDeliverReal d c b = true) :
    ∃ as c1 entry b2, RealDelivery d c b as c1 entry b2 := by
  unfold canDeliverReal at h
  simp only [Bool.and_eq_true, Bool.not_eq_true', decide_eq_true_eq] at h
  obtain ⟨⟨⟨h1, h2⟩, h3⟩, h⟩ := h
  obtain ⟨as, c1, b1, h4, h⟩ := thenPush_spec h
  obtain ⟨entry, b2, h5⟩ := okB_spec h
  exact ⟨as, c1, entry, b2, h1, h2, h3, b1, h4, h5⟩

/-- INT FFH at the end of the table, and #UD. -/
theorem witness_RealModeDeliveryUsesTable :
    (SoftInterrupt (.intN 0xFF#8) real 0xFF#8
      ∧ ∃ as c1 entry b2, RealDelivery (.software 0xFF#8 real.past.cpu) real.past.cpu real.bus as c1 entry b2)
    ∧ (∃ as c1 entry b2, RealDelivery (.ofExc .ud false (real.cpu.taking .ud)) (real.cpu.taking .ud) real.bus as c1 entry b2)
    ∧ real.cpu.fl.of = false :=
  ⟨⟨.inl rfl, deliversReal_of (by decide +kernel)⟩, deliversReal_of (by decide +kernel), rfl⟩

/-- The delivery finds a gate and a handler segment, and what follows passes a test. -/
def thenGate (d : Delivery) (c : Cpu) (b : Bus) (k : Desc → Desc → Bus → Bool) : Bool :=
  d.tableReady c && thenB (idtGate d) c b fun g b1 => thenB (handlerCode g) c b1 fun t b2 =>
    !g.isSys [5] && decide (g.gateOff.toNat ≤ t.limit.toNat) && k g t b2

theorem thenGate_spec {d : Delivery} {c : Cpu} {b : Bus} {k : Desc → Desc → Bus → Bool} (h : thenGate d c b k = true) :
    d.tableReady c = true ∧ ∃ g t b1 b2, g.isSys [5] = false ∧ g.gateOff.toNat ≤ t.limit.toNat ∧ idtGate d c b = .ok g b1
      ∧ handlerCode g c b1 = .ok t b2 ∧ k g t b2 = true := by
  unfold thenGate at h
  rw [Bool.and_eq_true] at h
  obtain ⟨h0, h⟩ := h
  obtain ⟨g, b1, h1, h⟩ := thenB_spec h
  obtain ⟨t, b2, h2, h⟩ := thenB_spec h
  simp only [Bool.and_eq_true, Bool.not_eq_true', decide_eq_true_eq] at h
  exact ⟨h0, g, t, b1, b2, h.1.1, h.1.2, h1, h2, h.2⟩

/-- Delivery at the same level, if the rest ends well. -/
def canGateSame (d : Delivery) (c : Cpu) (b : Bus) : Bool :=
  c.prot && thenGate d c b fun g t b2 =>
    (t.conforming || decide (c.cpl.toNat ≤ t.dpl.toNat)) && c.hasRoom (g.gateSize.bytes * (3 + codeSlots d))
      && thenPush g.gateSize (d.frame (d.image c)) c b2 fun c1 b3 => okB (setAccessed t) c1 b3

theorem gateSame_of {d : Delivery} {c : Cpu} {b : Bus} (h : canGateSame d c b = true) :
    ∃ g t as c1 b4, SameLevelGate d c b g t as c1 b4 := by
  unfold canGateSame at h
  rw [Bool.and_eq_true] at h
  obtain ⟨h0, g, t, b1, b2, h1, h2, h3, h4, h5⟩ := thenGate_spec h.2
  simp only [Bool.and_eq_true, Bool.or_eq_true, decide_eq_true_eq] at h5
  obtain ⟨⟨h6, h7⟩, h8⟩ := h5
  obtain ⟨as, c1, b3, h9, h10⟩ := thenPush_spec h8
  obtain ⟨_, b4, h11⟩ := okB_spec h10
  exact ⟨g, t, _, c1, b4, b2, b3, as, ⟨h.1, h0, h1, h2, b1, h3, h4⟩, h6, h7, h9, h11, rfl⟩

/-- INT 21H, and #GP(0), which has an error code, at level 0. -/
theorem witness_GateDeliveryAtSameLevel :
    (SoftInterrupt (.intN 0x21#8) prot 0x21#8
      ∧ ∃ g t as c1 b4, SameLevelGate (.software 0x21#8 prot.past.cpu) prot.past.cpu prot.bus g t as c1 b4)
    ∧ ∃ g t as c1 b4, SameLevelGate (.ofExc (.gp 0#32) false (prot.cpu.taking (.gp 0#32))) (prot.cpu.taking (.gp 0#32))
      prot.bus g t as c1 b4 :=
  ⟨⟨.inl rfl, gateSame_of (by decide +kernel)⟩, gateSame_of (by decide +kernel)⟩

/-- The stack of a level is found and has room, its descriptor is marked, and what follows passes a test. -/
def thenStack (level : BitVec 2) (n : Nat) (c : Cpu) (b : Bus) (k : W16 × Desc × W32 → Bus → Bool) : Bool :=
  thenB (innerStack level) c b fun st b3 =>
    yields (roomOn st n c b3) () b3 && thenB (setAccessed st.2.1) c b3 fun _ b4 => k st b4

theorem thenStack_spec {level : BitVec 2} {n : Nat} {c : Cpu} {b : Bus} {k : W16 × Desc × W32 → Bus → Bool}
    (h : thenStack level n c b k = true) : ∃ st b3 b4, innerStack level c b = .ok st b3 ∧ roomOn st n c b3 = .ok () b3
      ∧ setAccessed st.2.1 c b3 = .ok () b4 ∧ k st b4 = true := by
  obtain ⟨st, b3, h1, h⟩ := thenB_spec h
  rw [Bool.and_eq_true] at h
  obtain ⟨_, b4, h3, h4⟩ := thenB_spec h.2
  exact ⟨st, b3, b4, h1, yields_spec h.1, h3, h4⟩

/-- Delivery to an inner level, if the rest ends well. -/
def canGateInner (d : Delivery) (c : Cpu) (b : Bus) : Bool :=
  c.prot && thenGate d c b fun g t b2 =>
    !t.conforming && decide (t.dpl.toNat < c.cpl.toNat)
      && thenStack t.dpl (g.gateSize.bytes * (5 + codeSlots d)) c b2 fun st b4 =>
        thenPush g.gateSize ([.sel c.seg.ss.sel, .word c.gpr.esp] ++ d.frame (d.image c)) (c.onInnerStack t.dpl st) b4 fun c1 b5 =>
        okB (setAccessed t) c1 b5

theorem gateInner_of {d : Delivery} {c : Cpu} {b : Bus} (h : canGateInner d c b = true) :
    ∃ g t as c1 b6, InnerLevelGate d c b g t as c1 b6 := by
  unfold canGateInner at h
  rw [Bool.and_eq_true] at h
  obtain ⟨h0, g, t, b1, b2, h1, h2, h3, h4, h5⟩ := thenGate_spec h.2
  simp only [Bool.and_eq_true, Bool.not_eq_true', decide_eq_true_eq] at h5
  obtain ⟨⟨h6, h7⟩, h8⟩ := h5
  obtain ⟨st, b3, b4, h9, h10, h11, h12⟩ := thenStack_spec h8
  obtain ⟨as, c1, b5, h13, h14⟩ := thenPush_spec h12
  obtain ⟨_, b6, h15⟩ := okB_spec h14
  exact ⟨g, t, _, c1, b6, b2, b3, b4, b5, st, as, ⟨h.1, h0, h1, h2, b1, h3, h4⟩, h6, h7, h9, h10, h11, h13, h15, rfl⟩

/-- The same from level 3. -/
theorem witness_GateDeliveryToInnerLevel :
    (SoftInterrupt (.intN 0x21#8) user 0x21#8
      ∧ ∃ g t as c1 b6, InnerLevelGate (.software 0x21#8 user.past.cpu) user.past.cpu user.bus g t as c1 b6)
    ∧ ∃ g t as c1 b6, InnerLevelGate (.ofExc (.gp 0#32) false (user.cpu.taking (.gp 0#32))) (user.cpu.taking (.gp 0#32))
      user.bus g t as c1 b6 :=
  ⟨⟨.inl rfl, gateInner_of (by decide +kernel)⟩, gateInner_of (by decide +kernel)⟩

/-- Delivery from virtual-8086 mode, if the rest ends well. -/
def canGateV86 (d : Delivery) (c : Cpu) (b : Bus) : Bool :=
  c.v86 && thenGate d c b fun _ t b2 =>
    thenStack 0#2 (4 * (9 + codeSlots d)) c b2 fun st b4 =>
      thenPush .w32
        ([.sel c.seg.gs.sel, .sel c.seg.fs.sel, .sel c.seg.ds.sel, .sel c.seg.es.sel, .sel c.seg.ss.sel, .word c.gpr.esp]
          ++ d.frame (v86Image c (d.image c)))
        { c.onInnerStack 0#2 st with fl := { c.fl with vm := false } } b4 fun c2 b5 =>
        okB (setAccessed t)
          { c2 with
            seg.gs := c.seg.gs.nulled 0#16, seg.fs := c.seg.fs.nulled 0#16
            seg.ds := c.seg.ds.nulled 0#16, seg.es := c.seg.es.nulled 0#16 } b5

theorem gateV86_of {d : Delivery} {c : Cpu} {b : Bus} (h : canGateV86 d c b = true) :
    ∃ g t as c1 b6, V86Gate d c b g t as c1 b6 := by
  unfold canGateV86 at h
  rw [Bool.and_eq_true] at h
  obtain ⟨h0, g, t, b1, b2, h1, h2, h3, h4, h5⟩ := thenGate_spec h.2
  obtain ⟨st, b3, b4, h6, h7, h8, h9⟩ := thenStack_spec h5
  obtain ⟨as, c2, b5, h10, h11⟩ := thenPush_spec h9
  obtain ⟨_, b6, h12⟩ := okB_spec h11
  exact ⟨g, t, _, _, b6, h.1, h0, h1, h2, b1, b2, b3, b4, b5, st, as, c2, h3, h4, h6, h7, h8, h10, rfl, h12, rfl⟩

/-- INT 3 and, with IOPL 3, INT 21H, without and with CR4.VME; #GP(0); with IOPL 0 without CR4.VME; INT 21H, whose bit in the
map is set, and INT 10H, whose bit is clear, with CR4.VME. -/
theorem witness_Virtual8086InterruptsFollowTable :
    (∃ g t as c1 b6, V86Gate (.software 3#8 virt.past.cpu) virt.past.cpu virt.bus g t as c1 b6)
    ∧ (virt.cpu.fl.iopl = 3#2 ∧ bit virt.cpu.ctl.cr4 0 = false
      ∧ ∃ g t as c1 b6, V86Gate (.software 0x21#8 virt.past.cpu) virt.past.cpu virt.bus g t as c1 b6)
    ∧ (bit virtVme.cpu.ctl.cr4 0 = true ∧ redirected 0x21#8 virtVme.past.cpu virtVme.bus = .ok false virtVme.bus
      ∧ ∃ g t as c1 b6, V86Gate (.software 0x21#8 virtVme.past.cpu) virtVme.past.cpu virtVme.bus g t as c1 b6)
    ∧ (∃ g t as c1 b6, V86Gate (.ofExc (.gp 0#32) false (virt.cpu.taking (.gp 0#32))) (virt.cpu.taking (.gp 0#32)) virt.bus
        g t as c1 b6)
    ∧ virt.cpu.v86 = true ∧ ({ virt.cpu with fl.iopl := 0#2 } : Cpu).v86 = true
    ∧ redirected 0x21#8 { virtVme.past.cpu with fl.iopl := 0#2 } virtVme.bus = .ok false virtVme.bus
    ∧ redirected 0x10#8 virtVme.past.cpu virtVme.bus = .ok true virtVme.bus
    ∧ (let img : Eflags := { virtVme.cpu.fl with nt := false, iopl := 0#2 }
      ∃ as c1 b1, Pushes .w16 [.word img.toBits, .sel virtVme.cpu.seg.cs.sel, .word virtVme.cpu.nextEip] virtVme.past.cpu
        virtVme.bus as c1 b1 ∧ okB (linBytes (4#32 * (0x10#8).setWidth 32) 4 true) c1 b1 = true) := by
  refine ⟨gateV86_of (by decide +kernel), ⟨rfl, rfl, gateV86_of (by decide +kernel)⟩,
    ⟨rfl, yields_spec (by decide +kernel), gateV86_of (by decide +kernel)⟩, gateV86_of (by decide +kernel), rfl, rfl,
    yields_spec (by decide +kernel), yields_spec (by decide +kernel), ?_⟩
  exact thenPush_spec (k := fun c b => okB (linBytes (4#32 * (0x10#8).setWidth 32) 4 true) c b) (by decide +kernel)

/-- Three slots, of 16 and of 32 bits, with an offset in the code segment; in virtual-8086 mode with IOPL 3, and with IOPL
0, where the image has IF = 1 and VIP is clear or set. -/
theorem witness_IretInRealAndVirtual8086Mode : real.cpu.pe = false
    ∧ (let s : State := ⟨real.past.cpu.nmiEnabled, real.bus⟩
      peekW .w16 0 s = .ok 0x40#32 s ∧ peekW .w16 2 s = .ok 0x800#32 s ∧ peekW .w16 4 s = .ok 0x202#32 s)
    ∧ (let s : State := ⟨real32.past.cpu.nmiEnabled, real32.bus⟩
      peekW .w32 0 s = .ok 0x40#32 s ∧ peekW .w32 4 s = .ok 0x800#32 s ∧ peekW .w32 8 s = .ok 0x202#32 s)
    ∧ (truncEip .w16 0x40#32).toNat ≤ real.cpu.seg.cs.limit.toNat ∧ virt.cpu.v86 = true ∧ virt.cpu.fl.iopl = 3#2
    ∧ v86.cpu.v86 = true ∧ v86.cpu.fl.iopl ≠ 3#2 ∧ bit v86.cpu.ctl.cr4 0 = true
    ∧ (let s : State := ⟨v86.past.cpu.nmiEnabled, v86.bus⟩
      peekW .w16 0 s = .ok 0x40#32 s ∧ peekW .w16 2 s = .ok 0x800#32 s ∧ peekW .w16 4 s = .ok 0x202#32 s)
    ∧ bit 0x202#32 9 = true ∧ v86.cpu.fl.vip = false ∧ (0x40#32).toNat ≤ v86.cpu.seg.cs.limit.toNat := by
  exact ⟨rfl,
    ⟨yields_spec (by decide +kernel), yields_spec (by decide +kernel), yields_spec (by decide +kernel)⟩,
    ⟨yields_spec (by decide +kernel), yields_spec (by decide +kernel), yields_spec (by decide +kernel)⟩, by decide, rfl, rfl, rfl,
    by decide, rfl,
    ⟨yields_spec (by decide +kernel), yields_spec (by decide +kernel), yields_spec (by decide +kernel)⟩, rfl, rfl, by decide⟩

/-- A frame of IRETD at level 0, and one whose image has VM set. -/
theorem witness_IretToSameLevelAndToVirtual8086 : prot.cpu.prot = true ∧ prot.cpu.fl.nt = false ∧ prot.cpu.holds 0 12 = true
    ∧ (let s : State := ⟨prot.past.cpu.nmiEnabled, prot.bus⟩
      peekW .w32 0 s = .ok 0x40#32 s ∧ peekW .w32 4 s = .ok 8#32 s ∧ peekW .w32 8 s = .ok 0x202#32 s)
    ∧ bit 0x202#32 17 = false ∧ returnCode 8#16 prot.past.cpu.nmiEnabled prot.bus = .ok code0 prot.bus
    ∧ selRpl 8#16 = prot.cpu.cpl ∧ (truncEip .w32 0x40#32).toNat ≤ code0.limit.toNat
    ∧ okB (setAccessed code0) (prot.past.cpu.nmiEnabled.setEsp 0x100C#32) prot.bus = true
    ∧ (let s := tasksAt 0x5400#32
      let u : State := ⟨s.past.cpu.nmiEnabled, s.bus⟩
      s.cpu.holds 0 36 = true ∧ bit 0x20202#32 17 = true ∧ peekW .w32 8 u = .ok 0x20202#32 u
        ∧ [0, 4, 12, 16, 20, 24, 28, 32].all (fun k => yields (peekW .w32 k u)
          (if k = 0 then 0x100#32 else if k = 4 then 0x800#32 else if k = 12 then 0x1000#32 else 0#32) u) = true) := by
  exact ⟨rfl, rfl, by decide, ⟨yields_spec (by decide +kernel), yields_spec (by decide +kernel), yields_spec (by decide +kernel)⟩,
    rfl, yields_spec (by decide +kernel), rfl, by decide, by decide +kernel, by decide, rfl, yields_spec (by decide +kernel),
    by decide +kernel⟩

/-- A table of 34 bytes: one less than the double fault needs, and too short for #GP. -/
theorem witness_ShortTableGivesDoubleFaultThenShutdown : real.cpu.pe = false
    ∧ (real.cpu.smm.inSmm = true → real.cpu.smm.lidtDone = true) ∧ (34#16).toNat < 35
    ∧ (34#16).toNat < 4 * (Exc.gp 0#32).vec.toNat + 3 := by decide

/-- The same with the operand of MOV to CS, 6 or 7, which is read before the exception. -/
theorem witness_SegmentLoadsSetHiddenPart :
    (segOf 3#3 = some .ds ∧ readSel (.reg .ecx) { prot.past with cpu.gpr.ecx := 0x10#32 } = .ok 0x10#16 { prot.past with cpu.gpr.ecx := 0x10#32 }
      ∧ okB (loadSegValue .ds 0x10#16) prot.past.cpu prot.bus = true)
    ∧ okB (loadSegValue .ss 0x10#16) prot.past.cpu prot.bus = true
    ∧ (∃ w b1, peekW .w16 0 real.past = .ok w { real.past with bus := b1 })
    ∧ okB (loadSegValue .es 0x40#16) real.past.cpu real.bus = true
    ∧ (∃ v b1, loadFar .w16 atEbx real.past = .ok v { real.past with bus := b1 })
    ∧ ∃ sel b1, readSel (.mem atEbx) prot.past = .ok sel { prot.past with bus := b1 } := by
  refine ⟨⟨rfl, rfl, by decide +kernel⟩, by decide +kernel, ?_, by decide +kernel, ?_, ?_⟩
  · obtain ⟨v, b1, h, -⟩ := okM_spec (x := peekW .w16 0) (s := real.past) (p := fun _ => true) (by decide +kernel)
    exact ⟨v, b1, h⟩
  · obtain ⟨v, b1, h, -⟩ := okM_spec (x := loadFar .w16 atEbx) (s := real.past) (p := fun _ => true) (by decide +kernel)
    exact ⟨v, b1, h⟩
  · obtain ⟨v, b1, h, -⟩ := okM_spec (x := readSel (.mem atEbx)) (s := prot.past) (p := fun _ => true) (by decide +kernel)
    exact ⟨v, b1, h⟩

/-- Every clause: real-address mode, null selectors at both ends of their range, a selector outside the table, one in it. -/
theorem witness_SegmentLoadChecks : real.cpu.prot = false ∧ prot.cpu.prot = true ∧ selNull 0#16 = true ∧ selNull 3#16 = true
    ∧ selNull 0x40#16 = false ∧ fetchDesc 0x40#16 prot.cpu prot.bus = .ok none prot.bus
    ∧ fetchDesc 8#16 prot.cpu prot.bus = .ok (some code0) prot.bus := by
  exact ⟨rfl, rfl, rfl, rfl, rfl, yields_spec (by decide +kernel), yields_spec (by decide +kernel)⟩

theorem witness_SelectorStoresCopySelector : segOf 5#3 = some .gs ∧ prot.cpu.prot = true ∧ real.cpu.prot = false
    ∧ (∃ p b2, WritesAt prot.past.cpu prot.bus atEbx.segment (atEbx.off prot.cpu) 2 2 prot.cpu.seg.gs.sel.toNat p b2)
    ∧ ∃ p b2, WritesAt prot.past.cpu prot.bus atEbx.segment (atEbx.off prot.cpu) 2 4 prot.cpu.tr.sel.toNat p b2 :=
  ⟨rfl, rfl, rfl, writesAt_of (by decide +kernel), writesAt_of (by decide +kernel)⟩

/-- [EBX] of `prot` holds 0040H, RPL 0; ECX has RPL 3, EDX RPL 0. -/
theorem witness_ProbesAndArplSetZeroFlag : prot.cpu.prot = true ∧ readSel (.reg .ecx) prot.past = .ok 7#16 prot.past
    ∧ probe 7#16 [] prot.past.cpu prot.bus = .ok none prot.bus
    ∧ probe 8#16 [1, 2, 3, 9, 11] prot.past.cpu prot.bus = .ok (some code0) prot.bus ∧ real.cpu.prot = false
    ∧ (∃ dst p b1, memReadMayWrite 16 atEbx.segment (atEbx.off prot.cpu) prot.past.cpu prot.bus = .ok (dst, p) b1
      ∧ (selRpl (prot.cpu.gpr.getV .w16 .edx)).toNat ≤ (selRpl dst).toNat)
    ∧ (selRpl 0x40#16).toNat < (selRpl (prot.cpu.gpr.getV .w16 .ecx)).toNat
    ∧ ∃ p b2, MayModify prot.past.cpu prot.bus atEbx.segment (atEbx.off prot.cpu) 0x40#16 0x43#16 p b2 := by
  refine ⟨rfl, rfl, yields_spec (by decide +kernel), yields_spec (by decide +kernel), rfl, ?_, by decide,
    mayModify_of (by decide +kernel)⟩
  obtain ⟨⟨dst, p⟩, b1, h, h2⟩ := thenB_spec (x := memReadMayWrite 16 atEbx.segment (atEbx.off prot.cpu))
    (c := prot.past.cpu) (b := prot.bus)
    (k := fun v _ => decide ((selRpl (prot.cpu.gpr.getV .w16 .edx)).toNat ≤ (selRpl v.1).toNat)) (by decide +kernel)
  exact ⟨dst, p, b1, h, of_decide_eq_true h2⟩

/-- Level 3 with alignment checks. -/
def aligned : State := { user with cpu.ctl.cr0 := 0x60040011#32, cpu.fl.ac := true }

/-- The two accesses of SGDT can be made. -/
def canStoreTable (s : State) : Bool :=
  thenB (memPrepare .ds 0x2000#32 2 2 true) s.past.cpu s.bus fun p b1 =>
    thenB (memPrepare .ds (0x2000#32 + 2#32) 4 4 true) s.past.cpu b1 fun q b2 =>
      thenB (writePhys p (leBytes 2 s.cpu.gdtr.limit.toNat)) s.past.cpu b2 fun _ b3 =>
        okB (writePhys q (leBytes 4 s.cpu.gdtr.base.toNat)) s.past.cpu b3

/-- The first access of SGDT can be made, the second one is misaligned. -/
def baseMisaligned (s : State) : Bool :=
  thenB (memPrepare .ds 0x2000#32 2 2 true) s.past.cpu s.bus fun _ b1 =>
    match memPrepare .ds (0x2000#32 + 2#32) 4 4 true s.past.cpu b1 with
    | .error (.exc e) _ => !e.commit && e.vec == 17#8
    | _ => false

/-- R977: 2002H is misaligned for the base, so that the limit is not stored either. -/
theorem test_sgdt_misaligned :
    (match storeTableReg .w32 atEbx aligned.cpu.gdtr aligned.past with
      | .error (.exc e) t => e.vec == 17#8 && decide (t.bus.mem = aligned.bus.mem)
      | _ => false) = true := by decide +kernel

/-- Within the segment; and with the limit one byte short. -/
theorem witness_TableRegisterLoadsAndStores : prot.cpu.unprivileged = false
    ∧ segCheck prot.cpu atEbx.segment (atEbx.off prot.cpu) 6 true = none
    ∧ segCheck prot.cpu atEbx.segment (atEbx.off prot.cpu) 6 false = none
    ∧ segCheck { prot.cpu with seg.ds.limit := 0x2004#32 } .ds 0x2000#32 6 true = some (.gp 0#32)
    ∧ segCheck { prot.cpu with seg.ds.limit := 0x2004#32 } .ds 0x2000#32 6 false = some (.gp 0#32)
    ∧ loadMem 16 atEbx 2 prot.past = .ok 0x40#16 prot.past ∧ okM (loadAt 32 atEbx 2) prot.past = true
    ∧ atEbx.segment = .ds ∧ atEbx.off prot.cpu = 0x2000#32 ∧ canStoreTable prot = true
    ∧ segCheck aligned.cpu atEbx.segment (atEbx.off aligned.cpu) 6 true = none ∧ baseMisaligned aligned = true := by
  refine ⟨rfl, by decide, by decide, by decide, by decide, yields_spec (by decide +kernel), by decide +kernel, rfl, by decide,
    ?_, by decide, ?_⟩ <;> decide +kernel

/-- The descriptors of the TSS and the LDT, and both null and LDT selectors; a selector outside the table, a code segment, a
TSS that is not present. -/
theorem witness_LldtLtrLoadDescriptors : prot.cpu.prot = true ∧ prot.cpu.unprivileged = false ∧ selNull 3#16 = true ∧ selTi 4#16 = true
    ∧ readSel (.reg .edx) prot.past = .ok 0#16 prot.past ∧ okB (systemDesc 0x30#16 [2]) prot.past.cpu prot.bus = true
    ∧ systemDesc 0x28#16 [1, 9] prot.past.cpu prot.bus = .ok ⟨0x8028#32, 0x50000067#32, 0x8900#32⟩ prot.bus
    ∧ okB (setBusy ⟨0x8028#32, 0x50000067#32, 0x8900#32⟩) prot.past.cpu prot.bus = true
    ∧ selTi 0x40#16 = false ∧ selNull 0x40#16 = false ∧ fetchDesc 0x40#16 prot.past.cpu prot.bus = .ok none prot.bus
    ∧ (∀ types, types = [2] ∨ types = [1, 9] →
      ∃ b2, systemDesc 0x40#16 types prot.past.cpu prot.bus = .error (.exc (.gp 0x40#32)) b2)
    ∧ (Exc.gp 0x40#32).commit = false ∧ fetchDesc 8#16 prot.past.cpu prot.bus = .ok (some code0) prot.bus
    ∧ code0.isSys [2] = false ∧ (⟨0#32, 0x50000067#32, 0x0900#32⟩ : Desc).isSys [1, 9] = true
    ∧ (⟨0#32, 0x50000067#32, 0x0900#32⟩ : Desc).p = false := by
  refine ⟨rfl, rfl, rfl, rfl, rfl, by decide +kernel, yields_spec (by decide +kernel), by decide +kernel, rfl, rfl,
    yields_spec (by decide +kernel), ?_, rfl, yields_spec (by decide +kernel), rfl, rfl, rfl⟩
  rintro types (rfl | rfl) <;> exact stopsB_spec (by decide +kernel)

theorem witness_ControlRegisterReads : prot.cpu.unprivileged = false
    ∧ readSel (.reg .ecx) prot.past = .ok 7#16 { prot.past with bus := prot.bus }
    ∧ ∃ p b2, Writes prot.past.cpu { prot.bus with freeCtr := prot.bus.freeCtr + 1 } atEbx.segment (atEbx.off prot.cpu) 2
      (prot.cpu.ctl.cr0.extractLsb' 0 16).toNat p b2 :=
  ⟨rfl, rfl, writes_of (by decide +kernel)⟩

/-- Values that CR0 and CR4 refuse and accept, and a load of the page-directory-pointer entries; writes that must load bad
ones: to CR0 with PAE, to CR3 and CR4 with paging; entries not present and with the highest reserved bit. -/
theorem witness_ControlRegisterWrites : prot.cpu.unprivileged = false
    ∧ (bit 0x80000000#32 31 = true ∧ bit 0x80000000#32 0 = false)
    ∧ (bit 0x20000001#32 29 = true ∧ bit 0x20000001#32 30 = false)
    ∧ 0x800#32 &&& 0xFFFFF800#32 ≠ 0#32 ∧ 0x7FF#32 &&& 0xFFFFF800#32 = 0#32
    ∧ 0x20#32 &&& 0xFFFFF820#32 ≠ 0#32 ∧ 0x7DF#32 &&& 0xFFFFF820#32 = 0#32
    ∧ (∃ c1 b1, LoadsPdptes false 0#32 prot.past.cpu prot.bus c1 b1)
    ∧ (∃ c1 b1, LoadsPdptes true 0xC000#32 prot.past.cpu
      { prot.bus with mem := memory [dword 0xC000 1, dword 0xC008 1, dword 0xC010 1, dword 0xC018 0x1001] } c1 b1)
    ∧ (∃ b1, readPdptes 0xC000#32 { prot.past.cpu with ctl.cr4 := 0x20#32 } prot.bus = .error (.exc (.gp 0#32)) b1)
    ∧ (bit 0x80000001#32 31 && !prot.cpu.pg && bit 0x20#32 5) = true
    ∧ (∃ b1, readPdptes 0xC000#32 paged.past.cpu paged.bus = .error (.exc (.gp 0#32)) b1)
    ∧ (paged.cpu.pg && bit 0x20#32 5) = true ∧ (bit 0x20#32 5 && !bit paged.cpu.ctl.cr4 5 && paged.cpu.pg) = true
    ∧ (∃ t, memType prot.cpu (some ⟨prot.cpu.patField 0#3, none⟩) 0xC000 = .ok t)
    ∧ (Walk.value prot.bus 0xC000 8).testBit 0 = false
    ∧ Walk.value { prot.bus with mem := memory [dword 0xC018 1, dword 0xC01C 0x80000000] } (0xC000 + 8 * 3) 8 / 2 ^ 36 ≠ 0 := by
  refine ⟨rfl, by decide, by decide, by decide, by decide, by decide, by decide, ⟨_, _, rfl, rfl⟩, ?_,
    stopsB_spec (by decide +kernel), by decide, stopsB_spec (by decide +kernel), by decide, by decide,
    ⟨.uc, by decide +kernel⟩, by decide +kernel, by decide +kernel⟩
  obtain ⟨⟨w, x, y, z⟩, b1, h⟩ := okB_spec (x := readPdptes 0xC000#32) (c := prot.past.cpu)
    (b := { prot.bus with mem := memory [dword 0xC000 1, dword 0xC008 1, dword 0xC010 1, dword 0xC018 0x1001] })
    (by decide +kernel)
  exact ⟨_, b1, w, x, y, z, h, rfl⟩

theorem witness_CltsClearsTaskSwitched : prot.cpu.unprivileged = false ∧ user.cpu.unprivileged = true := by decide

theorem witness_PrivilegedInstructionsFaultOutsideLevelZero : user.cpu.unprivileged = true ∧ user.cpu.smm.inSmm = false
    ∧ user.cpu.prot = true ∧ v86.cpu.unprivileged = true ∧ v86.cpu.prot = false := by decide

theorem witness_InvalidationAndHalt : prot.cpu.unprivileged = false ∧ prot.bus.mem.wf = true := by decide +kernel

/-- Allowed with DR4; with CR4.DE, with DR7.GD not. -/
theorem witness_DebugRegisterMoves : prot.cpu.drAllowed 4#3 = true ∧ prot.cpu.drAllowed 7#3 = true
    ∧ prot.cpu.unprivileged = false ∧ bit 8#32 3 = true ∧ bit 0x2400#32 13 = true := by decide

theorem witness_MsrReadsAndWrites : prot.cpu.unprivileged = false ∧ prot.cpu.msr.traceFree 0x1DB = false
    ∧ Msrs.traceFree { Msrs.reset with debugCtl := 0x40#64 } 0x1DB = true ∧ Msrs.reset.get 2 = none
    ∧ (Msrs.reset.get 0x1B).isSome = true ∧ Msrs.reset.set 0x2FF 0x2#64 = none
    ∧ (Msrs.reset.set 0x2FF 0xC06#64).isSome = true ∧ isMtrr 0x26F = true ∧ isMtrr 0x200 = true
    ∧ (Msrs.reset.set 0x26F 0x0605040100000000#64).isSome = true ∧ (Msrs.reset.set 0x1D9 0#64).isSome = true
    ∧ okB (linBytes (0x3030#32 - 48#32) 2048 false) prot.past.cpu prot.bus = true := by
  refine ⟨rfl, rfl, rfl, rfl, rfl, by decide +kernel, by decide +kernel, rfl, rfl, by decide +kernel, by decide +kernel, by decide +kernel⟩

/-- Level 0 and level 3, ECX 0, 1 and 2, EAX 0, 1 and 2. -/
theorem witness_CountersAndCpuid : ¬(prot.cpu.pe = true ∧ prot.cpu.cpl ≠ 0#2) ∧ (user.cpu.pe = true ∧ user.cpu.cpl ≠ 0#2)
    ∧ bit 4#32 2 = true ∧ bit 0#32 8 = false ∧ 2#32 ≠ 0#32 ∧ 2#32 ≠ 1#32 := by decide

/-- Level 0; level 3 with IOPL 0 and CR4.PVI; virtual-8086 mode with VME; and without either. -/
theorem witness_StiCliFollowPrivilege : prot.cpu.cpl.toNat ≤ prot.cpu.fl.iopl.toNat
    ∧ ¬(user.cpu.pe = false ∨ user.cpu.cpl.toNat ≤ user.cpu.fl.iopl.toNat) ∧ bit 2#32 1 = true
    ∧ (v86.cpu.fl.vm = true ∧ bit v86.cpu.ctl.cr4 0 = true) ∧ ¬(v86.cpu.cpl.toNat ≤ v86.cpu.fl.iopl.toNat)
    ∧ bit user.cpu.ctl.cr4 1 = false ∧ user.cpu.fl.vm = false := by decide

theorem witness_PushfPopfFollowPrivilege : prot.cpu.v86Restricted = false ∧ v86.cpu.v86Restricted = true ∧ bit v86.cpu.ctl.cr4 0 = true
    ∧ (∃ as c1 b1, Pushes .w32 [.word (prot.cpu.fl.toBits &&& 0x00FCFFFF#32)] prot.past.cpu prot.bus as c1 b1)
    ∧ (∃ as c1 b1, Pushes .w16 [.word { v86.cpu.fl with if_ := v86.cpu.fl.vif, iopl := 3#2 }.toBits] v86.past.cpu v86.bus
        as c1 b1)
    ∧ peekW .w16 0 v86.past = .ok 0x40#32 v86.past ∧ bit 0x40#32 8 = false ∧ bit 0x140#32 8 = true := by
  refine ⟨rfl, rfl, rfl, pushes_of (by decide +kernel), pushes_of (by decide +kernel),
    yields_spec (by decide +kernel), rfl, rfl⟩

/-- EM, TS, MP and a pending error each way, with IGNNE# asserted and not; an operand of LDMXCSR with and one without a
reserved bit. -/
theorem witness_FpuSseControl : bit prot.cpu.ctl.cr0 2 = false ∧ bit prot.cpu.ctl.cr0 3 = false ∧ bit 0x1E#32 1 = true
    ∧ bit 0x1E#32 2 = true ∧ bit 0x1E#32 3 = true ∧ ((0x80#16).getLsbD 7 && (bit 0x20#32 5 || !true)) = true
    ∧ ((0x80#16).getLsbD 7 && (bit prot.cpu.ctl.cr0 5 || !prot.bus.ev.ignne)) = true
    ∧ ((0x80#16).getLsbD 7 && (bit prot.cpu.ctl.cr0 5 || !true)) = false ∧ bit 0x200#32 9 = true
    ∧ 0x40#32 &&& 0xFFFF0040#32 ≠ 0#32 ∧ 0xFFBF#32 &&& 0xFFFF0040#32 = 0#32
    ∧ loadMem 32 atEbx 4 prot.past = .ok 0x40#32 prot.past
    ∧ ∃ p b2, Writes prot.past.cpu prot.bus atEbx.segment (atEbx.off prot.cpu) 4 prot.cpu.sse.mxcsr.toNat p b2 := by
  refine ⟨rfl, rfl, rfl, rfl, rfl, rfl, rfl, rfl, rfl, by decide, by decide, yields_spec (by decide +kernel),
    writes_of (by decide +kernel)⟩

theorem witness_FxsaveFxrstorImage : (bit 4#32 2 || bit 4#32 3) = true ∧ (bit 8#32 2 || bit 8#32 3) = true
    ∧ bit prot.cpu.ctl.cr0 2 = false ∧ bit prot.cpu.ctl.cr0 3 = false
    ∧ (prot.cpu.fpu.sw.getLsbD 7 && (bit prot.cpu.ctl.cr0 5 || !prot.bus.ev.ignne)) = false
    ∧ ((0x80#16).getLsbD 7 && (bit 0x20#32 5 || !true)) = true
    ∧ ((0x80#16).getLsbD 7 && (bit prot.cpu.ctl.cr0 5 || !prot.bus.ev.ignne)) = true
    ∧ ((prot.cpu.seg.get .ds).linear 0x2001#32).toNat % 16 ≠ 0
    ∧ ((prot.cpu.seg.get atEbx.segment).linear (atEbx.off prot.cpu)).toNat % 16 = 0
    ∧ okB (memPrepare atEbx.segment (atEbx.off prot.cpu) 512 1 true) prot.past.cpu prot.bus = true
    ∧ okB (memBytes atEbx.segment (atEbx.off prot.cpu) 512 1) prot.past.cpu prot.bus = true := by
  refine ⟨rfl, rfl, rfl, rfl, rfl, rfl, rfl, by decide, by decide, ?_, ?_⟩ <;> decide +kernel

/-- Without the map; at level 3 with the TSS itself as the map: a port that is allowed, in the last two bytes of the TSS too,
one bit that refuses, at both ends of the access, the first port whose bytes lie beyond the TSS; a 16-bit TSS. -/
theorem witness_InputAndOutput : undefinedBreakpoint real.cpu = false
    ∧ ioCheck 0xFFFF#16 4 real.past.cpu real.bus = .ok () real.bus
    ∧ ioCheck (real.cpu.gpr.edx.extractLsb' 0 16) 1 real.past.cpu real.bus = .ok () real.bus
    ∧ (prot.cpu.fl.vm = false ∧ prot.cpu.cpl.toNat ≤ prot.cpu.fl.iopl.toNat)
    ∧ ¬(user.cpu.pe = false ∨ (user.cpu.fl.vm = false ∧ user.cpu.cpl.toNat ≤ user.cpu.fl.iopl.toNat))
    ∧ wideTss user.cpu.tr.typ = true ∧ sysRead (user.cpu.tr.base + 102#32) 2 user.past.cpu user.bus = .ok 0 user.bus
    ∧ sysRead (user.cpu.tr.base + 0x66#32) 2 user.past.cpu user.bus = .ok 0 user.bus
    ∧ 0x330 / 8 + 1 ≤ user.cpu.tr.limit.toNat ∧ user.cpu.tr.limit.toNat < 0x338 / 8 + 1
    ∧ sysRead (user.cpu.tr.base + 4#32) 2 user.past.cpu user.bus = .ok 0xF00 user.bus
    ∧ (0xF00).testBit (0x27 % 8 + 0) = false ∧ (0xF00).testBit (0x27 % 8 + 1) = true ∧ (0xF00).testBit (0x25 % 8 + 3) = true
    ∧ (∀ n, n = 1 ∨ n = 2 ∨ n = 4 →
      ∃ b1, ioCheck (({ user.cpu.gpr with edx := 0x338#32 } : Gprs).edx.extractLsb' 0 16) n user.past.cpu user.bus
        = .error (.exc (.gp 0#32)) b1)
    ∧ (∃ b1, ioCheck ((0x27#8).setWidth 16) 2 user.past.cpu user.bus = .error (.exc (.gp 0#32)) b1)
    ∧ wideTss 3#4 = false := by
  refine ⟨by decide, yields_spec (by decide +kernel), yields_spec (by decide +kernel), by decide, by decide, rfl,
    yields_spec (by decide +kernel), yields_spec (by decide +kernel), by decide, by decide, yields_spec (by decide +kernel),
    by decide, by decide, by decide, ?_, stopsB_spec (by decide +kernel), rfl⟩
  rintro n (rfl | rfl | rfl) <;> exact stopsB_spec (by decide +kernel)

/-- R315: port 27H with two bytes is refused by the second bit. -/
theorem test_in_refused_by_map : leaves (exec (.inEaxImm8 .w16 0x27#8) user) fun t => t.cpu.notes.faulted && t.bus.io == [] := by
  decide +kernel

/-- The state that entry to SMM leaves. -/
def entered (s : State) : State :=
  match enterSmm s with
  | .ok _ t => t
  | .error _ t => t

/-- `real`, halted at an HLT at 0FFH. -/
def halted : State := { real with cpu.hid.run := .halted, cpu.hid.haltEip := 0xFF#32 }

/-- A field of the state save map is changed. -/
def withField (off n v : Nat) (s : State) : State :=
  { s with bus.mem := s.bus.mem.writeBytes ((smmAddrs s.cpu off n).zip (leBytes n v)) }

/-- With CD = 1 every memory type is defined. -/
theorem memType_of_cd {c : Cpu} (h : c.cd = true) (attr : Option PageAttr) (pa : Nat) : ∃ t, memType c attr pa = .ok t := by
  unfold memType
  split
  · exact ⟨_, rfl⟩
  · exact ⟨.uc, by rw [h]; rfl⟩

/-- The map holds what entry to SMM saved, for RSM, and what it saved passes a test. -/
def canResume (s : State) (p : SmmSaved → Bool) : Bool :=
  match s.cpu.smm.saved with
  | some v => s.cpu.smm.inSmm && (smmAddrs s.cpu 0x7E00 0x200).all (fun a => !s.bus.absent a) && s.cpu.cd
      && !incoherent s.cpu s.bus
      && (readOnlyImages v).all (fun x => s.smmField x.1 x.2.1 == x.2.2)
      && smmReserved.flatMap (fun x => s.bus.readBytes (smmAddrs s.cpu x.1 x.2)) == v.reserved
      && (!(s.smmField 0x7F02 2).testBit 0 || v.halted) && p v
  | none => false

theorem canResume_spec {s : State} {p : SmmSaved → Bool} (h : canResume s p = true) :
    ∃ v, s.cpu.smm.inSmm = true ∧ s.cpu.smm.saved = some v
      ∧ (∀ a ∈ smmAddrs s.cpu 0x7E00 0x200, s.bus.absent a = false ∧ ∃ ty, memType s.cpu none a = .ok ty)
      ∧ incoherent s.cpu s.bus = false
      ∧ (∀ x ∈ readOnlyImages v, s.smmField x.1 x.2.1 = x.2.2)
      ∧ smmReserved.flatMap (fun x => s.bus.readBytes (smmAddrs s.cpu x.1 x.2)) = v.reserved
      ∧ ((s.smmField 0x7F02 2).testBit 0 = true → v.halted = true) ∧ p v = true := by
  unfold canResume at h
  split at h
  · next v hv =>
    simp only [Bool.and_eq_true, List.all_eq_true, Bool.not_eq_true', beq_iff_eq, Bool.or_eq_true] at h
    obtain ⟨⟨⟨⟨⟨⟨⟨h1, h2⟩, hd⟩, hi⟩, h3⟩, h4⟩, h5⟩, h6⟩ := h
    exact ⟨v, h1, hv, fun a ha => ⟨h2 a ha, memType_of_cd hd _ _⟩, hi, h3, h4, fun e => h5.resolve_left (by simp [e]), h6⟩
  · cases h

/-- The map as entry leaves it; with the field for the restart of an I/O instruction FFH; of a halted processor; with an
illegal image of CR0. -/
theorem witness_RsmRestoresSavedState :
    (canResume (entered real) (fun v => BitVec.ofNat 32 ((entered real).smmField 0x7FFC 4) == v.cr0 && !rsmInvalid v.cr0 v.cr4)
      && !((entered real).smmField 0x7F02 2).testBit 0 && (entered real).smmField 0x7F00 2 == 0) = true
    ∧ (let s := withField 0x7F00 2 0xFF (entered { real with cpu.notes.ioEip := some 0xFE#32 })
      (canResume s (fun v => BitVec.ofNat 32 (s.smmField 0x7FFC 4) == v.cr0 && !rsmInvalid v.cr0 v.cr4)
        && !(s.smmField 0x7F02 2).testBit 0 && s.smmField 0x7F00 2 == 0xFF && s.cpu.smm.ioRestartEip == some 0xFE#32) = true)
    ∧ (canResume (entered halted)
        (fun v => BitVec.ofNat 32 ((entered halted).smmField 0x7FFC 4) == v.cr0 && !rsmInvalid v.cr0 v.cr4)
      && ((entered halted).smmField 0x7F02 2).testBit 0 && (entered halted).smmField 0x7F00 2 == 0) = true
    ∧ (let s := withField 0x7FFC 4 0x80000010 (entered real)
      canResume s (fun v => rsmInvalid (BitVec.ofNat 32 (s.smmField 0x7FFC 4)) v.cr4 && s.smmField 0x7F00 2 == 0) = true)
    ∧ real.cpu.smm.inSmm = false := by
  refine ⟨?_, ?_, ?_, ?_, rfl⟩ <;> decide +kernel

theorem enters_of {s : State} (h : ends (match enterSmm s with
    | .ok _ t => .next t
    | .error _ _ => .refused .smmMapModified) = true) : enterSmm s = .ok () (entered s) := by
  unfold entered
  cases hx : enterSmm s with
  | ok u t => rfl
  | error e t => rw [hx] at h; cases h

/-- Running and halted. -/
theorem witness_RsmUndoesSmmEntry :
    (∃ t, real.Legal ∧ Cr0Legal real.cpu.ctl.cr0 ∧ real.cpu.hid.run = .running ∧ (∀ a ∈ smmAddrs real.cpu 0x7E00 0x200, real.bus.writable a = true)
      ∧ enterSmm real = .ok () t ∧ real.cpu.pg = false)
    ∧ ∃ t, halted.Legal ∧ Cr0Legal halted.cpu.ctl.cr0 ∧ halted.cpu.hid.run = .halted ∧ (∀ a ∈ smmAddrs halted.cpu 0x7E00 0x200, halted.bus.writable a = true)
      ∧ enterSmm halted = .ok () t ∧ halted.cpu.pg = false :=
  ⟨⟨_, legal_real, cr0_legal_real, rfl, by decide +kernel, enters_of (by decide +kernel), rfl⟩,
    ⟨_, legal_real, cr0_legal_real, rfl, by decide +kernel, enters_of (by decide +kernel), rfl⟩⟩

/-- The highest vector of a register in which one bit, or none above it, is set. -/
theorem highest_of {r : BitVec 256} {v : Nat} (h : r.getLsbD v = true) (h2 : r >>> (v + 1) = 0#256) : Highest r v := by
  refine ⟨h, fun k hk => ?_⟩
  have := congrArg (fun x => BitVec.getLsbD x (k - (v + 1))) h2
  simp only [BitVec.getLsbD_ushiftRight, BitVec.getLsbD_zero] at this
  rwa [show v + 1 + (k - (v + 1)) = k by omega] at this

/-- An APIC with vectors 31H in service and 42H requested, with a task priority that admits it and one that does not. -/
def busyApic : Apic := { Apic.reset with isr := 1#256 <<< 0x31, irr := 1#256 <<< 0x42 }

/-- Accesses of the page: a doubleword at 20H and at 80H, two bytes at the end of the page; vectors in service and requested;
the lowest vector that can be accepted. -/
theorem witness_ApicRegistersAndPriorities : Apic.enabled prot.cpu = true
    ∧ (Phys.run 0#32 (Apic.page prot.cpu * 4096 + 0x20) 4 .uc []).addrs
      = (List.range 4).map (Apic.page prot.cpu * 4096 + 0x20 + ·)
    ∧ (Phys.run 0#32 (Apic.page prot.cpu * 4096 + 0xFFE) 2 .uc []).addrs
      = (List.range 2).map (Apic.page prot.cpu * 4096 + 0xFFE + ·) ∧ 0xFFE + 2 ≤ 4096
    ∧ bit 0x1FF#32 8 = true ∧ Apic.reset.isr = 0#256 ∧ (∃ b0, speculate paged.cpu paged.bus = .ok () b0)
    ∧ Highest busyApic.isr 0x31 ∧ Highest busyApic.irr (0x42#8).toNat ∧ (0x42#8).toNat / 16 > (Apic.ppr busyApic).toNat / 16
    ∧ (0x42#8).toNat / 16 ≤ (Apic.ppr { busyApic with tpr := 0x40#8 }).toNat / 16 ∧ 16 ≤ (0x10#8).toNat := by
  refine ⟨by decide, by decide, by decide, by decide, by decide, rfl, (speculate_ok _ _).imp fun _ h => h.1, highest_of (by decide) (by decide),
    highest_of (by decide) (by decide), by decide, by decide, by decide⟩

/-- `real` with interrupts enabled, events pending and the APIC in a state. -/
def withEvents (e : Events) (a : Apic := Apic.reset) (base : BitVec 64 := Msrs.reset.apicBase) : State :=
  { real with cpu.fl.if_ := true, cpu.msr.apicBase := base, bus.ev := e, bus.apic := a }

/-- What a look finds, and whether the interrupt that it finds can be delivered in real-address mode. -/
def canTake (s : State) (h : Happening) (vec : State → Byte) (blocked : Bool) (bus : State → Bus) : Bool :=
  thenM look s fun x t => decide (x = h)
    && canDeliverReal
      (.event (vec t) true { t.cpu with
        hid := { t.cpu.hid with nmiBlocked := blocked, run := .running }
        notes := { t.cpu.notes with faulted := true, ioEip := none } })
      { t.cpu with
        hid := { t.cpu.hid with nmiBlocked := blocked, run := .running }
        notes := { t.cpu.notes with faulted := true, ioEip := none } } (bus t)

theorem takes_of {s : State} {h : Happening} {vec : State → Byte} {blocked : Bool} {bus : State → Bus}
    (hc : canTake s h vec blocked bus = true) : ∃ t, look s = .ok h t
      ∧ (let c : Cpu := { t.cpu with
          hid := { t.cpu.hid with nmiBlocked := blocked, run := .running }
          notes := { t.cpu.notes with faulted := true, ioEip := none } }
        ∃ as c1 b1, Delivers (.event (vec t) true c) c (bus t) as c1 b1) := by
  obtain ⟨x, t, h1, h2⟩ := thenM_spec hc
  rw [Bool.and_eq_true, decide_eq_true_eq] at h2
  obtain ⟨rfl, h2⟩ := h2
  obtain ⟨as, c1, entry, b2, h3⟩ := deliversReal_of h2
  exact ⟨t, h1, as, _, b2, .inl ⟨c1, entry, h3, rfl⟩⟩

/-- An NMI; INTR with the APIC disabled; vector 42H of the APIC, enabled by software; INIT; SMI. -/
theorem witness_ExternalEventsAtBoundary :
    (real.cpu.hid.run = .running ∧ real.bus.ev.reset = false ∧ real.bus.ev.mc = none ∧ real.bus.ev.binit = false
      ∧ real.cpu.hid.pendingDb.all (fun p => !p.bt) = true)
    ∧ canTake (withEvents { Events.quiet with nmi := true }) .nmi (fun _ => 2#8) true
      (fun t => { t.bus with ev.nmi := false }) = true
    ∧ canTake (withEvents { Events.quiet with intr := true, inta := 0x21#8 } Apic.reset 0xFEE00100#64) .extInt (fun t => t.bus.ev.inta)
      false (fun t => Apic.takeExt t.cpu t.bus) = true
    ∧ canTake (withEvents Events.quiet { busyApic with svr := 0x1FF#10 }) .apicInt (fun t => (Apic.dispense t.bus.apic).1) false
      (fun t => { t.bus with apic := (Apic.dispense t.bus.apic).2 }) = true
    ∧ thenM look { real with bus.ev.init := true } (fun h _ => h == .init) = true
    ∧ thenM look { real with bus.ev.smi := true } (fun h t => h == .smi && t.cpu.cd && !incoherent t.cpu t.bus) = true := by
  refine ⟨by decide, ?_, ?_, ?_, ?_, ?_⟩ <;> decide +kernel

/-- A doubleword that ends at the limit of a segment of 64 KBytes. -/
theorem witness_ReadAfterWrite : real.cpu.direct real.bus = true ∧ real.bus.mem.wf = true
    ∧ real.cpu.reaches .ds 0xFFFC#32 4 true ∧ real.cpu.reaches .ds 0xFFFC#32 4 false := by
  refine ⟨by decide +kernel, by decide +kernel, ⟨by decide, by decide, by decide, ?_⟩, ⟨by decide, by decide, by decide, ?_⟩⟩ <;>
    decide

/-! What stands outside the instructions. -/

/-- R32: in a 16-bit code segment of protected mode a 32-bit jump leaves IP alone. -/
theorem test_jump_cuts_eip : leaves (exec (.jmpRm .w32 (.reg .eax)) { narrow with cpu.gpr.eax := 0x12345#32 }) fun t =>
    t.cpu.eip == 0x2345#32 := by decide +kernel
/-- R459: sequential execution does not wrap; R32: the fetch beyond FFFFH faults. -/
theorem test_fetch_past_64k : ({ narrow.cpu with eip := 0xFFFE#32 } : Cpu).following 3 = 0x10001#32
    ∧ narrow.cpu.codeEnds 0x10000 = true ∧ narrow.cpu.codeEnds 0xFFFF = false ∧ prot.cpu.codeEnds 0x10000 = false := by
  decide
/-- R153: with a null selector in TR a switch leaves entry 0 of the GDT as it is. -/
theorem test_null_tr_entry0 :
    (let s : State := { tasks with cpu.tr.sel := 0#16, bus.mem := tasks.bus.mem.writeBytes [(0x8005, 0xFF#8)] }
     leaves (exec (.jmpFarPtr (.p32 0#32 0x48#16)) s) fun t =>
      t.bus.mem.read 0x8005 == 0xFF#8 && t.cpu.tr.sel == 0x48#16) = true := by decide +kernel
/-- R497: a change of PG leaves the next fetch open until a jump. -/
theorem test_pg_change : leaves (exec (.movCrR 0#3 .eax) { prot with cpu.gpr.eax := 0xE0000011#32 }) fun t =>
    t.bus.oldPg && !t.bus.jumped.oldPg && t.cpu.pg := by decide +kernel
/-- R399: the release of FLUSH# drops a global translation too. -/
theorem test_flush_release :
    thenM look
      { real with
        bus.ev.flushEnd := true
        bus.tlb := [⟨0#32, .k4, 0#36, true, true, true, true, 6#8, ⟨0, .wb⟩⟩] }
      (fun _ t => t.bus.tlb.isEmpty && !t.bus.ev.flushEnd) = true := by decide +kernel
/-- R1185: time-out and, with UECC, the syndrome stay, whatever the old error code is. -/
theorem test_mc_sticky : mcMerge 0x803FE04000000003#64 0x8040000000000400#64 = 0x803FA04000000400#64 := by decide
/-- R386: tables in uncacheable memory are not walked ahead of need. -/
theorem test_no_walk_ahead : walkAhead { Cpu.reset with ctl.cr0 := 0x80000011#32 } [.wb, .uc] = false
    ∧ walkAhead { Cpu.reset with ctl.cr0 := 0x80000011#32 } [.wb, .wt] = true := by decide
/-- R1302: INIT resets the debug registers. -/
theorem test_init_debug : leaves (step { real with bus.ev.init := true, cpu.dbg.dr0 := 5#32, bus.ev.selfIn := [0x30#8] }) fun t =>
    t.cpu.dbg.dr0 == 0#32 && t.bus.ev.selfIn.isEmpty && t.cpu.eip == 0xFFF0#32 := by decide +kernel
/-- R1116: an image with PG set and PE clear: CR0 is loaded, and the processor shuts down in SMM. -/
theorem test_rsm_invalid : leaves (exec .rsm (withField 0x7FFC 4 0x80000010 (entered real))) fun t =>
    t.cpu.ctl.cr0 == 0x80000010#32 && t.cpu.hid.run == .shutdown && t.cpu.smm.inSmm && !t.cpu.pg := by decide +kernel
/-- R52: of a task of level 3 too, CPL is 0 then. -/
theorem test_rsm_invalid_cpl : leaves (exec .rsm (withField 0x7FFC 4 0x80000010 (entered { real with cpu.cpl := 3#2 }))) fun t =>
    t.cpu.cpl == 0#2 := by decide +kernel

/-! Tables of every form: the page directory at A000H, the page table at B000H. -/

/-- Paging with 32-bit entries and PSE: a page that level 0 may only read, CR0.WP being set, one that it may write too, a
4-MByte page, a 4-MByte page with a reserved bit. -/
def pagedLarge : State :=
  { paged with
    cpu.ctl.cr4 := 0x10#32
    bus.mem := memory [dword 0xA000 0xB007, dword 0xA004 0x00402087, dword 0xA008 0x00200087, dword 0xB004 0x2001,
      dword 0xB008 0x2003] }

/-- Paging with PAE: a 4-KByte page, a 2-MByte page, and either with a reserved bit. -/
def pagedPae : State :=
  { paged with
    cpu := { paged.cpu with ctl.cr4 := 0x20#32, ctl.pdpte0 := 0xA001#64 }
    bus.mem := memory [dword 0xA000 0xB007, dword 0xA008 0x00400087, dword 0xA00C 1, dword 0xA010 0x00002087,
      dword 0xB008 0x2007, dword 0xB00C 1, dword 0xB010 0x2007, dword 0xB014 0x80000000] }

/-- What the walk finds for an address: directory entry present, with a reserved bit, of a large page, table entry present,
with a reserved bit; U/S and R/W of both. -/
def entries (s : State) (la : W32) : List Bool :=
  let pde := Walk.value s.bus (s.cpu.pdeAt la) s.cpu.entryBytes
  let pte := Walk.value s.bus (s.cpu.pteAt la pde) s.cpu.entryBytes
  let large := s.cpu.largePage pde
  [pde.testBit 0, s.cpu.pdeReserved pde, large, pte.testBit 0, s.cpu.pteReserved pte,
    pde.testBit 2 && (large || pte.testBit 2), pde.testBit 1 && (large || pte.testBit 1)]

/-- Addresses that take every branch of the walk, and what their entries begin with: entries not present, reserved bits in each
form, pages of every size, whose flags allow and forbid accesses. -/
def walks : List (State × W32 × List Bool) :=
  [(paged, 0x400000#32, [false]), (paged, 0x2000#32, [true, false, false, false]),
    (paged, 0x1010#32, [true, false, false, true, false, true, true]),
    (pagedLarge, 0x1010#32, [true, false, false, true, false, false, false]),
    (pagedLarge, 0x2010#32, [true, false, false, true, false, false, true]),
    (pagedLarge, 0x400010#32, [true, false, true]), (pagedLarge, 0x800010#32, [true, true, true]),
    (pagedPae, 0x1010#32, [true, false, false, true, false, true, true]),
    (pagedPae, 0x2010#32, [true, false, false, true, true, true, true]),
    (pagedPae, 0x200010#32, [true, false, true]), (pagedPae, 0x400010#32, [true, true, true])]

/-- Tables of every form, read with CR0.WP set. -/
theorem witness_PageWalkFollowsTables :
    (∀ s : State, s = paged ∨ s = pagedLarge ∨ s = pagedPae →
      s.cpu.pg = true ∧ (∀ e ∈ s.bus.tlb, ∀ la, e.covers la = false) ∧ s.bus.map = [] ∧ s.bus.mem.wf = true
        ∧ incoherent s.cpu s.bus = false ∧ ∀ attr pa, ∃ t, memType s.cpu attr pa = .ok t)
    ∧ walks.all (fun (s, la, flags) => flags.isPrefixOf (entries s la)) = true ∧ bit paged.cpu.ctl.cr0 16 = true := by
  refine ⟨?_, by decide +kernel, rfl⟩
  rintro s (rfl | rfl | rfl) <;>
    exact ⟨rfl, (by intro e h; cases h), rfl, by decide +kernel, by decide +kernel, memType_of_cd (by decide +kernel)⟩

/-- Where a byte of a linear address lies, and the low byte of the entry that maps it then. -/
def placeOf (s : State) (la : W32) (leaf : Nat) : Option (List Nat × Byte) :=
  match physicalPage la 1 false true s.cpu s.bus with
  | .ok p b1 => some (p.addrs, b1.mem.read leaf)
  | .error _ _ => none

/-- R205, R208, R219, R212: the frame of a 4-KByte, a 4-MByte, a 2-MByte and a 4-KByte page of PAE, the entries with A set. -/
theorem test_page_frames :
    placeOf paged 0x1010#32 0xB004 = some ([0x2010], 0x27#8)
    ∧ placeOf pagedLarge 0x400010#32 0xA004 = some ([0x100400010], 0xA7#8)
    ∧ placeOf pagedPae 0x200010#32 0xA008 = some ([0x100400010], 0xA7#8)
    ∧ placeOf pagedPae 0x1010#32 0xB008 = some ([0x100002010], 0x27#8) := by
  decide +kernel

/-- R618: a 16-bit far RET of a frame that no call through a gate pushed moves the whole of ESP. -/
theorem test_retf16_keeps_esp : leaves (exec (.retFar .w16) (tasksAt 0x5500#32)) fun t =>
    t.cpu.gpr.esp == 0x5504#32 && t.cpu.eip == 0x40#32 && t.cpu.seg.cs.sel == 8#16 := by decide +kernel

/-- R808: IRET pops slot by slot, with SP wrapping: the frame lies at FFFCH, FFFEH and 0. -/
theorem test_iret_wraps : leaves (exec (.iret .w16)
    { real with
      cpu.gpr.esp := 0xFFFC#32
      bus.mem := memory [dword 0xFFFC 0x08000040, dword 0 0x0202] }) fun t =>
    t.cpu.eip == 0x40#32 && t.cpu.seg.cs.sel == 0x800#16 && t.cpu.gpr.esp == 2#32 && t.cpu.fl.if_ := by decide +kernel

end Sys2Proof.Tests
end

section
namespace Sys2Proof.Machine

/-! Direct accesses (`Cpu.direct`): what the hypothesis says, where the bytes of an access lie, and which memory a write
leaves. -/

/-- The parts of `direct`. -/
theorem Cpu.direct_iff {c : Cpu} {b : Bus} : c.direct b = true ↔
    c.pg = false ∧ (c.cd = true ∨ Mtrr.enabled c = false) ∧ bit c.ctl.cr0 18 = false ∧ c.dbg.dr7 &&& 0xFF#32 = 0#32
      ∧ b.ev.a20m = false ∧ b.map = [] ∧ incoherent c b = false := by
  simp [Cpu.direct, Cpu.cd, and_assoc]

/-- Of memory and devices, `direct` looks at the pins, the map and the state of the caches only. -/
theorem Cpu.direct_congr {c : Cpu} {b b' : Bus} (he : b'.ev = b.ev) (hm : b'.map = b.map) (hl : b'.lines = b.lines) :
    c.direct b' = c.direct b := by
  unfold Cpu.direct incoherent
  rw [he, hm, hl]

/-! Memory. -/

theorem leBytes_getElem {n v i : Nat} (h : i < (leBytes n v).length) : (leBytes n v)[i] = BitVec.ofNat 8 (v / 256 ^ i) := by
  induction n generalizing v i with
  | zero => cases h
  | succ n ih =>
    cases i with
    | zero => simp [leBytes]
    | succ i => simp only [leBytes, List.getElem_cons_succ, ih, Nat.div_div_eq_div_mul, Nat.pow_succ']

theorem Memory.writeBytes_append (l l' : List (Nat × Byte)) (m : Memory) :
    m.writeBytes (l ++ l') = (m.writeBytes l).writeBytes l' := by
  induction l generalizing m with
  | nil => rfl
  | cons x t ih => exact ih _

/-- Bytes written at different addresses read as written. -/
theorem Memory.readBytes_writeBytes_zip {m : Memory} (hm : m.wf = true) {as : List Nat} {l : List Byte} (hd : as.Nodup)
    (hl : as.length = l.length) : (m.writeBytes (as.zip l)).readBytes as = l := by
  refine List.ext_getElem (by simpa [Memory.readBytes] using hl) fun i hi hi' => ?_
  have hmem : (as[i]'(hl ▸ hi'), l[i]) ∈ as.zip l := List.mem_iff_getElem.mpr ⟨i, by simp [hl, hi'], by simp⟩
  rw [← List.map_fst_zip hl.le] at hd
  simpa [Memory.readBytes] using Memory.read_writeBytes_mem _ hm hd hmem

/-! Where the bytes of an access lie. -/

/-- An access of n bytes that goes to its linear address. -/
def Phys.identity (la : W32) (n : Nat) (types : List MemType) : Phys :=
  { la, addrs := (List.range n).map (la.toNat + ·), types, leaves := [] }

/-- Two accesses side by side are one. -/
theorem Phys.identity_append {la : W32} {k n : Nat} (ts us : List MemType) (hk : k < n) (hn : la.toNat + n ≤ 2 ^ 32) :
    (Phys.identity la k ts).append (Phys.identity (la + BitVec.ofNat 32 k) (n - k) us) = .identity la n (ts ++ us) := by
  have hla : (la + BitVec.ofNat 32 k).toNat = la.toNat + k := by
    rw [BitVec.toNat_add, BitVec.toNat_ofNat, Nat.mod_eq_of_lt (a := k) (by omega), Nat.mod_eq_of_lt (by omega)]
  have hr : List.range n = List.range k ++ (List.range (n - k)).map (k + ·) := by
    rw [← List.range_add, Nat.add_sub_cancel' hk.le]
  simp [Phys.identity, Phys.append, hla, hr, Function.comp_def, Nat.add_assoc]

theorem Phys.identity_nodup (la : W32) (n : Nat) (ts : List MemType) : (Phys.identity la n ts).addrs.Nodup :=
  List.nodup_range.map fun _ _ h => Nat.add_left_cancel h

theorem Phys.identity_length (la : W32) (n : Nat) (ts : List MemType) : (Phys.identity la n ts).addrs.length = n := by
  simp [Phys.identity]

/-- None of the bytes lies outside the address space. -/
theorem checkRange_identity {la : W32} {n : Nat} (ts : List MemType) (hn : la.toNat + n ≤ 2 ^ 32) (c : Cpu) (b : Bus) :
    checkRange (.identity la n ts) c b = .ok (.identity la n ts) b := by
  have h : (Phys.identity la n ts).addrs.all (· < 2 ^ 36) = true := by
    simp only [Phys.identity, List.all_map, List.all_eq_true, List.mem_range, Function.comp_apply, decide_eq_true_eq]
    omega
  unfold checkRange
  rw [if_pos h]
  rfl

/-- What may be reached is not in the APIC page. -/
theorem Cpu.reaches.apicOffset {c : Cpu} {sr : Seg} {off : W32} {n : Nat} {write : Bool} (h : c.reaches sr off n write)
    (ts : List MemType) : (Phys.identity ((c.seg.get sr).linear off) n ts).apicOffset c = none := by
  obtain ⟨-, -, -, hapic⟩ := h
  unfold Phys.apicOffset
  refine if_neg fun h' => ?_
  simp only [Phys.identity, Bool.and_eq_true, List.any_map, List.any_eq_true, List.mem_range, Function.comp_apply,
    beq_iff_eq] at h'
  obtain ⟨he, i, hi, hp⟩ := h'
  exact hapic i hi ⟨he, hp⟩

/-- A part of an access that is not in the APIC page is not in it. -/
theorem Phys.part_apicOffset {p : Phys} {c : Cpu} (off n : Nat) (h : p.apicOffset c = none) :
    (p.part off n).apicOffset c = none := by
  unfold Phys.apicOffset at h ⊢
  split at h
  · cases h
  · next hp =>
    refine if_neg fun hq => hp ?_
    simp only [Bool.and_eq_true, List.any_eq_true] at hq ⊢
    obtain ⟨he, a, ha, hpage⟩ := hq
    exact ⟨he, a, Phys.part_addrs ha, hpage⟩

/-! The steps of an access. -/

/-- A defined memory type: UC with caches disabled, and with memory-type ranges disabled (R390). -/
theorem typeOrRefuse_direct {c : Cpu} {b : Bus} (hd : c.direct b = true) (attr : Option PageAttr) (pa : Nat) (b' : Bus) :
    ∃ t, typeOrRefuse attr pa c b' = .ok t b' := by
  obtain ⟨-, hc, -⟩ := Cpu.direct_iff.mp hd
  have ht : ∃ t, memType c attr pa = .ok t := by
    unfold memType
    rcases hc with hcd | hoff
    · split
      · exact ⟨_, rfl⟩
      · exact ⟨_, if_pos hcd⟩
    · unfold lineType
      rw [hoff]
      exact ⟨_, rfl⟩
  obtain ⟨t, ht⟩ := ht
  unfold typeOrRefuse
  rw [B.bind_ok (run_regs c b'), ht]
  exact ⟨t, rfl⟩

/-- The bytes of a page lie at their linear addresses. -/
theorem physicalPage_direct {c : Cpu} {b : Bus} (hd : c.direct b = true) (la : W32) (n : Nat) (write user : Bool) :
    ∃ ts, physicalPage la n write user c b = .ok (.identity la n ts) b := by
  obtain ⟨hpg, -, -, -, ha20, -, hinc⟩ := Cpu.direct_iff.mp hd
  have ha : a20 c b la.toNat = la.toNat := by simp [a20, ha20]
  obtain ⟨t, ht⟩ := typeOrRefuse_direct hd none la.toNat b
  refine ⟨List.replicate n t, ?_⟩
  unfold physicalPage
  rw [B.bind_ok (run_regs c b), B.bind_ok (run_getBus c b)]
  simp only [hinc, hpg, Bool.false_eq_true, if_false]
  rw [B.bind_ok (run_getBus c b), ha, B.bind_ok ht]
  rfl

/-- The bytes of an access lie at their linear addresses, in a second page too. -/
theorem physical_direct {c : Cpu} {b : Bus} (hd : c.direct b = true) {la : W32} {n : Nat} (write user : Bool)
    (hn : la.toNat + n ≤ 2 ^ 32) : ∃ ts, physical la n write user c b = .ok (.identity la n ts) b := by
  obtain ⟨ts, h1⟩ := physicalPage_direct hd la (firstPart la n) write user
  unfold physical
  rw [B.bind_ok h1]
  by_cases hk : firstPart la n = n
  · rw [if_pos hk, hk]
    exact ⟨ts, rfl⟩
  · obtain ⟨us, h2⟩ := physicalPage_direct hd (la + BitVec.ofNat 32 (firstPart la n)) (n - firstPart la n) write user
    have hlt : firstPart la n < n := lt_of_le_of_ne (Nat.min_le_left _ _) hk
    rw [if_neg hk, B.bind_ok h2, Phys.identity_append ts us hlt hn]
    exact ⟨ts ++ us, rfl⟩

/-- With no breakpoint enabled, noting an access changes the record of matches at most. -/
theorem noteAccess_direct {c : Cpu} {b : Bus} (hd : c.direct b = true) (la : W32) (n : Nat) (write : Bool) :
    ∃ hits, noteAccess la n write c b = .ok () { b with hits } := by
  obtain ⟨-, -, -, hdr7, -⟩ := Cpu.direct_iff.mp hd
  have hu : undefinedBreakpoint c = false := by simp [undefinedBreakpoint, hdr7]
  unfold noteAccess
  rw [B.bind_ok (run_regs c b)]
  simp only [hu, Bool.false_eq_true, if_false]
  split
  · exact ⟨_, rfl⟩
  · exact ⟨b.hits, rfl⟩

/-- An access that the segment allows passes all checks. -/
theorem memPrepare_direct {c : Cpu} {b : Bus} (hd : c.direct b = true) {sr : Seg} {off : W32} {n : Nat} {write : Bool}
    (hr : c.reaches sr off n write) (align : Nat) :
    ∃ ts hits, memPrepare sr off n align write c b
      = .ok (.identity ((c.seg.get sr).linear off) n ts) { b with hits } := by
  obtain ⟨hseg, hn, -⟩ := hr
  obtain ⟨-, -, ham, -⟩ := Cpu.direct_iff.mp hd
  obtain ⟨ts, hp⟩ := physical_direct hd write c.user hn
  obtain ⟨hits, hh⟩ := noteAccess_direct hd ((c.seg.get sr).linear off) n write
  have hm : misaligned c sr ((c.seg.get sr).linear off) align = false := by
    unfold misaligned
    rw [ham]
    rfl
  have hc : memCheck sr off n align write c b = .ok (.identity ((c.seg.get sr).linear off) n ts) b := by
    unfold memCheck
    rw [B.bind_ok (run_regs c b), hseg]
    dsimp only
    rw [B.bind_ok hp, B.bind_ok (checkRange_identity ts hn c b), hm]
    rfl
  refine ⟨ts, hits, ?_⟩
  unfold memPrepare
  rw [B.bind_ok hc]
  exact B.bind_ok hh

/-- Outside the APIC page, where every address is read-write memory, bytes read as memory holds them. -/
theorem readPhys_memory {p : Phys} {c : Cpu} {b : Bus} (ha : p.apicOffset c = none) (hmap : b.map = []) :
    readPhys p c b = .ok (b.mem.readBytes p.addrs) b := by
  unfold readPhys
  rw [B.bind_ok (run_regs c b), ha]
  dsimp only
  rw [B.bind_ok (run_getBus c b), B.bind_ok (run_modBus _ c b), Bus.accessed_of_map hmap, Bus.readBytes_of_map hmap]
  rfl

/-- Where every address is read-write memory, a store stores all its bytes. -/
theorem Bus.store_mem_of_map {b : Bus} (hmap : b.map = []) (c : Cpu) (p : Phys) (l : List Byte) :
    (Bus.store c p l b).mem = b.mem.writeBytes (p.addrs.zip l) := Bus.put_of_map hmap _

/-- A store changes nothing that `direct` looks at. -/
theorem Cpu.direct_store {c : Cpu} {b : Bus} (p : Phys) (l : List Byte) : c.direct (Bus.store c p l b) = c.direct b :=
  Cpu.direct_congr rfl rfl rfl

/-- Without paging, a store outside the APIC page goes to memory. -/
theorem writePart_memory {p : Phys} {c : Cpu} (hpg : c.pg = false) (hl : p.leaves = []) (ha : p.apicOffset c = none)
    (l : List Byte) (b : Bus) : writePart p l c b = .ok () (Bus.store c p l b) := by
  unfold writePart
  rw [B.bind_ok (speculate_unpaged hpg b)]
  unfold storePhys
  rw [B.bind_ok (run_regs c b), B.bind_ok (run_modBus _ c b), ha, hl]
  rfl

/-- A write stores its bytes, whether it is one store or two, and accesses are direct after it too. -/
theorem writePhys_direct {p : Phys} {c : Cpu} {b : Bus} (hd : c.direct b = true) (hl : p.leaves = [])
    (ha : p.apicOffset c = none) (l : List Byte) :
    ∃ b2, writePhys p l c b = .ok () b2 ∧ b2.mem = b.mem.writeBytes (p.addrs.zip l) ∧ c.direct b2 = true := by
  obtain ⟨hpg, -, -, -, -, hmap, -⟩ := Cpu.direct_iff.mp hd
  rw [writePhys_cases]
  split
  · exact ⟨_, writePart_memory hpg hl ha l b, Bus.store_mem_of_map hmap c p l, (Cpu.direct_store p l).trans hd⟩
  · set k := firstPart p.la p.addrs.length
    have hpart (o n : Nat) := writePart_memory hpg (Phys.part_leaves o n hl) (Phys.part_apicOffset o n ha)
    have htake : (p.part 0 k).addrs = p.addrs.take k := rfl
    have hdrop : (p.part k (p.addrs.length - k)).addrs = p.addrs.drop k := by
      simp [Phys.part, List.take_of_length_le]
    rw [B.bind_ok (hpart 0 k _ b), hpart]
    refine ⟨_, rfl, ?_, by rw [Cpu.direct_store, Cpu.direct_store, hd]⟩
    rw [Bus.store_mem_of_map ((Bus.store_map ..).trans hmap), Bus.store_mem_of_map hmap, htake, hdrop, ← Memory.writeBytes_append]
    simp only [List.zip, ← List.take_zipWith, ← List.drop_zipWith, List.take_append_drop]

/-- Settles O59: the write stores its bytes at their linear addresses, and the read that follows, direct too, takes them
from there. -/
theorem readAfterWrite : Obligations.ReadAfterWrite := by
  intro c b sr off n v hd hwf hr
  obtain ⟨ts, hits, hprep⟩ := memPrepare_direct hd hr n
  have hd1 : c.direct { b with hits } = true := (Cpu.direct_congr rfl rfl rfl).trans hd
  obtain ⟨b2, hwrite, hmem, hd2⟩ := writePhys_direct hd1 rfl (hr.apicOffset ts) (leBytes n v)
  have hback : b2.mem.readBytes ((List.range n).map (c.linear sr off + ·)) = leBytes n v := by
    rw [hmem]
    exact Memory.readBytes_writeBytes_zip hwf (Phys.identity_nodup _ n ts)
      (by rw [Phys.identity_length, leBytes_length])
  refine ⟨_, b2, ⟨_, hprep, hwrite⟩, rfl, fun i hi => ?_, fun hr' => ?_⟩
  · rw [← leBytes_getElem (n := n) (by rwa [leBytes_length])]
    simp [← hback, Memory.readBytes]
  · obtain ⟨us, hits', hprep'⟩ := memPrepare_direct hd2 hr' n
    obtain ⟨-, -, -, -, -, hmap, -⟩ := Cpu.direct_iff.mp hd2
    refine ⟨{ b2 with hits := hits' }, ?_, rfl⟩
    unfold memBytes
    rw [B.bind_ok hprep', ← hback]
    exact readPhys_memory (hr'.apicOffset us) hmap

end Sys2Proof.Machine
end

section
namespace Sys2Proof.Machine

/-! MOV to control registers: the checks, the reading of the page-directory-pointer entries, and what each register's
write does. -/

/-- At privilege level 0 the check of privilege passes. -/
theorem priv0_ok {s : State} (h : s.cpu.unprivileged = false) : priv0 s = .ok () s := by
  unfold priv0
  rw [M.bind_ok (run_getCpu s), run_ite, if_neg (by simpa [Cpu.unprivileged] using h)]
  rfl

theorem typeOrRefuse_ok {attr : Option PageAttr} {pa : Nat} {c : Cpu} {t : MemType} (h : memType c attr pa = .ok t)
    (b : Bus) : typeOrRefuse attr pa c b = .ok t b := by
  unfold typeOrRefuse
  rw [B.bind_ok (run_regs c b), h]
  rfl

theorem typeOrRefuse_error {attr : Option PageAttr} {pa : Nat} {c : Cpu} {r : Refusal}
    (h : memType c attr pa = .error r) (b : Bus) : typeOrRefuse attr pa c b = .error (.refuse r) b := by
  unfold typeOrRefuse
  rw [B.bind_ok (run_regs c b), h]
  rfl

/-! Reading the page-directory-pointer entries. -/

/-- One of the four entries of the table at `base` has a reserved bit set, or P = 0. -/
def pdptesBad (b : Bus) (base : Nat) : Bool :=
  pdpteBad (Walk.value b (base + 8 * 0) 8) || pdpteBad (Walk.value b (base + 8 * 1) 8)
    || pdpteBad (Walk.value b (base + 8 * 2) 8) || pdpteBad (Walk.value b (base + 8 * 3) 8)

/-- Where CR3 places the table (R221). -/
theorem pdptTable_eq (cr3 : W32) : (cr3.extractLsb' 5 27).toNat * 32 = cr3.toNat / 32 * 32 := by
  rw [BitVec.extractLsb'_toNat, Nat.shiftRight_eq_div_pow]
  omega

/-- The four entries, once the access to them is allowed. -/
def pdptesAt (b : Bus) (base : Nat) : W64 × W64 × W64 × W64 :=
  (.ofNat 64 (Walk.value b (base + 8 * 0) 8), .ofNat 64 (Walk.value b (base + 8 * 1) 8),
    .ofNat 64 (Walk.value b (base + 8 * 2) 8), .ofNat 64 (Walk.value b (base + 8 * 3) 8))

/-- The outcomes of reading them: refused by the state of the caches or by the memory type, else the entries decide. -/
theorem readPdptes_eq (cr3 : W32) (c : Cpu) (b : Bus) :
    readPdptes cr3 c b =
      if incoherent c b then .error (.refuse .cacheIncoherent) b
      else match memType c (some ⟨c.patField ((cr3.extractLsb' 3 2).setWidth 3), none⟩) (cr3.toNat / 32 * 32) with
        | .error r => .error (.refuse r) b
        | .ok _ =>
          if pdptesBad b (cr3.toNat / 32 * 32) then .error (.exc (.gp 0#32)) b.accessed
          else .ok (pdptesAt b (cr3.toNat / 32 * 32)) b.accessed := by
  rw [← pdptTable_eq]
  unfold readPdptes
  rw [B.bind_ok (run_regs c b), B.bind_ok (run_getBus c b)]
  cases incoherent c b with
  | true => rfl
  | false =>
    simp only [Bool.false_eq_true, if_false]
    split
    · next r hr => rw [B.bind_error (typeOrRefuse_error hr b)]
    · next t ht =>
      rw [B.bind_ok (typeOrRefuse_ok ht b), B.bind_ok (run_getBus c b), B.bind_ok (run_modBus _ c b)]
      unfold pdptesBad
      split <;> rfl

/-- An exception in reading them leaves memory as it is. -/
theorem readPdptes_exc_mem {cr3 : W32} {c : Cpu} {b b1 : Bus} {e : Exc}
    (h : readPdptes cr3 c b = .error (.exc e) b1) : b1.mem = b.mem := by
  rw [readPdptes_eq] at h
  split at h
  · cases h
  · split at h
    · cases h
    · split at h <;> cases h
      exact Bus.accessed_mem b

/-- The value of n bytes has no bit beyond them. -/
theorem Walk.value_lt (b : Bus) (a n : Nat) : Walk.value b a n < 256 ^ n := by
  simpa [Walk.value, Bus.readBytes] using leNat_lt (b.readBytes ((List.range n).map (a + ·)))

/-- P = 0, or a bit of the reserved fields 2:1, 8:5 and 63:36 (R221, R232). -/
theorem pdpteBad_iff {v : Nat} (hv : v < 256 ^ 8) :
    pdpteBad v = true ↔ v.testBit 0 = false ∨ v / 2 % 4 ≠ 0 ∨ v / 2 ^ 5 % 2 ^ 4 ≠ 0 ∨ v / 2 ^ 36 ≠ 0 := by
  have hhigh : Walk.field v 63 36 = v / 2 ^ 36 := Nat.mod_eq_of_lt (by omega)
  have hmid : Walk.field v 8 5 = v / 2 ^ 5 % 2 ^ 4 := rfl
  have hlow : Walk.field v 2 1 = v / 2 % 4 := rfl
  simp only [pdpteBad, hhigh, hmid, hlow, Bool.or_eq_true, Bool.not_eq_true', decide_eq_true_eq]
  tauto

/-- One bad entry is enough. -/
theorem pdptesBad_of_entry {b : Bus} {base i : Nat} (hi : i < 4)
    (h : pdpteBad (Walk.value b (base + 8 * i) 8) = true) : pdptesBad b base = true := by
  unfold pdptesBad
  simp only [Bool.or_eq_true]
  rcases (by omega : i = 0 ∨ i = 1 ∨ i = 2 ∨ i = 3) with rfl | rfl | rfl | rfl
  · exact .inl (.inl (.inl h))
  · exact .inl (.inl (.inr h))
  · exact .inl (.inr h)
  · exact .inr h

/-! The conditional load. -/

/-- A load of the entries where one is needed. -/
def loadPdptesIf (needs : Bool) (cr3 : W32) : M Unit := if needs then loadPdptes cr3 else pure ()

theorem loadPdptesIf_ok {needs : Bool} {cr3 : W32} {s : State} {c1 : Cpu} {b1 : Bus}
    (h : LoadsPdptes needs cr3 s.cpu s.bus c1 b1) : loadPdptesIf needs cr3 s = .ok () ⟨c1, b1⟩ := by
  unfold LoadsPdptes at h
  unfold loadPdptesIf loadPdptes
  split at h
  · next hn =>
    obtain ⟨w, x, y, z, hread, rfl⟩ := h
    rw [if_pos hn, M.bind_ok (onBus_ok hread)]
    rfl
  · next hn =>
    obtain ⟨rfl, rfl⟩ := h
    rw [if_neg hn]
    rfl

theorem loadPdptesIf_error {needs : Bool} {cr3 : W32} {s : State} {e : Stop} {b1 : Bus} (hn : needs = true)
    (h : readPdptes cr3 s.cpu s.bus = .error e b1) :
    loadPdptesIf needs cr3 s = .error e { s with bus := b1 } := by
  unfold loadPdptesIf loadPdptes
  rw [if_pos hn, M.bind_error (onBus_error h)]

/-- A load of the entries leaves the flags, and what decides on paging, as they were. -/
theorem LoadsPdptes.kept {needs : Bool} {cr3 : W32} {c c1 : Cpu} {b b1 : Bus} (h : LoadsPdptes needs cr3 c b c1 b1) :
    c1.fl = c.fl ∧ c1.ctl.cr0 = c.ctl.cr0 := by
  unfold LoadsPdptes at h
  split at h
  · obtain ⟨w, x, y, z, -, rfl⟩ := h
    exact ⟨rfl, rfl⟩
  · obtain ⟨rfl, rfl⟩ := h
    exact ⟨rfl, rfl⟩

theorem LoadsPdptes.pg_kept {needs : Bool} {cr3 : W32} {c c1 : Cpu} {b b1 : Bus} (h : LoadsPdptes needs cr3 c b c1 b1) :
    (c1.pg != c.pg) = false := by
  unfold Cpu.pg Cpu.pe
  rw [h.kept.2]
  exact bne_self_eq_false _

/-! Bits of the values written. -/

theorem bit_cr0Value_pe (v : W32) : bit (cr0Value v) 0 = bit v 0 := by simp [cr0Value, bit]

theorem bit_cr0Value_pg (v : W32) : bit (cr0Value v) 31 = bit v 31 := by simp [cr0Value, bit]

/-- The bits of CR4 whose change drops translations: PSE, PAE and PGE. -/
theorem cr4Change_iff (v w : W32) : (v ^^^ w) &&& 0xB0#32 ≠ 0#32 ↔
    ¬(bit v 4 = bit w 4 ∧ bit v 5 = bit w 5 ∧ bit v 7 = bit w 7) := by
  refine not_congr ⟨fun h => ?_, fun ⟨h4, h5, h7⟩ => BitVec.eq_of_getLsbD_eq fun i hi => ?_⟩
  · have hbit (i : Nat) : ((v ^^^ w) &&& 0xB0#32).getLsbD i = false := by rw [h]; simp
    exact ⟨by simpa using hbit 4, by simpa using hbit 5, by simpa using hbit 7⟩
  · interval_cases i <;> simp_all [bit]

/-! The registers. -/

/-- Flush all translations, where a change asks for it. -/
def flushAllIf (q : Prop) [Decidable q] : M Unit := if q then onBus (modBus Bus.flushAll) else pure ()

theorem flushAllIf_ok {q : Prop} [Decidable q] {keeps : Prop} [Decidable keeps] (h : q ↔ ¬keeps) (s : State) :
    flushAllIf q s = .ok () { s with bus := if keeps then s.bus else s.bus.flushAll } := by
  unfold flushAllIf
  by_cases hk : keeps
  · rw [if_neg (by tauto), if_pos hk]; rfl
  · rw [if_pos (by tauto), if_neg hk]; rfl

/-- PG without PE, or NW without CD, is refused before anything else. -/
theorem writeCr0_refused {v : W32} (h : (bit v 31 = true ∧ bit v 0 = false) ∨ (bit v 29 = true ∧ bit v 30 = false))
    (s : State) : writeCr0 v s = .error (.exc (.gp 0#32)) s := by
  unfold writeCr0
  rw [M.bind_ok (run_getCpu s)]
  by_cases h31 : (bit v 31 && !bit v 0) = true
  · rw [if_pos h31]; rfl
  · have h29 : (bit v 29 && !bit v 30) = true := by simpa using h.resolve_left (by simpa using h31)
    rw [if_neg h31, if_pos h29]; rfl

/-- The steps of an accepted write of CR0. -/
theorem writeCr0_accepted {v : W32} (hpg : bit v 31 = true → bit v 0 = true) (hnw : bit v 29 = true → bit v 30 = true)
    (s : State) : writeCr0 v s =
      (do loadPdptesIf (bit v 31 && !s.cpu.pg && bit s.cpu.ctl.cr4 5) s.cpu.ctl.cr3
          modCpu fun c => { c with ctl.cr0 := cr0Value v }
          flushAllIf ((bit v 31 != s.cpu.pg || bit v 0 != s.cpu.pe) = true) : M Unit) s := by
  have h31 : ¬(bit v 31 && !bit v 0) = true := by simpa using hpg
  have h29 : ¬(bit v 29 && !bit v 30) = true := by simpa using hnw
  unfold writeCr0 loadPdptesIf flushAllIf
  rw [M.bind_ok (run_getCpu s), if_neg h31, if_neg h29]
  simp only [bit_cr0Value_pe, bit_cr0Value_pg]
  split <;> rfl

theorem writeCr3_eq (v : W32) (s : State) : writeCr3 v s =
    (do loadPdptesIf (s.cpu.pg && bit s.cpu.ctl.cr4 5) v
        modCpu fun c => { c with ctl.cr3 := v }
        onBus (modBus Bus.flushLocal) : M Unit) s := by
  unfold writeCr3 loadPdptesIf
  rw [M.bind_ok (run_getCpu s)]
  split <;> rfl

/-- A reserved bit, and PAE in SMM, is refused. -/
theorem writeCr4_refused {v : W32} {s : State} (h : v &&& s.cpu.cr4Forbidden ≠ 0#32) :
    writeCr4 v s = .error (.exc (.gp 0#32)) s := by
  unfold writeCr4
  rw [M.bind_ok (run_getCpu s), if_pos h]
  rfl

/-- The steps of an accepted write of CR4. -/
theorem writeCr4_accepted {v : W32} {s : State} (h : v &&& s.cpu.cr4Forbidden = 0#32) : writeCr4 v s =
    (do loadPdptesIf (bit v 5 && !bit s.cpu.ctl.cr4 5 && s.cpu.pg) s.cpu.ctl.cr3
        modCpu fun c => { c with ctl.cr4 := v }
        flushAllIf ((v ^^^ s.cpu.ctl.cr4) &&& 0xB0#32 ≠ 0#32) : M Unit) s := by
  unfold writeCr4 loadPdptesIf flushAllIf
  rw [M.bind_ok (run_getCpu s), if_neg (not_not.mpr h)]
  cases bit v 5 && !bit s.cpu.ctl.cr4 5 && s.cpu.pg <;> rfl

/-- An accepted write of CR0: the entries are loaded where they are needed, then the register changes, then translations
are dropped if PE or PG changed. -/
theorem writeCr0_ok {v : W32} {s : State} {c1 : Cpu} {b1 : Bus} (hpg : bit v 31 = true → bit v 0 = true)
    (hnw : bit v 29 = true → bit v 30 = true)
    (hl : LoadsPdptes (bit v 31 && !s.cpu.pg && bit s.cpu.ctl.cr4 5) s.cpu.ctl.cr3 s.cpu s.bus c1 b1) :
    writeCr0 v s = .ok ()
      { cpu := { c1 with ctl.cr0 := cr0Value v }
        bus := if bit v 31 = s.cpu.pg ∧ bit v 0 = s.cpu.pe then b1 else b1.flushAll } := by
  rw [writeCr0_accepted hpg hnw, M.bind_ok (loadPdptesIf_ok hl), M.bind_ok (run_modCpu _ _)]
  exact flushAllIf_ok (by simp only [Bool.or_eq_true, bne_iff_ne]; tauto) _

/-- A write of CR3 loads the entries with PAE and paging, and drops the translations that are not global. -/
theorem writeCr3_ok {v : W32} {s : State} {c1 : Cpu} {b1 : Bus}
    (hl : LoadsPdptes (s.cpu.pg && bit s.cpu.ctl.cr4 5) v s.cpu s.bus c1 b1) :
    writeCr3 v s = .ok () { cpu := { c1 with ctl.cr3 := v }, bus := b1.flushLocal } := by
  rw [writeCr3_eq, M.bind_ok (loadPdptesIf_ok hl), M.bind_ok (run_modCpu _ _)]
  rfl

/-- An accepted write of CR4: translations are dropped if PSE, PAE or PGE changed. -/
theorem writeCr4_ok {v : W32} {s : State} {c1 : Cpu} {b1 : Bus} (hv : v &&& s.cpu.cr4Forbidden = 0#32)
    (hl : LoadsPdptes (bit v 5 && !bit s.cpu.ctl.cr4 5 && s.cpu.pg) s.cpu.ctl.cr3 s.cpu s.bus c1 b1) :
    writeCr4 v s = .ok ()
      { cpu := { c1 with ctl.cr4 := v }
        bus :=
          if bit v 4 = bit s.cpu.ctl.cr4 4 ∧ bit v 5 = bit s.cpu.ctl.cr4 5 ∧ bit v 7 = bit s.cpu.ctl.cr4 7 then b1
          else b1.flushAll } := by
  rw [writeCr4_accepted hv, M.bind_ok (loadPdptesIf_ok hl), M.bind_ok (run_modCpu _ _)]
  exact flushAllIf_ok (cr4Change_iff _ _) _

/-! The instruction. -/

/-- The write of control register n alone. -/
def writeCr (n : BitVec 3) (v : W32) : M Unit :=
  match n.toNat with
  | 0 => writeCr0 v
  | 2 => modCpu fun c => { c with ctl.cr2 := v }
  | 3 => writeCr3 v
  | 4 => writeCr4 v
  | _ => raise .ud

/-- What every move to a control register does after the write; `old` is PG before it. -/
def afterCrWrite (old : Bool) : M Unit := do
  freeStatus
  serialize
  let pg := (← getCpu).pg
  onBus (modBus fun b => { b with oldPg := pg != old })

/-- MOV to a control register at privilege level 0 is the write, and what follows it. -/
theorem movToCr_eq {s : State} (n : BitVec 3) (r : Gpr) (h : s.cpu.unprivileged = false) :
    movToCr n r s = (writeCr n (s.cpu.gpr.get r) >>= fun _ => afterCrWrite s.cpu.pg) s := by
  unfold movToCr writeCr afterCrWrite
  rw [M.bind_ok (priv0_ok h), M.bind_ok (run_getCpu s)]
  generalize n.toNat = k
  rcases k with _ | _ | _ | _ | _ | k <;> rfl

theorem exec_movCrR (n : BitVec 3) (r : Gpr) (s : State) : exec (.movCrR n r) s = runInstr (movToCr n r) s := rfl

/-- After a write that leaves the flags, the status flags take a free value, the instruction serializes, and a change of
PG is noted. -/
theorem movCrR_ends {n : BitVec 3} {r : Gpr} {s : State} {c : Cpu} {b : Bus} {pgChanged : Bool}
    (hp : s.cpu.unprivileged = false) (h : writeCr n (s.cpu.gpr.get r) s.past = .ok () ⟨c, b⟩) (hfl : c.fl = s.cpu.fl)
    (hpg : (c.pg != s.cpu.pg) = pgChanged) :
    ∃ f, exec (.movCrR n r) s = .next
      { cpu := { c with fl := s.cpu.fl.statusFrom f }
        bus := { Bus.serialized { b with freeCtr := b.freeCtr + 1 } with oldPg := pgChanged } } := by
  refine ⟨Config.freeWord b.freeCtr, ?_⟩
  rw [exec_movCrR]
  refine runInstr_ok ?_
  rw [movToCr_eq (s := s.past) n r hp, ← hfl, ← hpg]
  exact M.bind_ok h

/-- An exception in the write is what the instruction raises. -/
theorem movCrR_raises {n : BitVec 3} {r : Gpr} {s : State} {e : Exc} {b : Bus} (hp : s.cpu.unprivileged = false)
    (h : writeCr n (s.cpu.gpr.get r) s.past = .error (.exc e) { s.past with bus := b }) (hc : e.commit = false) :
    exec (.movCrR n r) s = s.raises e b := by
  rw [exec_movCrR]
  refine runInstr_raises (t := { s.past with bus := b }) ?_ hc rfl
  rw [movToCr_eq (s := s.past) n r hp]
  exact M.bind_error h

/-- A bad table that a write needs: #GP(0), memory as it was. -/
theorem movCrR_badTable {n : BitVec 3} {r : Gpr} {s : State} {needs : Bool} {cr3 : W32} {rest : M Unit} {b1 : Bus}
    (hp : s.cpu.unprivileged = false)
    (h : writeCr n (s.cpu.gpr.get r) s.past = (loadPdptesIf needs cr3 >>= fun _ => rest) s.past) (hn : needs = true)
    (hr : readPdptes cr3 s.past.cpu s.bus = .error (.exc (.gp 0#32)) b1) :
    exec (.movCrR n r) s = s.raises (.gp 0#32) b1 ∧ b1.mem = s.bus.mem :=
  ⟨movCrR_raises hp (h.trans (M.bind_error (loadPdptesIf_error hn hr))) rfl, readPdptes_exc_mem hr⟩

/-- Settles O42, register by register: each accepted write runs as its steps say, each refusal comes before any
change. -/
theorem controlRegisterWrites : Obligations.ControlRegisterWrites := by
  intro s r hp
  dsimp only
  refine ⟨fun h => ?_, fun c1 b1 hpg hnw hl => ?_, fun hpg hnw b1 => ?_, fun b1 => ?_, fun hv b1 => ?_,
    fun cr3 t hinc ht hbad => ?_, ?_, fun c1 b1 hl => ?_, fun hv => ?_, fun c1 b1 hv hl => ?_, fun n hn => ?_⟩
  · exact movCrR_raises hp (writeCr0_refused h s.past) rfl
  · refine movCrR_ends (n := 0#3) hp (writeCr0_ok (s := s.past) hpg hnw hl) hl.kept.1 ?_
    show ((bit (cr0Value _) 31 && bit (cr0Value _) 0) != _) = (true && _)
    rw [bit_cr0Value_pg, bit_cr0Value_pe, Bool.true_and, Bool.and_eq_left_iff_imp.mpr hpg]
  · exact movCrR_badTable hp (writeCr0_accepted hpg hnw s.past)
  · exact movCrR_badTable hp (writeCr3_eq _ s.past)
  · exact movCrR_badTable hp (writeCr4_accepted hv)
  · obtain ⟨i, hi, hbad⟩ := hbad
    have hbad' : pdptesBad s.bus (cr3.toNat / 32 * 32) = true :=
      pdptesBad_of_entry hi ((pdpteBad_iff (Walk.value_lt ..)).mpr hbad)
    have ht' : memType s.past.cpu (some ⟨s.past.cpu.patField ((cr3.extractLsb' 3 2).setWidth 3), none⟩)
        (cr3.toNat / 32 * 32) = .ok t := ht
    have hinc' : incoherent s.past.cpu s.bus = false := hinc
    rw [readPdptes_eq, hinc', ht', hbad']
    rfl
  · exact movCrR_ends (n := 2#3) (c := { s.past.cpu with ctl.cr2 := s.cpu.gpr.get r }) hp rfl rfl
      (bne_self_eq_false s.cpu.pg)
  · exact movCrR_ends (n := 3#3) hp (writeCr3_ok (s := s.past) hl) hl.kept.1 hl.pg_kept
  · exact movCrR_raises hp (writeCr4_refused (s := s.past) hv) rfl
  · exact movCrR_ends (n := 4#3) hp (writeCr4_ok (s := s.past) hv hl) hl.kept.1 hl.pg_kept
  · refine movCrR_raises (b := s.bus) hp ?_ rfl
    rcases hn with rfl | rfl | rfl | rfl <;> rfl

end Sys2Proof.Machine
end

section
namespace Sys2Proof.Machine

/-! The walk of the tables, in the terms of `Cpu.pdeAt`, `Cpu.pteAt` and `Cpu.frameAt`. -/

/-- The size of the page that a directory entry maps, or leads to. -/
def Cpu.pageSize (c : Cpu) (pde : Nat) : PageSize :=
  if c.largePage pde then (if bit c.ctl.cr4 5 then .m2 else .m4) else .k4

theorem Cpu.pageSize_bytes (c : Cpu) (pde : Nat) : (c.pageSize pde).bytes = c.pageBytes pde := by
  unfold Cpu.pageSize Cpu.pageBytes
  split
  · split <;> rfl
  · rfl

/-- Both paging forms in one: the checks in their order (R205, R219, R215), then the protection, then the translation.
The table entry counts where the directory entry maps no large page. -/
def Walk.follow (c : Cpu) (la : W32) (write user : Bool) (pde pte : Walk.Entry) : Walk :=
  let large := c.largePage pde.v
  let us := pde.v.testBit 2 && (large || pte.v.testBit 2)
  let rw := pde.v.testBit 1 && (large || pte.v.testBit 1)
  let inTable (l : List EntryRef) : List EntryRef := if large then [] else l
  if pde.v.testBit 0 = false then .fault (pfCode false write user false) [] []
  else if c.pdeReserved pde.v then .fault (pfCode true write user true) [] []
  else if large = false ∧ pte.v.testBit 0 = false then .fault (pfCode false write user false) [] []
  else if large = false ∧ c.pteReserved pte.v = true then .fault (pfCode true write user true) [] []
  else if pageProt c us rw write user = false then
    .fault (pfCode true write user false) pde.unaccessed (inTable pte.unaccessed)
  else
    .ok
      (Walk.leaf c la (c.pageSize pde.v) (c.frameAt pde.v pte.v) us rw (if large then pde else pte)
        (if large then 12 else 7))
      (pde.unaccessed ++ inTable pte.unaccessed) (if large then [pde.ref.typ] else [pde.ref.typ, pte.ref.typ])

/-- Every access has a defined memory type (R432). -/
def Cpu.typesDefined (c : Cpu) : Prop := ∀ attr pa, ∃ t, memType c attr pa = .ok t

theorem Walk.entry_ok {c : Cpu} {b : Bus} {pcdPwt a n : Nat} {t : MemType}
    (h : memType c (some ⟨c.patField (BitVec.ofNat 3 pcdPwt), none⟩) a = .ok t) (k : Walk.Entry → Walk) :
    Walk.entry c b pcdPwt a n k = k ⟨Walk.value b a n, ⟨a, t⟩⟩ := by
  unfold Walk.entry
  rw [h]

/-- Where the directory entry lies, with 32-bit entries. -/
theorem Cpu.pdeAt_32 {c : Cpu} (h : bit c.ctl.cr4 5 = false) (la : W32) :
    (c.ctl.cr3.extractLsb' 12 20).toNat * 4096 + 4 * (la.extractLsb' 22 10).toNat = c.pdeAt la := by
  unfold Cpu.pdeAt
  rw [h, BitVec.extractLsb'_toNat, BitVec.extractLsb'_toNat, Nat.shiftRight_eq_div_pow, Nat.shiftRight_eq_div_pow]
  simp only [Bool.false_eq_true, if_false]
  omega

/-- Where the table entry lies, with 32-bit entries. -/
theorem Cpu.pteAt_32 {c : Cpu} (h : bit c.ctl.cr4 5 = false) (la : W32) {pde : Nat} (hp : pde < 2 ^ 32) :
    Walk.field pde 31 12 * 4096 + 4 * (la.extractLsb' 12 10).toNat = c.pteAt la pde := by
  unfold Cpu.pteAt Walk.field
  rw [h, BitVec.extractLsb'_toNat, Nat.shiftRight_eq_div_pow]
  simp only [Bool.false_eq_true, if_false]
  omega

/-- Where the directory entry lies, with 64-bit entries. -/
theorem Cpu.pdeAt_pae {c : Cpu} (h : bit c.ctl.cr4 5 = true) (la : W32) :
    Walk.field (Walk.pdpte c la).toNat 35 12 * 4096 + 8 * (la.extractLsb' 21 9).toNat = c.pdeAt la := by
  unfold Cpu.pdeAt Walk.field
  rw [h, BitVec.extractLsb'_toNat, Nat.shiftRight_eq_div_pow]
  rfl

/-- Where the table entry lies, with 64-bit entries. -/
theorem Cpu.pteAt_pae {c : Cpu} (h : bit c.ctl.cr4 5 = true) (la : W32) (pde : Nat) :
    Walk.field pde 35 12 * 4096 + 8 * (la.extractLsb' 12 9).toNat = c.pteAt la pde := by
  unfold Cpu.pteAt Walk.field
  rw [h, BitVec.extractLsb'_toNat, Nat.shiftRight_eq_div_pow]
  rfl

/-! What the entries say, in each form, in the fields that the walk reads. -/

theorem Cpu.largePage_32 {c : Cpu} (h : bit c.ctl.cr4 5 = false) (pde : Nat) :
    c.largePage pde = (bit c.ctl.cr4 4 && Walk.flag pde 7) := by
  rw [Cpu.largePage, h, Bool.false_or, Bool.and_comm]
  rfl

theorem Cpu.largePage_pae {c : Cpu} (h : bit c.ctl.cr4 5 = true) (pde : Nat) : c.largePage pde = Walk.flag pde 7 := by
  rw [Cpu.largePage, h, Bool.true_or, Bool.and_true]
  rfl

theorem Cpu.pdeReserved_32 {c : Cpu} (h : bit c.ctl.cr4 5 = false) (pde : Nat) :
    c.pdeReserved pde = (c.largePage pde && Walk.field pde 21 17 != 0) := by
  rw [Cpu.pdeReserved, h]
  rfl

/-- Bits 63:36 are all above bit 35 of an entry of 8 bytes. -/
theorem Walk.field_high {v : Nat} (h : v < 2 ^ 64) : Walk.field v 63 36 = v / 2 ^ 36 := Nat.mod_eq_of_lt (by omega)

theorem Cpu.pdeReserved_pae {c : Cpu} (h : bit c.ctl.cr4 5 = true) {pde : Nat} (hp : pde < 2 ^ 64) :
    c.pdeReserved pde = true ↔
      Walk.field pde 63 36 ≠ 0 ∨ (c.largePage pde = true ∧ Walk.field pde 20 13 ≠ 0) := by
  rw [Cpu.pdeReserved, h, Walk.field_high hp, Cpu.largePage_pae h, if_pos rfl, Bool.or_eq_true, Bool.and_eq_true,
    bne_iff_ne, bne_iff_ne]
  rfl

theorem Cpu.pteReserved_32 {c : Cpu} (h : bit c.ctl.cr4 5 = false) (pte : Nat) : c.pteReserved pte = false := by
  rw [Cpu.pteReserved, h, Bool.false_and]

theorem Cpu.pteReserved_pae {c : Cpu} (h : bit c.ctl.cr4 5 = true) {pte : Nat} (hp : pte < 2 ^ 64) :
    c.pteReserved pte = true ↔ Walk.field pte 63 36 ≠ 0 := by
  rw [Cpu.pteReserved, h, Walk.field_high hp, Bool.true_and, bne_iff_ne]

theorem Cpu.pageSize_m4 {c : Cpu} {pde : Nat} (h : bit c.ctl.cr4 5 = false) (hl : c.largePage pde = true) :
    c.pageSize pde = .m4 := by
  rw [Cpu.pageSize, hl, h]
  rfl

theorem Cpu.pageSize_m2 {c : Cpu} {pde : Nat} (h : bit c.ctl.cr4 5 = true) (hl : c.largePage pde = true) :
    c.pageSize pde = .m2 := by
  rw [Cpu.pageSize, hl, h]
  rfl

theorem Cpu.frameAt_m4 {c : Cpu} {pde : Nat} (h : bit c.ctl.cr4 5 = false) (hl : c.largePage pde = true) (pte : Nat) :
    c.frameAt pde pte = Walk.field pde 16 13 * 2 ^ 32 + Walk.field pde 31 22 * 2 ^ 22 := by
  rw [Cpu.frameAt, hl, h]
  rfl

theorem Cpu.frameAt_m2 {c : Cpu} {pde : Nat} (h : bit c.ctl.cr4 5 = true) (hl : c.largePage pde = true) (pte : Nat) :
    c.frameAt pde pte = Walk.field pde 35 21 * 2 ^ 21 := by
  rw [Cpu.frameAt, hl, h]
  rfl

theorem Cpu.frameAt_k4 {c : Cpu} {pde : Nat} (hl : c.largePage pde = false) (pte : Nat) :
    c.frameAt pde pte = Walk.field pte 35 12 * 4096 := by
  rw [Cpu.frameAt, hl]
  rfl

/-- No frame lies beyond the address space (R132). -/
theorem Cpu.frameAt_lt (c : Cpu) (pde pte : Nat) : c.frameAt pde pte < 2 ^ 36 := by
  unfold Cpu.frameAt
  split
  · split <;> omega
  · omega

/-! The two forms of the walk. -/

/-- A large page in the terms of `follow`. -/
theorem Walk.follow_large {c : Cpu} {pde : Nat} (hp : pde.testBit 0 = true) (hr : c.pdeReserved pde = false)
    (hl : c.largePage pde = true) (la : W32) (write user : Bool) (r : EntryRef) (pte : Walk.Entry) :
    Walk.follow c la write user ⟨pde, r⟩ pte
      = Walk.large c la write user (c.pageSize pde) ⟨pde, r⟩ (c.frameAt pde pte.v) := by
  simp [Walk.follow, Walk.large, Walk.flag, hp, hr, hl]

/-- A page table in the terms of `follow`. -/
theorem Walk.follow_table {c : Cpu} {pde : Nat} (hp : pde.testBit 0 = true) (hr : c.pdeReserved pde = false)
    (hl : c.largePage pde = false) (la : W32) (write user : Bool) (r : EntryRef) (pte : Walk.Entry) :
    Walk.follow c la write user ⟨pde, r⟩ pte =
      if pte.v.testBit 0 = false then .fault (pfCode false write user false) [] []
      else if c.pteReserved pte.v = true then .fault (pfCode true write user true) [] []
      else Walk.table c la write user ⟨pde, r⟩ pte (c.frameAt pde pte.v) := by
  simp [Walk.follow, Walk.table, Walk.flag, Cpu.pageSize, hp, hr, hl]

/-- With 32-bit entries (R205). -/
theorem walk32_follows {c : Cpu} {b : Bus} {la : W32} {pde pte : Nat} (h : bit c.ctl.cr4 5 = false)
    (hty : c.typesDefined) (hpde : Walk.value b (c.pdeAt la) 4 = pde) (hpte : Walk.value b (c.pteAt la pde) 4 = pte)
    (write user : Bool) :
    ∃ t1 t2, Walk.walk32 c b la write user
      = Walk.follow c la write user ⟨pde, ⟨c.pdeAt la, t1⟩⟩ ⟨pte, ⟨c.pteAt la pde, t2⟩⟩ := by
  have hlt : pde < 2 ^ 32 := hpde ▸ Walk.value_lt ..
  have hlt' : pte < 2 ^ 32 := hpte ▸ Walk.value_lt ..
  obtain ⟨t1, h1⟩ := hty (some ⟨c.patField (BitVec.ofNat 3 (c.ctl.cr3.extractLsb' 3 2).toNat), none⟩) (c.pdeAt la)
  obtain ⟨t2, h2⟩ := hty (some ⟨c.patField (BitVec.ofNat 3 (Walk.field pde 4 3)), none⟩) (c.pteAt la pde)
  refine ⟨t1, t2, ?_⟩
  unfold Walk.walk32
  simp only [Cpu.pdeAt_32 h, Walk.entry_ok h1, hpde, Cpu.pteAt_32 h la hlt, Walk.entry_ok h2, hpte,
    ← Cpu.largePage_32 h]
  cases hp : pde.testBit 0 with
  | false => simp [Walk.flag, Walk.follow, hp]
  | true =>
    cases hl : c.largePage pde with
    | true =>
      have hr := Cpu.pdeReserved_32 h pde
      rw [hl, Bool.true_and] at hr
      by_cases hz : Walk.field pde 21 17 = 0
      · rw [Walk.follow_large hp (by simp [hr, hz]) hl, Cpu.pageSize_m4 h hl, Cpu.frameAt_m4 h hl]
        simp [Walk.flag, hp, hz]
      · simp [Walk.flag, Walk.follow, hp, hz, hr]
    | false =>
      have hr : c.pdeReserved pde = false := by rw [Cpu.pdeReserved_32 h, hl, Bool.false_and]
      have hframe : Walk.field pte 35 12 = Walk.field pte 31 12 := by
        simp only [Walk.field]
        omega
      rw [Walk.follow_table hp hr hl, Cpu.frameAt_k4 hl, hframe, Cpu.pteReserved_32 h]
      simp [Walk.flag, hp]

/-- With 64-bit entries (R219). -/
theorem walkPae_follows {c : Cpu} {b : Bus} {la : W32} {pde pte : Nat} (h : bit c.ctl.cr4 5 = true)
    (hty : c.typesDefined) (hpde : Walk.value b (c.pdeAt la) 8 = pde) (hpte : Walk.value b (c.pteAt la pde) 8 = pte)
    (write user : Bool) :
    ∃ t1 t2, Walk.walkPae c b la write user
      = Walk.follow c la write user ⟨pde, ⟨c.pdeAt la, t1⟩⟩ ⟨pte, ⟨c.pteAt la pde, t2⟩⟩ := by
  have hlt : pde < 2 ^ 64 := hpde ▸ Walk.value_lt ..
  have hlt' : pte < 2 ^ 64 := hpte ▸ Walk.value_lt ..
  obtain ⟨t1, h1⟩ :=
    hty (some ⟨c.patField (BitVec.ofNat 3 (Walk.field (Walk.pdpte c la).toNat 4 3)), none⟩) (c.pdeAt la)
  obtain ⟨t2, h2⟩ := hty (some ⟨c.patField (BitVec.ofNat 3 (Walk.field pde 4 3)), none⟩) (c.pteAt la pde)
  refine ⟨t1, t2, ?_⟩
  unfold Walk.walkPae
  simp only [Cpu.pdeAt_pae h, Walk.entry_ok h1, hpde, Cpu.pteAt_pae h, Walk.entry_ok h2, hpte, ← Cpu.largePage_pae h,
    ← Cpu.pdeReserved_pae h hlt, ← Cpu.pteReserved_pae h hlt']
  cases hp : pde.testBit 0 with
  | false => simp [Walk.flag, Walk.follow, hp]
  | true =>
    cases hr : c.pdeReserved pde with
    | true => simp [Walk.flag, Walk.follow, hp, hr]
    | false =>
      cases hl : c.largePage pde with
      | true =>
        rw [Walk.follow_large hp hr hl, Cpu.pageSize_m2 h hl, Cpu.frameAt_m2 h hl]
        simp [Walk.flag, hp]
      | false =>
        rw [Walk.follow_table hp hr hl, Cpu.frameAt_k4 hl]
        simp [Walk.flag, hp]

/-- The walk of either form. -/
theorem walk_follows {c : Cpu} {b : Bus} {la : W32} {pde pte : Nat} (hty : c.typesDefined)
    (hpde : Walk.value b (c.pdeAt la) c.entryBytes = pde) (hpte : Walk.value b (c.pteAt la pde) c.entryBytes = pte)
    (write user : Bool) :
    ∃ t1 t2, walk c b la write user
      = Walk.follow c la write user ⟨pde, ⟨c.pdeAt la, t1⟩⟩ ⟨pte, ⟨c.pteAt la pde, t2⟩⟩ := by
  unfold walk
  unfold Cpu.entryBytes at hpde hpte
  cases h : bit c.ctl.cr4 5 with
  | true => rw [h] at hpde hpte; exact walkPae_follows h hty hpde hpte write user
  | false => rw [h] at hpde hpte; exact walk32_follows h hty hpde hpte write user

end Sys2Proof.Machine
end

section
namespace Sys2Proof.Machine

/-! Flags of entries in memory. -/

/-- A byte that has a flag is not changed by setting it. -/
theorem Byte.or_flag {x : Byte} {k : Nat} (h : x.getLsbD k = true) : x ||| BitVec.twoPow 8 k = x := by
  refine BitVec.eq_of_getLsbD_eq fun i hi => ?_
  rw [BitVec.getLsbD_or, BitVec.getLsbD_twoPow]
  by_cases hik : k = i
  · simp [← hik, h]
  · simp [hik]

/-- The flags of an entry are bits of its first byte. -/
theorem Walk.value_testBit {b : Bus} {a n k : Nat} (hn : 0 < n) (hk : k < 8) :
    (Walk.value b a n).testBit k = (b.read a).getLsbD k := by
  obtain ⟨n, rfl⟩ := Nat.exists_eq_succ_of_ne_zero hn.ne'
  have hv : ∃ rest, Walk.value b a (n + 1) = (b.read a).toNat + 2 ^ 8 * rest := by
    refine ⟨leNat (b.readBytes ((List.range n).map fun i => a + (i + 1))), ?_⟩
    simp [Walk.value, List.range_succ_eq_map, Bus.readBytes, leNat, Function.comp_def]
  obtain ⟨rest, hv⟩ := hv
  have hlow : Walk.value b a (n + 1) % 2 ^ 8 = (b.read a).toNat := by
    rw [hv, Nat.add_mul_mod_self_left, Nat.mod_eq_of_lt (b.read a).isLt]
  rw [BitVec.getLsbD, ← hlow, Nat.testBit_mod_two_pow, decide_eq_true hk, Bool.true_and]

/-- Where every address is read-write memory, setting flags of an entry changes its first byte only. -/
theorem Bus.mark_read_of_map {b : Bus} (hmap : b.map = []) (hwf : b.mem.wf = true) (c : Cpu) (f : Byte) (e : EntryRef)
    (a : Nat) : (b.mark c f e).mem.read a = if a = e.addr then b.mem.read a ||| f else b.mem.read a := by
  have hmem : (b.mark c f e).mem = b.mem.write e.addr (b.mem.read e.addr ||| f) := by
    rw [← Bus.read_of_map hmap]
    exact Bus.put_of_map hmap _
  rw [hmem]
  split
  · next h => rw [h, Memory.read_write_same hwf]
  · next h => exact Memory.read_write_other _ _ h

/-- Setting A in a list of entries sets it in the first byte of each. -/
theorem Bus.setAccessedFlags_read {b : Bus} (hmap : b.map = []) (hwf : b.mem.wf = true) (c : Cpu) (l : List EntryRef)
    (a : Nat) : (Bus.setAccessedFlags c l b).mem.read a
      = if a ∈ l.map (·.addr) then b.mem.read a ||| 0x20#8 else b.mem.read a := by
  induction l generalizing b with
  | nil => rfl
  | cons e t ih =>
    rw [Bus.setAccessedFlags, ih ((Bus.mark_map ..).trans hmap) (Bus.mark_wf c _ e b hwf),
      Bus.mark_read_of_map hmap hwf, List.map_cons]
    by_cases he : a = e.addr <;> by_cases ht : a ∈ t.map (·.addr) <;>
      simp [he, ht, BitVec.or_assoc]

/-- An entry as memory holds it. -/
def Walk.Entry.InMemory (b : Bus) (e : Walk.Entry) : Prop := ∃ n, 0 < n ∧ e.v = Walk.value b e.ref.addr n

theorem Walk.Entry.InMemory.testBit {b : Bus} (hmap : b.map = []) {e : Walk.Entry} (h : e.InMemory b) {k : Nat}
    (hk : k < 8) : e.v.testBit k = (b.mem.read e.ref.addr).getLsbD k := by
  obtain ⟨n, hn, hv⟩ := h
  rw [hv, Walk.value_testBit hn hk, Bus.read_of_map hmap]

/-- The entries whose A has to be set are those where it is clear. -/
theorem Walk.Entry.mem_unaccessed {es : List Walk.Entry} {a : Nat} :
    a ∈ (es.flatMap (·.unaccessed)).map (·.addr) ↔ ∃ e ∈ es, Walk.flag e.v 5 = false ∧ e.ref.addr = a := by
  have hone (e : Walk.Entry) (r : EntryRef) : r ∈ e.unaccessed ↔ Walk.flag e.v 5 = false ∧ r = e.ref := by
    unfold Walk.Entry.unaccessed
    cases Walk.flag e.v 5 <;> simp
  simp only [List.mem_map, List.mem_flatMap, hone]
  constructor
  · rintro ⟨_, ⟨e, he, hclear, rfl⟩, rfl⟩
    exact ⟨e, he, hclear, rfl⟩
  · rintro ⟨e, he, hclear, rfl⟩
    exact ⟨_, ⟨e, he, hclear, rfl⟩, rfl⟩

/-- Setting A where it is clear leaves A set in all the entries, and changes nothing else (R212). -/
theorem Bus.setAccessedFlags_unaccessed {b : Bus} (hmap : b.map = []) (hwf : b.mem.wf = true) (c : Cpu)
    {es : List Walk.Entry} (hes : ∀ e ∈ es, e.InMemory b) (a : Nat) :
    (Bus.setAccessedFlags c (es.flatMap (·.unaccessed)) b).mem.read a
      = if a ∈ es.map (·.ref.addr) then b.mem.read a ||| 0x20#8 else b.mem.read a := by
  rw [Bus.setAccessedFlags_read hmap hwf]
  by_cases hclear : a ∈ (es.flatMap (·.unaccessed)).map (·.addr)
  · obtain ⟨e, he, -, rfl⟩ := Walk.Entry.mem_unaccessed.mp hclear
    rw [if_pos hclear, if_pos (List.mem_map_of_mem he)]
  · rw [if_neg hclear]
    split
    · next hin =>
      obtain ⟨e, he, rfl⟩ := List.mem_map.mp hin
      have hset : Walk.flag e.v 5 = true := by
        by_contra h
        exact hclear (Walk.Entry.mem_unaccessed.mpr ⟨e, he, Bool.eq_false_of_not_eq_true h, rfl⟩)
      have hbit := (hes e he).testBit hmap (k := 5) (by decide)
      exact (Byte.or_flag (k := 5) (hbit ▸ hset)).symm
    · rfl

theorem Bus.setAccessedFlags_append (c : Cpu) (l l' : List EntryRef) (b : Bus) :
    Bus.setAccessedFlags c (l ++ l') b = Bus.setAccessedFlags c l' (Bus.setAccessedFlags c l b) := by
  induction l generalizing b with
  | nil => rfl
  | cons e t ih => exact ih _

/-! What an access does with a walk. -/

/-- The translation of the address is walked, every address is read-write memory, and every access is allowed by the
state of the caches and has a memory type. -/
structure WalksTables (c : Cpu) (b : Bus) (la : W32) : Prop where
  pg : c.pg = true
  tlb : ∀ e ∈ b.tlb, e.covers la = false
  map : b.map = []
  wf : b.mem.wf = true
  coherent : incoherent c b = false
  types : c.typesDefined

/-- Without a cached translation the tables are walked. -/
theorem WalksTables.translate_eq {c : Cpu} {b : Bus} {la : W32} (h : WalksTables c b la) (write user : Bool) :
    translate la write user c b = useWalk la (walk c b la write user) c b := by
  have hnone : (b.tlb.filter fun e => e.covers la && !e.redundant (walk c b la write user)) = [] :=
    List.filter_eq_nil_iff.mpr fun e he => by simp [h.tlb e he]
  unfold translate
  rw [B.bind_ok (run_regs c b), B.bind_ok (run_getBus c b), B.bind_ok (run_modBus _ c b), hnone,
    Bus.accessed_of_map h.map]

/-- What follows the walk. -/
def afterWalk (la : W32) (n : Nat) (e : TlbEntry) : B Phys := do
  return .run la (e.addr la) n (← typeOrRefuse (some e.attr) (e.addr la)) [e.leaf]

theorem WalksTables.physicalPage_eq {c : Cpu} {b : Bus} {la : W32} (h : WalksTables c b la) (n : Nat)
    (write user : Bool) :
    physicalPage la n write user c b = (useWalk la (walk c b la write user) >>= afterWalk la n) c b := by
  rw [B.run_bind, ← h.translate_eq, ← B.run_bind]
  unfold physicalPage afterWalk
  rw [B.bind_ok (run_regs c b), B.bind_ok (run_getBus c b)]
  simp only [h.coherent, h.pg, Bool.false_eq_true, if_false, if_true]

/-- A fault that sets no flag leaves everything as it was. -/
theorem WalksTables.physicalPage_fault {c : Cpu} {b : Bus} {la : W32} (h : WalksTables c b la) {write user : Bool}
    {code : W32} (hw : walk c b la write user = .fault code [] []) (n : Nat) :
    physicalPage la n write user c b = .error (.exc (.pf code la)) b := by
  rw [h.physicalPage_eq, hw]
  rfl

/-- Flags that may be set are all set, or none (U16). -/
theorem applyMaybe_read {b : Bus} (hmap : b.map = []) (hwf : b.mem.wf = true) (c : Cpu) (may : List EntryRef) :
    ∃ b1 l, applyMaybe may c b = .ok () b1 ∧ (l = [] ∨ l = may)
      ∧ ∀ a, b1.mem.read a = (Bus.setAccessedFlags c l b).mem.read a := by
  cases may with
  | nil => exact ⟨b, [], rfl, .inl rfl, fun _ => rfl⟩
  | cons e t =>
    set b' : Bus := { b with freeCtr := b.freeCtr + 1 }
    have hrun : applyMaybe (e :: t) c b
        = (if (Config.freeWord b.freeCtr).getLsbD 0 then applySets (e :: t) else pure ()) c b' :=
      B.bind_ok (run_freeBit c b)
    rw [hrun]
    cases (Config.freeWord b.freeCtr).getLsbD 0 with
    | false => exact ⟨b', [], rfl, .inl rfl, fun _ => rfl⟩
    | true =>
      refine ⟨Bus.setAccessedFlags c (e :: t) b', e :: t, rfl, .inr rfl, fun a => ?_⟩
      rw [Bus.setAccessedFlags_read (b := b') hmap hwf, Bus.setAccessedFlags_read hmap hwf]

/-- A page fault: some flags are set first, others may be. -/
theorem useWalk_fault {b : Bus} (hmap : b.map = []) (hwf : b.mem.wf = true) (la : W32) (c : Cpu) (code : W32)
    (sets may : List EntryRef) :
    ∃ b1 l, useWalk la (.fault code sets may) c b = .error (.exc (.pf code la)) b1 ∧ (l = [] ∨ l = may)
      ∧ ∀ a, b1.mem.read a = (Bus.setAccessedFlags c (sets ++ l) b).mem.read a := by
  obtain ⟨b1, l, hmay, hl, hread⟩ := applyMaybe_read ((Bus.setAccessedFlags_map ..).trans hmap)
    (Bus.setAccessedFlags_wf c sets b hwf) c may
  have hsets : applySets sets c b = .ok () (Bus.setAccessedFlags c sets b) := rfl
  refine ⟨b1, l, ?_, hl, fun a => by rw [Bus.setAccessedFlags_append, hread]⟩
  exact (B.bind_ok hsets).trans (B.bind_ok hmay)

/-- A protection fault. -/
theorem WalksTables.physicalPage_protection {c : Cpu} {b : Bus} {la : W32} (h : WalksTables c b la) {write user : Bool}
    {code : W32} {sets may : List EntryRef} (hw : walk c b la write user = .fault code sets may) (n : Nat) :
    ∃ b1 l, physicalPage la n write user c b = .error (.exc (.pf code la)) b1 ∧ (l = [] ∨ l = may)
      ∧ ∀ a, b1.mem.read a = (Bus.setAccessedFlags c (sets ++ l) b).mem.read a := by
  obtain ⟨b1, l, hrun, hl⟩ := useWalk_fault h.map h.wf la c code sets may
  refine ⟨b1, l, ?_, hl⟩
  rw [h.physicalPage_eq, hw]
  exact B.bind_error hrun

/-- A translation that is found: the access goes to its frame. -/
theorem WalksTables.physicalPage_ok {c : Cpu} {b : Bus} {la : W32} (h : WalksTables c b la) {write user : Bool}
    {e : TlbEntry} {sets : List EntryRef} {types : List MemType}
    (hw : walk c b la write user = .ok e sets types) (n : Nat) :
    ∃ t, physicalPage la n write user c b
      = .ok (.run la (e.addr la) n t [e.leaf]) ((Bus.setAccessedFlags c sets b).fill e) := by
  obtain ⟨t, ht⟩ := h.types (some e.attr) (e.addr la)
  have hrun : useWalk la (.ok e sets types) c b = .ok e ((Bus.setAccessedFlags c sets b).fill e) := rfl
  refine ⟨t, ?_⟩
  rw [h.physicalPage_eq, hw, B.bind_ok hrun]
  unfold afterWalk
  rw [B.bind_ok (typeOrRefuse_ok ht _)]
  rfl

/-! The store that follows. -/

/-- A register of the APIC is no memory. -/
theorem Apic_store_read {off n : Nat} {v : W32} {c : Cpu} {b b1 : Bus} (h : Apic.store off n v c b = .ok () b1)
    (a : Nat) : b1.mem.read a = b.mem.read a := by
  rw [blind_store off n v c { c with ctl.cr0 := 0#32 } b] at h
  have hpg : Cpu.pg { c with ctl.cr0 := 0#32 } = false := by simp [Cpu.pg, bit]
  exact ((quiet_Apic_store off n v).ok h).2 hpg a (by simp)

/-- A present entry has D set once the page it maps is about to be written (R212). -/
theorem Bus.setDirty_read_leaf {b : Bus} (hmap : b.map = []) (hwf : b.mem.wf = true) (c : Cpu) (e : EntryRef)
    (hp : (b.mem.read e.addr).getLsbD 0 = true) :
    (Bus.setDirty c [e] b).mem.read e.addr = b.mem.read e.addr ||| 0x40#8 := by
  have hmem : (Bus.setDirty c [e] b).mem
      = (if (b.read e.addr).getLsbD 0 && !(b.read e.addr).getLsbD 6 then b.mark c 0x40#8 e else b).mem := rfl
  rw [hmem, Bus.read_of_map hmap, hp, Bool.true_and]
  cases h6 : (b.mem.read e.addr).getLsbD 6 with
  | false => exact (Bus.mark_read_of_map hmap hwf c _ e _).trans (if_pos rfl)
  | true => exact (Byte.or_flag h6).symm

/-- A store sets D of the entry that maps its page, where it does not overwrite it. -/
theorem storePhys_leaf {p : Phys} {leaf : EntryRef} {b b2 : Bus} {c : Cpu} {bytes : List Byte} (hl : p.leaves = [leaf])
    (hmap : b.map = []) (hwf : b.mem.wf = true) (hp : (b.mem.read leaf.addr).getLsbD 0 = true)
    (hout : leaf.addr ∉ p.addrs) (h : storePhys p bytes c b = .ok () b2) :
    b2.mem.read leaf.addr = b.mem.read leaf.addr ||| 0x40#8 := by
  unfold storePhys at h
  rw [B.bind_ok (run_regs c b), B.bind_ok (run_modBus _ c b), hl] at h
  rw [← Bus.setDirty_read_leaf hmap hwf c leaf hp]
  cases hoff : p.apicOffset c with
  | some off =>
    rw [hoff] at h
    exact Apic_store_read h _
  | none =>
    rw [hoff] at h
    cases h
    exact Bus.store_read_other c p bytes _ hout

end Sys2Proof.Machine
end

section
namespace Sys2Proof.Machine

/-- The page protection, as R320 and R321 give it for user and for supervisor accesses. -/
theorem pageProt_iff {c : Cpu} {us rw write user : Bool} : pageProt c us rw write user = true ↔
    if user then us = true ∧ (write = true → rw = true) else write = true → bit c.ctl.cr0 16 = true → rw = true := by
  unfold pageProt
  cases user <;> cases write <;> simp [imp_iff_not_or]

theorem TlbEntry.addr_leaf (c : Cpu) (la : W32) (pde pte : Nat) (us rw : Bool) (e : Walk.Entry) (patBit : Nat) :
    (Walk.leaf c la (c.pageSize pde) (c.frameAt pde pte) us rw e patBit).addr la
      = c.frameAt pde pte + la.toNat % c.pageBytes pde := by
  rw [← Cpu.pageSize_bytes]
  show (BitVec.ofNat 36 (c.frameAt pde pte)).toNat + _ = _
  rw [BitVec.toNat_ofNat, Nat.mod_eq_of_lt (c.frameAt_lt pde pte)]
  rfl

/-- The entries that a walk uses: the table entry too, if the page is not large. -/
def Walk.used (large : Bool) (pde pte : Walk.Entry) : List Walk.Entry := if large then [pde] else [pde, pte]

/-- A walk that sets A where it is clear leaves A set in the entries it uses, and changes nothing else. -/
theorem WalksTables.used_read {c : Cpu} {b : Bus} {la : W32} (h : WalksTables c b la) {pde pte : Walk.Entry}
    (hpde : pde.InMemory b) (hpte : pte.InMemory b) (large : Bool) (a : Nat) :
    (Bus.setAccessedFlags c (pde.unaccessed ++ if large then [] else pte.unaccessed) b).mem.read a
      = if a = pde.ref.addr ∨ (large = false ∧ a = pte.ref.addr) then b.mem.read a ||| 0x20#8 else b.mem.read a := by
  have hsets : pde.unaccessed ++ (if large then [] else pte.unaccessed)
      = (Walk.used large pde pte).flatMap (·.unaccessed) := by
    cases large <;> simp [Walk.used]
  have hplaces : a ∈ (Walk.used large pde pte).map (·.ref.addr) ↔
      a = pde.ref.addr ∨ (large = false ∧ a = pte.ref.addr) := by
    cases large <;> simp [Walk.used]
  have hused : ∀ e ∈ Walk.used large pde pte, e.InMemory b := by
    cases large <;> simp [Walk.used, hpde, hpte]
  rw [hsets, Bus.setAccessedFlags_unaccessed h.map h.wf c hused, if_congr hplaces rfl rfl]

/-- After a protection fault A is set in the directory entry, perhaps in the table entry, and in nothing else (U16). -/
theorem WalksTables.protection_read {c : Cpu} {b b1 : Bus} {la : W32} (h : WalksTables c b la) {pde pte : Walk.Entry}
    (hpde : pde.InMemory b) (hpte : pte.InMemory b) {large : Bool} {l : List EntryRef}
    (hl : l = [] ∨ l = if large then [] else pte.unaccessed)
    (hread : ∀ a, b1.mem.read a = (Bus.setAccessedFlags c (pde.unaccessed ++ l) b).mem.read a) :
    b1.mem.read pde.ref.addr = b.mem.read pde.ref.addr ||| 0x20#8
      ∧ (large = false → pte.ref.addr ≠ pde.ref.addr →
        b1.mem.read pte.ref.addr = b.mem.read pte.ref.addr
          ∨ b1.mem.read pte.ref.addr = b.mem.read pte.ref.addr ||| 0x20#8)
      ∧ ∀ a, a ≠ pde.ref.addr → (large = true ∨ a ≠ pte.ref.addr) → b1.mem.read a = b.mem.read a := by
  rcases hl with rfl | rfl
  · have hread' (a : Nat) := (hread a).trans (h.used_read hpde hpte true a)
    exact ⟨(hread' _).trans (if_pos (.inl rfl)), fun _ hne => .inl ((hread' _).trans (if_neg (by simp [hne]))),
      fun a hne _ => (hread' a).trans (if_neg (by simp [hne]))⟩
  · have hread' (a : Nat) := (hread a).trans (h.used_read hpde hpte large a)
    refine ⟨(hread' _).trans (if_pos (.inl rfl)), fun hl _ => .inr ((hread' _).trans (if_pos (.inr ⟨hl, rfl⟩))),
      fun a hne hor => (hread' a).trans (if_neg ?_)⟩
    rintro (rfl | ⟨hl, rfl⟩)
    · exact hne rfl
    · exact hor.elim (fun ht => by rw [hl] at ht; cases ht) (· rfl)

/-- The entry that maps the page: the directory entry of a large page, else the table entry. -/
def Walk.leafEntry (large : Bool) (pde pte : Walk.Entry) : Walk.Entry := if large then pde else pte

/-- A store through a translation just walked sets D of the entry that maps the page, besides A. -/
theorem WalksTables.store_leaf {c : Cpu} {b b2 : Bus} {la : W32} (h : WalksTables c b la) {pde pte : Walk.Entry}
    (hpde : pde.InMemory b) (hpte : pte.InMemory b) {large : Bool} (hp : pde.v.testBit 0 = true)
    (hp' : large = false → pte.v.testBit 0 = true) {e : TlbEntry} {p : Phys}
    (hl : p.leaves = [(Walk.leafEntry large pde pte).ref]) {bytes : List Byte}
    (hstore : storePhys p bytes c
      ((Bus.setAccessedFlags c (pde.unaccessed ++ if large then [] else pte.unaccessed) b).fill e) = .ok () b2)
    (hout : (Walk.leafEntry large pde pte).ref.addr ∉ p.addrs) :
    b2.mem.read (Walk.leafEntry large pde pte).ref.addr
      = b.mem.read (Walk.leafEntry large pde pte).ref.addr ||| 0x60#8 := by
  set b1 := (Bus.setAccessedFlags c (pde.unaccessed ++ if large then [] else pte.unaccessed) b).fill e
  have hin : (Walk.leafEntry large pde pte).ref.addr = pde.ref.addr
      ∨ (large = false ∧ (Walk.leafEntry large pde pte).ref.addr = pte.ref.addr) := by
    cases large <;> simp [Walk.leafEntry]
  have hread := (h.used_read hpde hpte large _).trans (if_pos hin)
  have hbit : (b.mem.read (Walk.leafEntry large pde pte).ref.addr).getLsbD 0 = true := by
    cases large with
    | true => exact (hpde.testBit h.map (by decide)).symm.trans hp
    | false => exact (hpte.testBit h.map (by decide)).symm.trans (hp' rfl)
  have hpresent : (b1.mem.read (Walk.leafEntry large pde pte).ref.addr).getLsbD 0 = true := by
    refine (congrArg (·.getLsbD 0) hread).trans ?_
    rw [BitVec.getLsbD_or, hbit, Bool.true_or]
  have hmap : b1.map = [] := (Bus.setAccessedFlags_map ..).trans h.map
  have hwf : b1.mem.wf = true := Bus.setAccessedFlags_wf c _ b h.wf
  calc b2.mem.read (Walk.leafEntry large pde pte).ref.addr
      = b1.mem.read (Walk.leafEntry large pde pte).ref.addr ||| 0x40#8 :=
        storePhys_leaf hl hmap hwf hpresent hout hstore
    _ = b.mem.read (Walk.leafEntry large pde pte).ref.addr ||| 0x20#8 ||| 0x40#8 := congrArg (· ||| 0x40#8) hread
    _ = b.mem.read (Walk.leafEntry large pde pte).ref.addr ||| 0x60#8 := BitVec.or_assoc ..

/-- Settles O60: the walk is `Walk.follow`, branch by branch. -/
theorem pageWalkFollowsTables : Obligations.PageWalkFollowsTables := by
  intro c b la n write user hpg htlb hmap hwf hinc hty pdeAt pde large pteAt pte us rw allowed fault result
  have h : WalksTables c b la := ⟨hpg, htlb, hmap, hwf, hinc, hty⟩
  obtain ⟨t1, t2, hw⟩ := walk_follows hty (Eq.refl pde) (Eq.refl pte) write user
  set dir : Walk.Entry := ⟨pde, ⟨pdeAt, t1⟩⟩
  set tab : Walk.Entry := ⟨pte, ⟨pteAt, t2⟩⟩
  have hsize : 0 < c.entryBytes := by unfold Cpu.entryBytes; split <;> decide
  have hdir : dir.InMemory b := ⟨_, hsize, rfl⟩
  have htab : tab.InMemory b := ⟨_, hsize, rfl⟩
  unfold Walk.follow at hw
  split
  case isTrue hnp => exact h.physicalPage_fault (hw.trans (if_pos hnp)) n
  case isFalse hp =>
  replace hw := hw.trans (if_neg hp)
  split
  case isTrue hr => exact h.physicalPage_fault (hw.trans (if_pos hr)) n
  case isFalse hr =>
  replace hw := hw.trans (if_neg hr)
  split
  case isTrue hnp => exact h.physicalPage_fault (hw.trans (if_pos hnp)) n
  case isFalse hp' =>
  replace hw := hw.trans (if_neg hp')
  split
  case isTrue hr => exact h.physicalPage_fault (hw.trans (if_pos hr)) n
  case isFalse hr' =>
  replace hw := hw.trans (if_neg hr')
  split
  case isTrue hforbid =>
    have hprot : pageProt c us rw write user = false := by
      rw [← Bool.not_eq_true, pageProt_iff]
      exact hforbid
    obtain ⟨b1, l, hrun, hl, hread⟩ := h.physicalPage_protection (hw.trans (if_pos hprot)) n
    exact ⟨b1, hrun, h.protection_read hdir htab hl hread⟩
  case isFalse hallowed =>
    have hprot : pageProt c us rw write user = true := pageProt_iff.mpr (not_not.mp hallowed)
    obtain ⟨t, hrun⟩ := h.physicalPage_ok (hw.trans (if_neg (by rw [hprot]; decide))) n
    have hread (a : Nat) := h.used_read hdir htab large a
    refine ⟨_, _, hrun, by rw [← TlbEntry.addr_leaf]; rfl, hread, ?_⟩
    intro bytes b2 _ _ hstore leafAt hout
    have hat : (Walk.leafEntry large dir tab).ref.addr = leafAt := apply_ite (fun x : Walk.Entry => x.ref.addr) ..
    rw [← hat] at hout ⊢
    have hpresent : large = false → tab.v.testBit 0 = true := fun hl =>
      Bool.eq_true_of_not_eq_false fun hnp => hp' ⟨hl, hnp⟩
    exact h.store_leaf hdir htab (Bool.eq_true_of_not_eq_false hp) hpresent rfl hstore hout

end Sys2Proof.Machine
end

section
namespace Sys2Proof.Machine

/-! The segment check: modes, kinds of segment and the limit in the words of the rules. -/

/-- Protected mode, not virtual-8086 mode (R5). -/
theorem Cpu.prot_iff {c : Cpu} : c.prot = true ↔ c.pe = true ∧ c.fl.vm = false := by simp [Cpu.prot]

theorem Cpu.v86_iff {c : Cpu} : c.v86 = true ↔ c.pe = true ∧ c.fl.vm = true := by simp [Cpu.v86]

theorem SegReg.isData_iff {r : SegReg} : r.isData = true ↔ r.s = true ∧ r.typ.getLsbD 3 = false := by
  simp [SegReg.isData]

theorem SegReg.isCode_iff {r : SegReg} : r.isCode = true ↔ r.s = true ∧ r.typ.getLsbD 3 = true := by
  simp [SegReg.isCode]

theorem SegReg.writable_iff {r : SegReg} : r.writable = true ↔ r.isData = true ∧ r.typ.getLsbD 1 = true := by
  simp [SegReg.writable]

theorem SegReg.readable_iff {r : SegReg} :
    r.readable = true ↔ r.isData = true ∨ (r.isCode = true ∧ r.typ.getLsbD 1 = true) := by
  simp [SegReg.readable]

theorem SegReg.expandDown_iff {r : SegReg} : r.expandDown = true ↔ r.isData = true ∧ r.typ.getLsbD 2 = true := by
  simp [SegReg.expandDown]

/-- LimitOK (R262): an expand-down segment holds the offsets above its limit, any other the ones up to it. -/
theorem SegReg.limitOk_iff {r : SegReg} {off : W32} {n : Nat} : r.limitOk off n = true ↔
    if r.expandDown = true then
      r.limit.toNat < off.toNat ∧ off.toNat + n - 1 ≤ if r.db then 0xFFFFFFFF else 0xFFFF
    else off.toNat + n - 1 ≤ r.limit.toNat := by
  unfold SegReg.limitOk
  cases r.expandDown <;> simp

/-- SegCheck (R267) in the terms of the modes and the kinds of segment: first whether the segment allows the access at any
offset, then the limit. -/
theorem segCheck_eq (c : Cpu) (sr : Seg) (off : W32) (n : Nat) (write : Bool) : segCheck c sr off n write =
    if ((c.seg.get sr).unusable = true ∧ ¬c.v86 = true) ∨ (c.prot = true ∧
        ((write = true ∧ ¬(c.seg.get sr).writable = true) ∨ (write = false ∧ ¬(c.seg.get sr).readable = true)))
      then some (.gp 0#32)
    else if (c.seg.get sr).limitOk off n = true then none
    else some (if sr = .ss then .ss 0#32 else .gp 0#32) := by
  refine if_congr ?_ rfl rfl
  cases write <;> simp

/-- Settles O58: the two tests of `segCheck_eq`, put in the words of the rule one after the other. -/
theorem segmentCheckFollowsLimit : Obligations.SegmentCheckFollowsLimit := by
  intro c sr off n write r last data code inside
  have hinside : r.limitOk off n = true ↔ inside := by
    rw [SegReg.limitOk_iff]
    simp only [SegReg.expandDown_iff, SegReg.isData_iff]
    rfl
  rw [segCheck_eq]
  refine if_congr ?_ rfl (if_congr hinside rfl rfl)
  rw [Cpu.v86_iff, Cpu.prot_iff, SegReg.writable_iff, SegReg.readable_iff, SegReg.isData_iff, SegReg.isCode_iff, not_or]

end Sys2Proof.Machine
end

section
namespace Sys2Proof.Decode

/-! Decoding an encoded instruction: the prefixes, the opcode bytes, a ModR/M operand, an immediate. -/

/-! Operands at the end of an instruction. -/

theorem word_end (v : W16) : word (Encode.word v) = .ok v [] := by
  simpa using word_run v []

theorem immv_end {c : Ctx} {i : ImmV} (h : c.osz = i.size) : immv c (Encode.immv i) = .ok i [] := by
  simpa using immv_run c i h []

theorem farPtr_end {c : Ctx} {p : FarPtr} (h : c.osz = Encode.farSize p) : farPtr c (Encode.farPtr p) = .ok p [] := by
  simpa using farPtr_run c p h []

/-- All bytes are used. -/
theorem ok_of_eq {i j : Instr} (h : i = j) : (.ok i [] : EStateM.Result Why (List Byte) Instr) = .ok j [] := by rw [h]

/-- The ModR/M byte of a move to or from a control or debug register (R471). -/
theorem crOperand_end (n k : BitVec 3) : crOperand [3#2 ++ n ++ k] = .ok (n, k) [] := by
  show EStateM.Result.ok ((3#2 ++ n ++ k : Byte).extractLsb' 3 3, (3#2 ++ n ++ k : Byte).extractLsb' 0 3) [] = _
  rw [field_reg, field_rm]

/-- Without LOCK every instruction may be finished. -/
theorem done_run {c : Ctx} {i j : Instr} (hc : c.lock = false) (h : i = j) (t : List Byte) : done c i t = .ok j t := by
  subst h
  unfold done
  rw [hc]
  rfl

/-- LOCK may stand where the destination is memory (R461). -/
theorem doneLock_run {ρ : Type} {num : ρ → BitVec 3} {c : Ctx} {rm : RegMem ρ} {f : Bool → Instr} {j : Instr}
    (hc : lockWf c.lock rm = true) (h : f c.lock = j) (t : List Byte) : doneLock c (operand num rm) f t = .ok j t := by
  subst h
  cases rm with
  | mem m => rfl
  | reg r =>
    have hl : c.lock = false := by simpa [lockWf] using hc
    show (if c.lock then throw Why.ud else pure (f false) : P Instr) t = _
    rw [hl]
    rfl

/-- A memory operand is one. -/
theorem asMem_run {ρ : Type} (num : ρ → BitVec 3) (m : MemOp) (t : List Byte) :
    asMem (operand num (.mem m)) t = .ok m t := rfl

/-! Opcodes that hold a register or a condition. -/

theorem opcode_incR (c : Ctx) (r : Gpr) :
    opcode c (0x40#8 ||| (Encode.gpr r).setWidth 8) = done c (.incR c.osz r) := by cases r <;> rfl
theorem opcode_decR (c : Ctx) (r : Gpr) :
    opcode c (0x48#8 ||| (Encode.gpr r).setWidth 8) = done c (.decR c.osz r) := by cases r <;> rfl
theorem opcode_pushR (c : Ctx) (r : Gpr) :
    opcode c (0x50#8 ||| (Encode.gpr r).setWidth 8) = done c (.pushR c.osz r) := by cases r <;> rfl
theorem opcode_popR (c : Ctx) (r : Gpr) :
    opcode c (0x58#8 ||| (Encode.gpr r).setWidth 8) = done c (.popR c.osz r) := by cases r <;> rfl
theorem opcode_movR8Imm8 (c : Ctx) (r : Gpr8) :
    opcode c (0xb0#8 ||| (Encode.gpr8 r).setWidth 8) = byte >>= fun v => done c (.movR8Imm8 r v) := by cases r <;> rfl
theorem opcode_movRImm (c : Ctx) (r : Gpr) :
    opcode c (0xb8#8 ||| (Encode.gpr r).setWidth 8) = immv c >>= fun v => done c (.movRImm r v) := by cases r <;> rfl
theorem opcode_jccRel8 (c : Ctx) (cc : Cond) :
    opcode c (0x70#8 ||| (Encode.cond cc).setWidth 8) = byte >>= fun v => done c (.jccRel8 c.osz cc v) := by
  cases cc <;> rfl
theorem opcode2_jccRel (c : Ctx) (cc : Cond) :
    opcode2 c (0x80#8 ||| (Encode.cond cc).setWidth 8) = immv c >>= fun v => done c (.jccRel cc v) := by
  cases cc <;> rfl

/-- XCHG of EAX with itself is NOP (R596). -/
theorem opcode_xchgEaxR (c : Ctx) {r : Gpr} (h : r ≠ .eax) :
    opcode c (0x90#8 ||| (Encode.gpr r).setWidth 8) = done c (.xchgEaxR c.osz r) := by
  cases r with
  | eax => exact absurd rfl h
  | _ => rfl

theorem notPrefix_gpr (r : Gpr) {b : Byte} (h : b ∈ [0x40#8, 0x48#8, 0x50#8, 0x58#8, 0x90#8, 0xb8#8]) :
    notPrefix (b ||| (Encode.gpr r).setWidth 8) = true := by
  simp only [List.mem_cons, List.not_mem_nil, or_false] at h
  rcases h with rfl | rfl | rfl | rfl | rfl | rfl <;> cases r <;> rfl

theorem notPrefix_gpr8 (r : Gpr8) : notPrefix (0xb0#8 ||| (Encode.gpr8 r).setWidth 8) = true := by cases r <;> rfl

theorem notPrefix_cond (cc : Cond) : notPrefix (0x70#8 ||| (Encode.cond cc).setWidth 8) = true := by cases cc <;> rfl

/-! Instructions by the parts of their bytes. -/

/-- Prefixes, opcode bytes, and the operands after them. -/
theorem decode_parts {d lock : Bool} {o : Option OpSize} {m : Option MemOp} {b : Byte} {ops body : List Byte}
    {i : Instr} (hb : notPrefix b = true) (h : opcode (ctxOf d lock o m) b (ops ++ body) = .ok i []) :
    decode d (Encode.pfx d lock o m ++ b :: ops ++ body)
      = .ok i (Encode.pfx d lock o m ++ b :: ops ++ body).length := by
  rw [List.append_assoc]
  exact decode_of_run hb h

/-- Prefixes and opcode bytes alone: the operand size is all that the instruction holds. -/
theorem decode_sized {d : Bool} {o : OpSize} {m : Option MemOp} {b : Byte} {ops : List Byte} {f : OpSize → Instr}
    (hb : notPrefix b = true) (hop : ∀ c, opcode c b ops = done c (f c.osz) []) :
    decode d (Encode.pfx d false (some o) m ++ b :: ops)
      = .ok (f o) (Encode.pfx d false (some o) m ++ b :: ops).length :=
  decode_of_run hb ((hop _).trans (done_run rfl (by rw [ctxOf_osz]) []))

/-- Bytes without prefixes. -/
theorem decode_bare {d : Bool} {b : Byte} {t : List Byte} {i : Instr} (hb : notPrefix b = true)
    (h : opcode (ctxOf d false none none) b t = .ok i []) : decode d (b :: t) = .ok i (b :: t).length :=
  decode_of_run (lock := false) (o := none) (m := none) hb h

/-- The moves to and from control and debug registers. -/
theorem decode_crMove {d : Bool} {b : Byte} {f : BitVec 3 → Gpr → Instr} (n : BitVec 3) (r : Gpr)
    (hop : ∀ c t, opcode c 0x0f#8 (b :: t) = (crOperand >>= fun x => done c (f x.1 (gpr x.2))) t) :
    decode d ([0x0f#8, b] ++ [3#2 ++ n ++ Encode.gpr r])
      = .ok (f n r) ([0x0f#8, b] ++ [3#2 ++ n ++ Encode.gpr r]).length := by
  refine decode_bare rfl ((hop _ _).trans ?_)
  exact (P.bind_ok (crOperand_end n (Encode.gpr r))).trans (ok_of_eq (by rw [gpr_encode]))

/-- Prefixes, opcode bytes, a ModR/M operand, and an immediate after it: `rest` is what the decoder does after the
operand. -/
theorem decode_modrm_imm {ρ : Type} {num : ρ → BitVec 3} {d lock : Bool} {o : Option OpSize} {rm : RegMem ρ}
    {b : Byte} {ops imm : List Byte} {reg : BitVec 3} {i : Instr} {rest : Ctx → RegMem (BitVec 3) → P Instr}
    (hrm : rm.wf = true) (hb : notPrefix b = true)
    (hop : ∀ {c bs x t}, modrm c bs = .ok (reg, x) t → opcode c b (ops ++ bs) = rest c x t)
    (hrest : rest (ctxOf d lock o (Encode.memOf rm)) (operand num rm) imm = .ok i []) :
    decode d (Encode.pfx d lock o (Encode.memOf rm) ++ b :: ops ++ Encode.modrm num reg rm ++ imm)
      = .ok i (Encode.pfx d lock o (Encode.memOf rm) ++ b :: ops ++ Encode.modrm num reg rm ++ imm).length := by
  rw [List.append_assoc]
  exact decode_parts hb ((hop (modrm_run num _ reg rm hrm (fun _ => ctxOf_mem _) imm)).trans hrest)

/-- Prefixes, opcode bytes and a ModR/M operand. -/
theorem decode_modrm {ρ : Type} {num : ρ → BitVec 3} {d lock : Bool} {o : Option OpSize} {rm : RegMem ρ} {b : Byte}
    {ops : List Byte} {reg : BitVec 3} {i : Instr} {rest : Ctx → RegMem (BitVec 3) → P Instr}
    (hrm : rm.wf = true) (hb : notPrefix b = true)
    (hop : ∀ {c bs x t}, modrm c bs = .ok (reg, x) t → opcode c b (ops ++ bs) = rest c x t)
    (hrest : rest (ctxOf d lock o (Encode.memOf rm)) (operand num rm) [] = .ok i []) :
    decode d (Encode.pfx d lock o (Encode.memOf rm) ++ b :: ops ++ Encode.modrm num reg rm)
      = .ok i (Encode.pfx d lock o (Encode.memOf rm) ++ b :: ops ++ Encode.modrm num reg rm).length := by
  simpa using decode_modrm_imm (num := num) hrm hb hop hrest

/-- Settles O1, by the forms of the encodings. -/
theorem decodeEncodeAgree : Obligations.DecodeEncodeAgree := by
  intro d i h
  cases i with
  | clts | invd | wbinvd | ud2 | wrmsr | rdtsc | rdmsr | rdpmc | emms | cpuid | rsm | sfence | nop | wait | int3
  | into | fninit | inAlDx | outDxAl | hlt | cli | sti | addAlImm8 imm | orAlImm8 imm | andAlImm8 imm
  | subAlImm8 imm | xorAlImm8 imm | cmpAlImm8 imm | testAlImm8 imm | intN imm | inAlImm8 imm | outImm8Al imm =>
    exact decode_bare rfl rfl
  | pushFs osz | popFs osz | pushGs osz | popGs osz | pushEs osz | popEs osz | pushCs osz | pushSs osz | popSs osz
  | pushDs osz | popDs osz | pushf osz | popf osz | retNear osz | retFar osz | iret osz | inEaxDx osz
  | outDxEax osz =>
    exact decode_sized rfl fun _ => rfl
  | pushImm8 osz imm | inEaxImm8 osz imm | outImm8Eax osz imm | jmpRel8 osz imm =>
    exact decode_parts rfl ((P.bind_ok (byte_run imm [])).trans (ok_of_eq (by rw [ctxOf_osz])))
  | addEaxImm imm | orEaxImm imm | andEaxImm imm | subEaxImm imm | xorEaxImm imm | cmpEaxImm imm | pushImm imm
  | testEaxImm imm | callRel imm | jmpRel imm =>
    exact decode_parts rfl ((P.bind_ok (immv_end (ctxOf_osz ..))).trans (ok_of_eq rfl))
  | retNearImm osz imm | retFarImm osz imm =>
    exact decode_parts rfl ((P.bind_ok (word_end imm)).trans (ok_of_eq (by rw [ctxOf_osz])))
  | callFarPtr p | jmpFarPtr p =>
    exact decode_parts rfl ((P.bind_ok (farPtr_end (ctxOf_osz ..))).trans (ok_of_eq rfl))
  | movRCr n r | movRDr n r | movCrR n r | movDrR n r =>
    exact decode_crMove n r fun _ _ => rfl
  | incR osz r =>
    exact decode_sized (f := (.incR · r)) (notPrefix_gpr r (by decide)) fun c => congrFun (opcode_incR c r) []
  | decR osz r =>
    exact decode_sized (f := (.decR · r)) (notPrefix_gpr r (by decide)) fun c => congrFun (opcode_decR c r) []
  | pushR osz r =>
    exact decode_sized (f := (.pushR · r)) (notPrefix_gpr r (by decide)) fun c => congrFun (opcode_pushR c r) []
  | popR osz r =>
    exact decode_sized (f := (.popR · r)) (notPrefix_gpr r (by decide)) fun c => congrFun (opcode_popR c r) []
  | xchgEaxR osz r =>
    have hr : r ≠ .eax := by simpa [Instr.wf] using h
    exact decode_sized (f := (.xchgEaxR · r)) (notPrefix_gpr r (by decide)) fun c => congrFun (opcode_xchgEaxR c hr) []
  | movR8Imm8 r imm =>
    exact decode_bare (notPrefix_gpr8 r) (by rw [opcode_movR8Imm8]; rfl)
  | movRImm r imm =>
    refine decode_parts (notPrefix_gpr r (by decide)) ?_
    rw [opcode_movRImm]
    exact P.bind_ok (immv_end (ctxOf_osz ..))
  | jccRel8 osz cc imm =>
    exact decode_parts (notPrefix_cond cc) (by rw [opcode_jccRel8, ctxOf_osz]; rfl)
  | jccRel cc rel =>
    refine decode_parts rfl ?_
    show opcode2 _ _ (Encode.immv rel) = _
    rw [opcode2_jccRel]
    exact P.bind_ok (immv_end (ctxOf_osz ..))
  | sgdt osz m | sidt osz m | lgdt osz m | lidt osz m | callFarMem osz m | jmpFarMem osz m =>
    exact decode_modrm (num := Encode.gpr) (rm := .mem m) h rfl P.bind_ok
      ((P.bind_ok (asMem_run Encode.gpr m [])).trans (ok_of_eq (by rw [ctxOf_osz])))
  | invlpg m | fxsave m | fxrstor m | ldmxcsr m | stmxcsr m =>
    exact decode_modrm (num := Encode.gpr) (rm := .mem m) h rfl P.bind_ok
      ((P.bind_ok (asMem_run Encode.gpr m [])).trans (ok_of_eq rfl))
  | lss osz r m | lfs osz r m | lgs osz r m | bound osz r m | lea osz r m | les osz r m | lds osz r m =>
    exact decode_modrm (num := Encode.gpr) (rm := .mem m) h rfl P.bind_ok
      ((P.bind_ok (asMem_run Encode.gpr m [])).trans (ok_of_eq (by rw [ctxOf_osz, gpr_encode])))
  | lmsw rm | lldt rm | ltr rm | verr rm | verw rm | movSregRm sr rm =>
    exact decode_modrm h rfl P.bind_ok (ok_of_eq (by rw [asRm_operand]))
  | divRm8 rm | idivRm8 rm =>
    exact decode_modrm h rfl P.bind_ok (ok_of_eq (by rw [asRm8_operand]))
  | smsw osz rm | sldt osz rm | str osz rm | popRm osz rm | divRm osz rm | idivRm osz rm | callRm osz rm
  | jmpRm osz rm | pushRm osz rm | movRmSreg osz rm sr =>
    exact decode_modrm h rfl P.bind_ok (ok_of_eq (by rw [ctxOf_osz, asRm_operand]))
  | arpl rm r =>
    exact decode_modrm h rfl P.bind_ok (ok_of_eq (by rw [gpr_encode, asRm_operand]))
  | lar osz r rm | lsl osz r rm | addRRm osz r rm | orRRm osz r rm | andRRm osz r rm | subRRm osz r rm
  | xorRRm osz r rm | cmpRRm osz r rm | movRRm osz r rm | cmpRmR osz rm r | testRmR osz rm r | movRmR osz rm r =>
    exact decode_modrm h rfl P.bind_ok (ok_of_eq (by rw [ctxOf_osz, gpr_encode, asRm_operand]))
  | addR8Rm8 r rm | orR8Rm8 r rm | andR8Rm8 r rm | subR8Rm8 r rm | xorR8Rm8 r rm | cmpR8Rm8 r rm | movR8Rm8 r rm
  | cmpRm8R8 rm r | testRm8R8 rm r | movRm8R8 rm r =>
    exact decode_modrm h rfl P.bind_ok (ok_of_eq (by rw [gpr8_encode, asRm8_operand]))
  | addRm8R8 lock rm r | orRm8R8 lock rm r | andRm8R8 lock rm r | subRm8R8 lock rm r | xorRm8R8 lock rm r
  | xchgRm8R8 lock rm r =>
    obtain ⟨hl, hw⟩ := Bool.and_eq_true_iff.mp h
    exact decode_modrm hw rfl P.bind_ok (doneLock_run hl (by rw [gpr8_encode, asRm8_operand]; rfl) [])
  | addRmR lock osz rm r | orRmR lock osz rm r | andRmR lock osz rm r | subRmR lock osz rm r
  | xorRmR lock osz rm r | xchgRmR lock osz rm r =>
    obtain ⟨hl, hw⟩ := Bool.and_eq_true_iff.mp h
    exact decode_modrm hw rfl P.bind_ok (doneLock_run hl (by rw [ctxOf_osz, gpr_encode, asRm_operand]; rfl) [])
  | incRm8 lock rm =>
    obtain ⟨hl, hw⟩ := Bool.and_eq_true_iff.mp h
    exact decode_modrm (rest := fun c x => doneLock c x (.incRm8 · (asRm8 x))) hw rfl P.bind_ok
      (doneLock_run hl (by rw [asRm8_operand]; rfl) [])
  | decRm8 lock rm =>
    obtain ⟨hl, hw⟩ := Bool.and_eq_true_iff.mp h
    exact decode_modrm (rest := fun c x => doneLock c x (.decRm8 · (asRm8 x))) hw rfl P.bind_ok
      (doneLock_run hl (by rw [asRm8_operand]; rfl) [])
  | incRm lock osz rm =>
    obtain ⟨hl, hw⟩ := Bool.and_eq_true_iff.mp h
    exact decode_modrm (rest := fun c x => doneLock c x (.incRm · c.osz (asRm x))) hw rfl P.bind_ok
      (doneLock_run hl (by rw [ctxOf_osz, asRm_operand]; rfl) [])
  | decRm lock osz rm =>
    obtain ⟨hl, hw⟩ := Bool.and_eq_true_iff.mp h
    exact decode_modrm (rest := fun c x => doneLock c x (.decRm · c.osz (asRm x))) hw rfl P.bind_ok
      (doneLock_run hl (by rw [ctxOf_osz, asRm_operand]; rfl) [])
  | cmpRm8Imm8 rm imm | movRm8Imm8 rm imm | testRm8Imm8 rm imm =>
    exact decode_modrm_imm h rfl P.bind_ok
      ((P.bind_ok (byte_run imm [])).trans (ok_of_eq (by rw [asRm8_operand])))
  | cmpRmImm rm imm | movRmImm rm imm | testRmImm rm imm =>
    exact decode_modrm_imm h rfl P.bind_ok
      ((P.bind_ok (immv_end (ctxOf_osz ..))).trans (ok_of_eq (by rw [asRm_operand])))
  | cmpRmImm8 osz rm imm =>
    exact decode_modrm_imm h rfl P.bind_ok
      ((P.bind_ok (byte_run imm [])).trans (ok_of_eq (by rw [ctxOf_osz, asRm_operand])))
  | addRm8Imm8 lock rm imm | orRm8Imm8 lock rm imm | andRm8Imm8 lock rm imm | subRm8Imm8 lock rm imm
  | xorRm8Imm8 lock rm imm =>
    obtain ⟨hl, hw⟩ := Bool.and_eq_true_iff.mp h
    exact decode_modrm_imm hw rfl P.bind_ok
      ((P.bind_ok (byte_run imm [])).trans (doneLock_run hl (by rw [asRm8_operand]; rfl) []))
  | addRmImm lock rm imm | orRmImm lock rm imm | andRmImm lock rm imm | subRmImm lock rm imm
  | xorRmImm lock rm imm =>
    obtain ⟨hl, hw⟩ := Bool.and_eq_true_iff.mp h
    exact decode_modrm_imm hw rfl P.bind_ok
      ((P.bind_ok (immv_end (ctxOf_osz ..))).trans (doneLock_run hl (by rw [asRm_operand]; rfl) []))
  | addRmImm8 lock osz rm imm | orRmImm8 lock osz rm imm | andRmImm8 lock osz rm imm | subRmImm8 lock osz rm imm
  | xorRmImm8 lock osz rm imm =>
    obtain ⟨hl, hw⟩ := Bool.and_eq_true_iff.mp h
    exact decode_modrm_imm hw rfl P.bind_ok
      ((P.bind_ok (byte_run imm [])).trans (doneLock_run hl (by rw [ctxOf_osz, asRm_operand]; rfl) []))

end Sys2Proof.Decode
end

section
namespace Sys2Proof.Decode

/-! The decoder reads byte by byte: from a part of an instruction's bytes it answers that another byte is needed. -/

variable {α β : Type}

theorem P.bind_error {x : P α} {f : α → P β} {bs t : List Byte} {w : Why} (h : x bs = .error w t) :
    (x >>= f) bs = .error w t := by
  show EStateM.bind x f bs = _
  unfold EStateM.bind
  rw [h]

theorem P.bind_eq_ok {x : P α} {f : α → P β} {bs rest : List Byte} {b : β} (h : (x >>= f) bs = .ok b rest) :
    ∃ a t, x bs = .ok a t ∧ f a t = .ok b rest := by
  cases hx : x bs with
  | ok a t => exact ⟨a, t, rfl, (P.bind_ok hx).symm.trans h⟩
  | error w t => rw [P.bind_error hx] at h; cases h

/-- The parser takes the bytes `used` for `a`, whatever follows them; of fewer it needs more. -/
structure Takes (x : P α) (used : List Byte) (a : α) : Prop where
  all : ∀ t, x (used ++ t) = .ok a t
  part : ∀ n < used.length, ∃ t, x (used.take n) = .error .more t

/-- What the parser answers depends on no byte after those it takes. -/
def Incremental (x : P α) : Prop := ∀ bs a rest, x bs = .ok a rest → ∃ used, bs = used ++ rest ∧ Takes x used a

theorem Takes.bind {x : P α} {f : α → P β} {u v : List Byte} {a : α} {b : β} (hx : Takes x u a) (hf : Takes (f a) v b) :
    Takes (x >>= f) (u ++ v) b where
  all t := by rw [List.append_assoc, P.bind_ok (hx.all _), hf.all]
  part n hn := by
    rcases Nat.lt_or_ge n u.length with hlt | hge
    · obtain ⟨t, ht⟩ := hx.part n hlt
      exact ⟨t, by rw [List.take_append_of_le_length hlt.le, P.bind_error ht]⟩
    · obtain ⟨t, ht⟩ := hf.part (n - u.length) (by rw [List.length_append] at hn; omega)
      exact ⟨t, by rw [List.take_append, List.take_of_length_le hge, P.bind_ok (hx.all _), ht]⟩

theorem Incremental.pure (a : α) : Incremental (pure a : P α) := by
  intro bs a' rest h
  cases h
  exact ⟨[], rfl, fun _ => rfl, fun n hn => absurd hn n.not_lt_zero⟩

theorem Incremental.throw (w : Why) : Incremental (throw w : P α) := fun _ _ _ h => by cases h

theorem Incremental.bind {x : P α} {f : α → P β} (hx : Incremental x) (hf : ∀ a, Incremental (f a)) :
    Incremental (x >>= f) := by
  intro bs b rest h
  obtain ⟨a, t, h1, h2⟩ := P.bind_eq_ok h
  obtain ⟨u, rfl, hu⟩ := hx _ _ _ h1
  obtain ⟨v, rfl, hv⟩ := hf a _ _ _ h2
  exact ⟨u ++ v, (List.append_assoc ..).symm, hu.bind hv⟩

theorem Incremental.ite {q : Prop} [Decidable q] {x y : P α} (hx : Incremental x) (hy : Incremental y) :
    Incremental (if q then x else y) := by
  split
  · exact hx
  · exact hy

theorem incremental_byte : Incremental byte := by
  intro bs a rest h
  cases bs with
  | nil => cases h
  | cons b t =>
    cases h
    refine ⟨[a], rfl, fun _ => rfl, fun n hn => ⟨[], ?_⟩⟩
    rw [show n = 0 by simpa using hn]
    rfl

theorem incremental_word : Incremental word :=
  .bind incremental_byte fun _ => .bind incremental_byte fun _ => .pure _

theorem incremental_dword : Incremental dword :=
  .bind incremental_word fun _ => .bind incremental_word fun _ => .pure _

theorem incremental_disp16 (m : BitVec 2) : Incremental (disp16 m) :=
  .ite (.bind incremental_byte fun _ => .pure _) (.ite (.bind incremental_word fun _ => .pure _) (.pure _))

theorem incremental_disp32 (m : BitVec 2) : Incremental (disp32 m) :=
  .ite (.bind incremental_byte fun _ => .pure _) (.ite (.bind incremental_dword fun _ => .pure _) (.pure _))

theorem incremental_ea16 (m : BitVec 2) (n : BitVec 3) : Incremental (ea16 m n) :=
  .ite (.bind incremental_word fun _ => .pure _) (.bind (incremental_disp16 m) fun _ => .pure _)

theorem incremental_eaSib (m : BitVec 2) : Incremental (eaSib m) :=
  .bind incremental_byte fun _ =>
    .ite (.bind incremental_dword fun _ => .pure _) (.bind (incremental_disp32 m) fun _ => .pure _)

theorem incremental_ea32 (m : BitVec 2) (n : BitVec 3) : Incremental (ea32 m n) :=
  .ite (incremental_eaSib m)
    (.ite (.bind incremental_dword fun _ => .pure _) (.bind (incremental_disp32 m) fun _ => .pure _))

theorem incremental_modrm (c : Ctx) : Incremental (modrm c) :=
  .bind incremental_byte fun _ =>
    .ite (.pure _)
      (.ite (.bind (incremental_ea32 _ _) fun _ => .pure _) (.bind (incremental_ea16 _ _) fun _ => .pure _))

theorem incremental_asMem (x : RegMem (BitVec 3)) : Incremental (asMem x) := by
  cases x with
  | reg n => exact .throw _
  | mem m => exact .pure m

theorem incremental_immv (c : Ctx) : Incremental (immv c) := by
  unfold immv
  cases c.osz with
  | w16 => exact .bind incremental_word fun _ => .pure _
  | w32 => exact .bind incremental_dword fun _ => .pure _

theorem incremental_farPtr (c : Ctx) : Incremental (farPtr c) := by
  unfold farPtr
  cases c.osz with
  | w16 => exact .bind incremental_word fun _ => .bind incremental_word fun _ => .pure _
  | w32 => exact .bind incremental_dword fun _ => .bind incremental_word fun _ => .pure _

theorem incremental_crOperand : Incremental crOperand := .bind incremental_byte fun _ => .pure _

theorem incremental_done (c : Ctx) (i : Instr) : Incremental (done c i) := .ite (.throw _) (.pure _)

theorem incremental_doneLock {ρ : Type} (c : Ctx) (x : RegMem ρ) (f : Bool → Instr) : Incremental (doneLock c x f) := by
  cases x with
  | reg n => exact .ite (.throw _) (.pure _)
  | mem m => exact .pure _

/-! The opcode tables are made of conditions and of the parsers above, one after the other. -/

theorem incremental_opcode2 (c : Ctx) (b : Byte) : Incremental (opcode2 c b) := by
  unfold opcode2 two0 two2 two3 two7 two8 twoA twoB
  repeat with_reducible first
    | exact incremental_done _ _ | exact .throw _ | exact incremental_modrm _ | exact incremental_asMem _
    | exact incremental_immv _ | exact incremental_crOperand | refine .ite ?_ ?_ | refine .bind ?_ fun _ => ?_
    | dsimp only

theorem incremental_opcode (c : Ctx) (b : Byte) : Incremental (opcode c b) := by
  unfold opcode one0 one1 one2 one3 one4 one5 one6 one7 one8 one9 oneA oneB oneC oneD oneE oneF
  repeat with_reducible first
    | exact incremental_done _ _ | exact incremental_doneLock _ _ _ | exact .throw _ | exact incremental_modrm _
    | exact incremental_asMem _ | exact incremental_immv _ | exact incremental_byte | exact incremental_word
    | exact incremental_farPtr _ | exact incremental_opcode2 _ _ | refine .ite ?_ ?_ | refine .bind ?_ fun _ => ?_
    | dsimp only

theorem incremental_prefixes (n : Nat) (c : Ctx) : Incremental (prefixes n c) := by
  induction n generalizing c with
  | zero => exact .throw _
  | succ n ih =>
    refine .bind incremental_byte fun b => ?_
    cases c.add b with
    | some c' => exact ih c'
    | none => exact .pure _

/-- The bytes of an instruction that come first are no instruction: the decoder asks for more (R450). -/
theorem decode_take {d : Bool} {bs : List Byte} {i : Instr} (h : decode d bs = .ok i bs.length) {k : Nat}
    (hk : k < bs.length) : decode d (bs.take k) = .stop .more := by
  have hinc : Incremental (do let (c, b) ← prefixes 15 ⟨d, false, none, false, false⟩; opcode c b : P Instr) :=
    .bind (incremental_prefixes 15 _) fun x => incremental_opcode x.1 x.2
  unfold decode at h ⊢
  split at h
  case h_2 => cases h
  case h_1 j rest hrun =>
    injection h with hi hlen
    obtain ⟨used, rfl, htakes⟩ := hinc _ _ _ hrun
    have hrest : rest.length = 0 := by rw [List.length_append] at hlen hk; omega
    rw [List.eq_nil_of_length_eq_zero hrest, List.append_nil] at hk ⊢
    obtain ⟨t, ht⟩ := htakes.part k hk
    rw [ht]

end Sys2Proof.Decode
end

section
namespace Sys2Proof.Machine

/-! Fetching where accesses are direct. -/

/-- With no old bytes left, where every address is read-write memory, a fetch sees the byte in memory. -/
theorem fetchByte_memory {b : Bus} (hs : b.stale = []) (hmap : b.map = []) (la : W32) (pa : Nat) (c : Cpu) :
    fetchByte la pa c b = .ok (b.mem.read pa) b := by
  unfold fetchByte
  rw [B.bind_ok (run_getBus c b), B.bind_ok (run_modBus _ c b), Bus.accessed_of_map hmap, Bus.read_of_map hmap, hs]
  rfl

/-- Beyond the end of the segment #GP(0) is raised. -/
theorem fetchAt_beyond {c : Cpu} {off : Nat} (h : c.codeEnds off = true) (b : Bus) :
    fetchAt off c b = .error (.exc (.gp 0#32)) b := by
  unfold fetchAt
  rw [B.bind_ok (run_regs c b), B.bind_error]
  rw [run_raiseIf, if_pos h]

/-- Within the segment, outside the APIC page, the byte in memory is fetched. -/
theorem fetchAt_direct {c : Cpu} {b : Bus} {off : Nat} {la : W32} (hd : c.direct b = true) (hs : b.stale = [])
    (hend : c.codeEnds off = false) (hla : c.seg.cs.linear (BitVec.ofNat 32 off) = la)
    (hapic : ¬(Apic.enabled c = true ∧ la.toNat / 4096 = Apic.page c)) :
    fetchAt off c b = .ok (b.mem.read la.toNat) b := by
  obtain ⟨-, -, -, -, -, hmap, -⟩ := Cpu.direct_iff.mp hd
  have hla1 : la.toNat + 1 ≤ 2 ^ 32 := la.isLt
  obtain ⟨ts, hp⟩ := physical_direct hd false c.user hla1
  have hno : (Phys.identity la 1 ts).apicOffset c = none := by
    unfold Phys.apicOffset
    refine if_neg fun h => hapic ?_
    simpa [Phys.identity] using h
  have hraise : raiseIf (c.codeEnds off) (.gp 0#32) c b = .ok () b := by
    rw [run_raiseIf, hend]
    rfl
  unfold fetchAt
  rw [B.bind_ok (run_regs c b), B.bind_ok hraise, hla, B.bind_ok hp, B.bind_ok (checkRange_identity ts hla1 c b), hno]
  exact fetchByte_memory hs hmap la _ c

theorem fetchFrom_ok {d : Bool} {bs : List Byte} {i : Instr} {len : Nat} (h : Decode.decode d bs = .ok i len)
    (eip fuel : Nat) (c : Cpu) (b : Bus) : fetchFrom d eip fuel bs c b = .ok (i, len) b := by
  unfold fetchFrom
  rw [h]
  rfl

theorem fetchFrom_more {d : Bool} {bs : List Byte} (h : Decode.decode d bs = .stop .more) (eip fuel : Nat) :
    fetchFrom d eip (fuel + 1) bs = fetchAt (eip + bs.length) >>= fun b => fetchFrom d eip fuel (bs ++ [b]) := by
  conv_lhs => unfold fetchFrom
  rw [h]

/-- Once the first k bytes of an instruction are fetched, the others are too. -/
theorem fetchFrom_direct {d : Bool} {bs : List Byte} {i : Instr} {eip : Nat} {c : Cpu} {b : Bus}
    (hdec : Decode.decode d bs = .ok i bs.length)
    (hbyte : ∀ k (hk : k < bs.length), fetchAt (eip + k) c b = .ok bs[k] b) {fuel k : Nat} (hk : k ≤ bs.length)
    (hfuel : bs.length ≤ k + fuel) : fetchFrom d eip fuel (bs.take k) c b = .ok (i, bs.length) b := by
  induction fuel generalizing k with
  | zero => exact fetchFrom_ok (by rwa [List.take_of_length_le (i := k) hfuel]) eip 0 c b
  | succ fuel ih =>
    rcases hk.eq_or_lt with heq | hlt
    · exact fetchFrom_ok (by rwa [List.take_of_length_le heq.ge]) eip _ c b
    · rw [fetchFrom_more (Decode.decode_take hdec hlt), List.length_take_of_le hk, B.bind_ok (hbyte k hlt),
        List.take_append_getElem hlt]
      exact ih hlt (by omega)

theorem Cpu.codeEnds_iff {c : Cpu} {off : Nat} : c.codeEnds off = true ↔
    c.seg.cs.limit.toNat < off ∨ (c.prot = true ∧ c.seg.cs.db = false ∧ 0xFFFF < off) := by
  simp [Cpu.codeEnds, and_assoc]

/-- Settles O6: no part of the instruction's bytes is an instruction, so all of them are fetched. -/
theorem fetchReadsCode : Obligations.FetchReadsCode := by
  constructor
  · intro c b i bs hd hs hpg _ hlen hdec hlimit hnarrow hmem
    rw [fetchNext_settled hpg]
    refine fetchFrom_direct (k := 0) hdec (fun k hk => ?_) bs.length.zero_le (by omega)
    obtain ⟨hapic, hread⟩ := hmem k hk
    have hend : c.codeEnds (c.eip.toNat + k) = false := by
      rw [← Bool.not_eq_true, Cpu.codeEnds_iff]
      rintro (hbeyond | ⟨hprot, hdb, hbeyond⟩)
      · omega
      · have := hnarrow hprot hdb
        omega
    have hla : c.seg.cs.linear (BitVec.ofNat 32 (c.eip.toNat + k)) = c.seg.cs.linear (c.eip + BitVec.ofNat 32 k) := by
      rw [BitVec.ofNat_add, BitVec.ofNat_toNat, BitVec.setWidth_eq]
    rw [fetchAt_direct hd hs hend hla hapic, hread, List.getD_eq_getElem _ _ hk]
  · intro c b hpg hend
    rw [fetchNext_settled hpg]
    show fetchFrom c.d c.eip.toNat 15 [] c b = _
    rw [fetchFrom_more rfl]
    exact B.bind_error (fetchAt_beyond (Cpu.codeEnds_iff.mpr hend) b)

end Sys2Proof.Machine
end

section
namespace Sys2Proof

/-- Settles O7: the decoder runs on each word. -/
theorem decodesSampleWords : Obligations.DecodesSampleWords :=
  ⟨rfl, rfl, rfl, rfl, rfl, rfl, rfl, rfl, rfl, rfl⟩

end Sys2Proof
end

section
namespace Sys2Proof.Machine

/-! What every computation keeps: the registers that `Cpu.Legal` looks at and the canonical form of memory (`Calm`), or
at least that they are legal (`Keeps`). -/

variable {α β : Type}

/-- The registers that `Cpu.Legal` looks at. -/
structure Control where
  cr0 : W32
  cr4 : W32
  dr7 : W32
  mxcsr : W32
  inSmm : Bool
  saved : Option SmmSaved

def Cpu.control (c : Cpu) : Control :=
  { cr0 := c.ctl.cr0, cr4 := c.ctl.cr4, dr7 := c.dbg.dr7, mxcsr := c.sse.mxcsr
    inSmm := c.smm.inSmm, saved := c.smm.saved }

/-- `Cpu.Legal` in terms of these registers. -/
def Control.Legal (k : Control) : Prop :=
  Cr0Fixed k.cr0 ∧ (k.inSmm = false → Cr0PagingProtected k.cr0) ∧ Cr4Legal k.cr4 ∧ Dr7Legal k.dr7
    ∧ MxcsrLegal k.mxcsr ∧ ∀ v, k.saved = some v → v.Legal

theorem Cpu.legal_iff (c : Cpu) : c.Legal ↔ c.control.Legal := Iff.rfl

/-- From `s` to `t` these registers stay, and memory stays canonical. -/
structure SameControl (s t : State) : Prop where
  control : t.cpu.control = s.cpu.control
  wf : s.bus.mem.wf = true → t.bus.mem.wf = true

theorem SameControl.refl (s : State) : SameControl s s := ⟨rfl, id⟩

theorem SameControl.trans {s t u : State} (h : SameControl s t) (h' : SameControl t u) : SameControl s u :=
  ⟨h'.control.trans h.control, h'.wf ∘ h.wf⟩

/-- From `s` to `t` a legal state stays legal, and a CR0 without NW alone stays so. -/
structure Lawful (s t : State) : Prop where
  legal : s.Legal → t.Legal
  coherent : Cr0CachesCoherent s.cpu.ctl.cr0 → Cr0CachesCoherent t.cpu.ctl.cr0

theorem Lawful.refl (s : State) : Lawful s s := ⟨id, id⟩

theorem Lawful.trans {s t u : State} (h : Lawful s t) (h' : Lawful t u) : Lawful s u :=
  ⟨h'.legal ∘ h.legal, h'.coherent ∘ h.coherent⟩

theorem SameControl.lawful {s t : State} (h : SameControl s t) : Lawful s t := by
  have h0 : t.cpu.ctl.cr0 = s.cpu.ctl.cr0 := congrArg Control.cr0 h.control
  refine ⟨fun ⟨hc, hm⟩ => ⟨?_, h.wf hm⟩, fun hc => by rwa [h0]⟩
  rw [Cpu.legal_iff, h.control]
  exact hc

/-- The registers as they were before, with memory as it is now: what a fault leaves. -/
theorem Lawful.restored {s t : State} (h : Lawful s t) : Lawful s ⟨s.cpu, t.bus⟩ :=
  ⟨fun hs => ⟨hs.1, (h.legal hs).2⟩, id⟩

/-! Computations. -/

/-- The state that a computation leaves, however it ends. -/
def M.after (x : M α) (s : State) : State :=
  match x s with
  | .ok _ t => t
  | .error _ t => t

theorem M.after_ok {x : M α} {s t : State} {a : α} (h : x s = .ok a t) : x.after s = t := by unfold M.after; rw [h]

theorem M.after_error {x : M α} {s t : State} {e : Stop} (h : x s = .error e t) : x.after s = t := by
  unfold M.after; rw [h]

/-- After a first part that ends well in `t`, what follows decides; otherwise the first part does. -/
theorem M.after_bind {x : M α} {f : α → M β} {s : State} {P : State → Prop} (h : P (x.after s))
    (hf : ∀ a, P (x.after s) → P ((f a).after (x.after s))) : P ((x >>= f).after s) := by
  cases hx : x s with
  | ok a t =>
    have e : (x >>= f).after s = (f a).after t := by unfold M.after; rw [M.bind_ok hx]
    rw [e]
    rw [M.after_ok hx] at h hf
    exact hf a h
  | error e t =>
    rw [M.after_error (M.bind_error hx)]
    rwa [M.after_error hx] at h

/-- A computation that changes none of the registers that `Cpu.Legal` looks at, and keeps memory canonical. -/
structure Calm (x : M α) : Prop where
  same : ∀ s, SameControl s (x.after s)

/-- A computation that keeps legal states legal. -/
structure Keeps (x : M α) : Prop where
  lawful : ∀ s, Lawful s (x.after s)

theorem Calm.keeps {x : M α} (h : Calm x) : Keeps x := ⟨fun s => (h.same s).lawful⟩

theorem Calm.bind {x : M α} {f : α → M β} (hx : Calm x) (hf : ∀ a, Calm (f a)) : Calm (x >>= f) :=
  ⟨fun s => M.after_bind (hx.same s) fun a h => h.trans ((hf a).same _)⟩

theorem Calm.pure (a : α) : Calm (pure a : M α) := ⟨SameControl.refl⟩

theorem Calm.throw (e : Stop) : Calm (throw e : M α) := ⟨SameControl.refl⟩

theorem Calm.raise (e : Exc) : Calm (raise e : M α) := ⟨SameControl.refl⟩

theorem Calm.getCpu : Calm getCpu := ⟨SameControl.refl⟩

theorem Calm.withCpu {f : Cpu → M α} (h : ∀ c, Calm (f c)) : Calm (Machine.getCpu >>= f) := .bind .getCpu h

theorem Calm.modCpu {f : Cpu → Cpu} (h : ∀ c, (f c).control = c.control) : Calm (modCpu f) := ⟨fun s => ⟨h s.cpu, id⟩⟩

theorem Calm.modGpr (f : Gprs → Gprs) : Calm (modGpr f) := .modCpu fun _ => rfl

theorem Calm.modFl (f : Eflags → Eflags) : Calm (modFl f) := .modCpu fun _ => rfl

theorem Calm.onBusAs (c : Cpu) {x : B α} (h : KeepsWf x) : Calm (onBusAs c x) := by
  have e (s : State) : (Machine.onBusAs c x).after s = { s with bus := x.after c s.bus } := by
    unfold M.after B.after Machine.onBusAs
    cases x c s.bus <;> rfl
  exact ⟨fun s => by rw [e]; exact ⟨rfl, h.after _ _⟩⟩

theorem Calm.onBus {x : B α} (h : KeepsWf x) : Calm (onBus x) := ⟨fun s => (Calm.onBusAs s.cpu h).same s⟩

/-- An access that stores nothing. -/
theorem Calm.quiet {x : B α} (h : Quiet x) : Calm (Machine.onBus x) := .onBus h.wf

/-- A change of memory and devices that leaves memory alone. -/
theorem Calm.modBus {f : Bus → Bus} (h : ∀ b, (f b).mem = b.mem) : Calm (Machine.onBus (modBus f)) := .quiet (.modBus h)

theorem Calm.ite {q : Prop} [Decidable q] {x y : M α} (hx : Calm x) (hy : Calm y) : Calm (if q then x else y) := by
  split <;> assumption

/-- A check, and what follows it. -/
theorem Calm.unless {q : Prop} [Decidable q] {e : Exc} {k : PUnit → M α} (hk : ∀ u, Calm (k u)) :
    Calm (if q then (Machine.raise e >>= k) else k ⟨⟩) := .ite (.bind (.raise e) hk) (hk _)

/-- A step that is left out where a condition fails, and what follows it. -/
theorem Calm.optional {q : Prop} [Decidable q] {x : M PUnit} {k : PUnit → M α} (hx : Calm x) (hk : ∀ u, Calm (k u)) :
    Calm (if q then (x >>= k) else k ⟨⟩) := .ite (.bind hx hk) (hk _)

theorem Keeps.bind {x : M α} {f : α → M β} (hx : Keeps x) (hf : ∀ a, Keeps (f a)) : Keeps (x >>= f) :=
  ⟨fun s => M.after_bind (hx.lawful s) fun a h => h.trans ((hf a).lawful _)⟩

theorem Keeps.withCpu {f : Cpu → M α} (h : ∀ c, Keeps (f c)) : Keeps (Machine.getCpu >>= f) := .bind Calm.getCpu.keeps h

theorem Keeps.ite {q : Prop} [Decidable q] {x y : M α} (hx : Keeps x) (hy : Keeps y) : Keeps (if q then x else y) := by
  split <;> assumption

end Sys2Proof.Machine
end


section
namespace Sys2Proof.Machine

/-! The shared operations leave the control registers alone. -/

/-! The stack and the operands. -/

theorem calm_push {w : Nat} (v : BitVec w) : Calm (push v) :=
  .withCpu fun _ => .bind (.onBus (keepsWf_memWrite _ _ _ _)) fun _ => .modCpu fun _ => rfl

theorem calm_peek (w k : Nat) : Calm (peek w k) := .withCpu fun _ => .quiet (quiet_memRead _ _ _ _)

theorem calm_release (k : Nat) : Calm (release k) := .modCpu fun _ => rfl

theorem calm_pop (w : Nat) : Calm (pop w) := .bind (calm_peek w 0) fun _ => .bind (calm_release _) fun _ => .pure _

theorem calm_loadMem (w : Nat) (m : MemOp) (align : Nat) : Calm (loadMem w m align) :=
  .withCpu fun _ => .quiet (quiet_memRead _ _ _ _)

theorem calm_loadAt (w : Nat) (m : MemOp) (k : Nat) : Calm (loadAt w m k) :=
  .withCpu fun _ => .quiet (quiet_memRead _ _ _ _)

theorem calm_storeMem {w : Nat} (m : MemOp) (v : BitVec w) (align : Nat) : Calm (storeMem m v align) :=
  .withCpu fun _ => .onBus (keepsWf_memWrite _ _ _ _)

theorem calm_readRm8 : (rm : Rm8) → Calm (readRm8 rm)
  | .reg _ => .withCpu fun _ => .pure _
  | .mem m => calm_loadMem 8 m _

theorem calm_writeRm8 (v : Byte) : (rm : Rm8) → Calm (writeRm8 rm v)
  | .reg r => .modGpr (·.set8 r v)
  | .mem m => calm_storeMem m v _

theorem calm_readRm (osz : OpSize) : (rm : Rm) → Calm (readRm osz rm)
  | .reg _ => .withCpu fun _ => .pure _
  | .mem m => calm_loadMem osz.bits m _

theorem calm_writeRm (osz : OpSize) (v : BitVec osz.bits) : (rm : Rm) → Calm (writeRm osz rm v)
  | .reg r => .modGpr (·.setV osz r v)
  | .mem m => calm_storeMem m v _

theorem calm_modifyMem (lock : Bool) (w : Nat) (m : MemOp) {f : BitVec w → M (BitVec w)} (hf : ∀ a, Calm (f a)) :
    Calm (modifyMem lock w m f) :=
  .withCpu fun _ => .bind (.onBus (keepsWf_memReadForWrite _ _ _)) fun _ => .bind (hf _) fun _ =>
    .onBus (keepsWf_memWriteBack _ _ _)

theorem calm_modifyRm8 (lock : Bool) {f : Byte → M Byte} (hf : ∀ a, Calm (f a)) :
    (rm : Rm8) → Calm (modifyRm8 lock rm f)
  | .reg _ => .withCpu fun _ => .bind (hf _) fun _ => .modGpr _
  | .mem m => calm_modifyMem lock 8 m hf

theorem calm_modifyRm (lock : Bool) (osz : OpSize) {f : BitVec osz.bits → M (BitVec osz.bits)} (hf : ∀ a, Calm (f a)) :
    (rm : Rm) → Calm (modifyRm lock osz rm f)
  | .reg _ => .withCpu fun _ => .bind (hf _) fun _ => .modGpr _
  | .mem m => calm_modifyMem lock osz.bits m hf

theorem calm_freeBit : Calm (onBus freeBit) := .quiet quiet_freeBit

theorem calm_free : Calm (onBus free) := .quiet .free

theorem calm_alu {w : Nat} (op : Alu) (a b : BitVec w) : Calm (alu op a b) :=
  .ite (.bind calm_freeBit fun _ => .bind (.modFl _) fun _ => .pure _)
    (.bind (.pure _) fun _ => .bind (.modFl _) fun _ => .pure _)

theorem calm_peekW (k : Nat) : (osz : OpSize) → Calm (peekW osz k)
  | .w16 => .bind (calm_peek 16 k) fun _ => .pure _
  | .w32 => calm_peek 32 k

theorem calm_pushW (v : W32) : (osz : OpSize) → Calm (pushW osz v)
  | .w16 => calm_push _
  | .w32 => calm_push _

theorem calm_pushSel (s : W16) : (osz : OpSize) → Calm (pushSel osz s)
  | .w16 => calm_push _
  | .w32 => .bind calm_free fun _ => calm_push _

/-! Segments and transfers. -/

theorem calm_loadSeg (sr : Seg) (s : W16) : Calm (loadSeg sr s) :=
  .bind (.onBus (keepsWf_loadSegValue _ _)) fun _ => .modCpu fun _ => rfl

theorem calm_refetch : Calm refetch := .modBus fun _ => rfl

theorem calm_serialize : Calm serialize := .modBus fun _ => rfl

theorem calm_setAccessed (d : Desc) : Calm (onBus (setAccessed d)) := .onBus (keepsWf_setAccessed d)

theorem calm_raiseIf (q : Bool) (e : Exc) : Calm (onBus (raiseIf q e)) := .quiet (.raiseIf q e)

theorem calm_checkEip (off limit : W32) : Calm (onBus (checkEip off limit)) := .quiet (quiet_checkEip _ _)

theorem calm_stackRoom (n : Nat) : Calm (onBus (stackRoom n)) := .quiet (quiet_stackRoom n)

theorem calm_stackHolds (k n : Nat) : Calm (onBus (stackHolds k n)) := .quiet (quiet_stackHolds k n)

theorem calm_loadCs (s : W16) (d : Desc) (cpl : BitVec 2) (eip : W32) : Calm (loadCs s d cpl eip) :=
  .bind (calm_setAccessed d) fun _ => .bind calm_refetch fun _ => .modCpu fun _ => rfl

theorem calm_loosenEsp (loose : Bool) : Calm (loosenEsp loose) :=
  .ite (.bind calm_free fun _ => .modCpu fun _ => rfl) (.pure _)

theorem calm_switchStack (level : BitVec 2) (st : W16 × Desc × W32) : Calm (switchStack level st) :=
  .bind (calm_setAccessed _) fun _ => .modCpu fun _ => rfl

theorem calm_farReal (s : W16) (eip : W32) : Calm (farReal s eip) :=
  .withCpu fun _ => .bind (calm_checkEip _ _) fun _ => .bind calm_refetch fun _ => .modCpu fun _ => rfl

/-! The load of a new task, but for the registers that it takes over at once. -/

theorem calm_taskCr3 (v : W32) : Calm (taskCr3 v) :=
  .bind (.quiet quiet_speculate) fun _ => .bind (.modCpu fun _ => rfl) fun _ => .bind (.modBus fun _ => rfl) fun _ =>
    .withCpu fun _ => .ite (.bind (.quiet (quiet_readPdptes v)) fun _ => .modCpu fun _ => rfl) (.pure _)

theorem quiet_taskLdtDesc (s : W16) : Quiet (do
    raiseIf (selTi s) (.ts (selCode s))
    let d ← fetchOr s (.ts (selCode s))
    raiseIf (!d.isSys [2]) (.ts (selCode s))
    return d) :=
  .bind (.raiseIf _ _) fun _ => .bind (quiet_fetchOr _ _) fun _ => .bind (.raiseIf _ _) fun _ => .pure _

theorem calm_taskLdt (s : W16) : Calm (taskLdt s) :=
  .ite (.pure _) (.bind (.quiet (quiet_taskLdtDesc s)) fun _ =>
    .optional (.modCpu fun _ => rfl) fun _ => .pure _)

theorem calm_taskData (sr : Seg) (s : W16) : Calm (taskData sr s) := by
  refine .ite (.bind (.onBus ?_) fun _ => .modCpu fun _ => rfl) (.pure _)
  exact .bind .regs fun _ => .bind (quiet_fetchOr _ _).wf fun _ => .bind (.raiseIf _ _) fun _ =>
    .bind (.raiseIf _ _) fun _ => .bind (.raiseIf _ _) fun _ => .bind (keepsWf_setAccessed _) fun _ => .pure _

theorem calm_taskSegments (t : TaskSels) (wide : Bool) : Calm (taskSegments t wide) := by
  have cut : Calm (do modCpu fun c => { c with eip := c.seg.cs.cutEip c.eip }
                      let c ← getCpu
                      onBus (checkEip c.eip c.seg.cs.limit)) :=
    .bind (.modCpu fun _ => rfl) fun _ => .withCpu fun _ => calm_checkEip _ _
  refine .bind (calm_taskLdt _) fun ldt => .withCpu fun _ => .ite ?_ ?_
  · exact .bind (.quiet (quiet_taskLdtPresent _ _)) fun _ => .bind (.modCpu fun _ => rfl) fun _ => cut
  · exact .bind (.quiet (quiet_taskCodeLevel _)) fun _ => .bind (.quiet (quiet_taskStack _)) fun _ =>
      .bind (.quiet (quiet_taskLdtPresent _ _)) fun _ => .bind (.quiet (quiet_taskCode _)) fun _ =>
      .bind (calm_setAccessed _) fun _ => .bind (.modCpu fun _ => rfl) fun _ => .bind (calm_raiseIf _ _) fun _ =>
      .bind (calm_setAccessed _) fun _ => .bind (.modCpu fun _ => rfl) fun _ => .bind (calm_taskData _ _) fun _ =>
      .bind (calm_taskData _ _) fun _ =>
      .ite (.bind (calm_taskData _ _) fun _ => .bind (calm_taskData _ _) fun _ => cut) cut

/-! Deliveries within a task. -/

theorem calm_pushCode (osz : OpSize) (d : Delivery) : Calm (pushCode osz d) := by
  unfold pushCode
  split
  · exact .pure _
  · exact .bind calm_free fun _ => calm_pushW _ _

theorem calm_pushFrame (osz : OpSize) (d : Delivery) (img : Eflags) : Calm (pushFrame osz d img) :=
  .bind (calm_pushW _ _) fun _ => .bind (calm_pushSel _ _) fun _ => .bind (calm_pushW _ _) fun _ => calm_pushCode _ _

theorem calm_deliverReal (d : Delivery) : Calm (deliverReal d) :=
  .withCpu fun _ => .bind (calm_raiseIf _ _) fun _ => .bind (calm_push _) fun _ => .bind (calm_push _) fun _ =>
    .bind (calm_push _) fun _ => .bind (.quiet (quiet_sysRead _ _)) fun _ => .modCpu fun _ => rfl

theorem calm_deliverV86 (d : Delivery) (g t : Desc) : Calm (deliverV86 d g t) :=
  .withCpu fun _ => .bind (.quiet (quiet_innerStack _)) fun _ => .bind (.quiet (quiet_roomOn _ _)) fun _ =>
    .bind (calm_checkEip _ _) fun _ => .bind (calm_switchStack _ _) fun _ => .bind (.modFl _) fun _ =>
    .bind (calm_pushSel _ _) fun _ => .bind (calm_pushSel _ _) fun _ => .bind (calm_pushSel _ _) fun _ =>
    .bind (calm_pushSel _ _) fun _ => .bind (calm_pushSel _ _) fun _ => .bind (calm_push _) fun _ =>
    .bind (calm_pushFrame _ _ _) fun _ => .bind (.modCpu fun _ => rfl) fun _ => .bind (calm_loadCs _ _ _ _) fun _ =>
    .modFl _

theorem calm_deliverGate (d : Delivery) (g t : Desc) : Calm (deliverGate d g t) :=
  .withCpu fun _ => .ite
    (.bind (.quiet (quiet_innerStack _)) fun _ => .bind (.quiet (quiet_roomOn _ _)) fun _ =>
      .bind (calm_checkEip _ _) fun _ => .bind (calm_switchStack _ _) fun _ => .bind (calm_pushSel _ _) fun _ =>
      .bind (calm_pushW _ _) fun _ => .bind (calm_pushFrame _ _ _) fun _ =>
        .bind (calm_loadCs _ _ _ _) fun _ => .modFl _)
    (.bind (calm_stackRoom _) fun _ => .bind (calm_checkEip _ _) fun _ => .bind (calm_pushFrame _ _ _) fun _ =>
      .bind (calm_loadCs _ _ _ _) fun _ => .modFl _)

/-! Returns. -/

theorem calm_iretReal (osz : OpSize) (mask : W32) : Calm (iretReal osz mask) :=
  .bind (calm_peekW _ _) fun _ => .bind (calm_peekW _ _) fun _ => .bind (calm_peekW _ _) fun _ =>
    .bind (calm_farReal _ _) fun _ => .bind (calm_release _) fun _ => .modFl _

theorem calm_iretVme : Calm iretVme :=
  .bind (calm_peekW _ _) fun _ => .bind (calm_peekW _ _) fun _ => .bind (calm_peekW _ _) fun _ => .withCpu fun _ =>
    .bind (calm_raiseIf _ _) fun _ => .bind (calm_farReal _ _) fun _ => .bind (calm_release _) fun _ => .modFl _

theorem calm_iretToV86 (eip cs img : W32) : Calm (iretToV86 eip cs img) :=
  .bind (calm_stackHolds _ _) fun _ => .bind (calm_peekW _ _) fun _ => .bind (calm_peekW _ _) fun _ =>
    .bind (calm_peekW _ _) fun _ => .bind (calm_peekW _ _) fun _ => .bind (calm_peekW _ _) fun _ =>
    .bind (calm_peekW _ _) fun _ => .modCpu fun _ => rfl

theorem calm_returnOuter (loose : Bool) (osz : OpSize) (cs : W16) (d : Desc) (eip : W32) (k : Nat) (extra : W32) :
    Calm (returnOuter loose osz cs d eip k extra) :=
  .bind (calm_stackHolds _ _) fun _ => .bind (calm_peekW _ _) fun _ => .bind (calm_peekW _ _) fun _ =>
    .bind (.quiet (quiet_stackSegment _ _ _)) fun _ => .bind (calm_checkEip _ _) fun _ =>
    .bind (calm_loadCs _ _ _ _) fun _ => .bind (calm_setAccessed _) fun _ => .bind (.modCpu fun _ => rfl) fun _ =>
    .bind (calm_loosenEsp _) fun _ => .modCpu fun _ => rfl

theorem calm_iretProt (osz : OpSize) : Calm (iretProt osz) :=
  .withCpu fun _ => .bind (calm_stackHolds _ _) fun _ => .bind (calm_peekW _ _) fun _ => .bind (calm_peekW _ _) fun _ =>
    .bind (calm_peekW _ _) fun _ => .ite (calm_iretToV86 _ _ _) <|
    .bind (.quiet (quiet_returnCode _)) fun _ => .ite
      (.bind (calm_checkEip _ _) fun _ => .bind (calm_release _) fun _ => .bind (calm_loadCs _ _ _ _) fun _ => .modFl _)
      (.bind (calm_stackHolds _ _) fun _ => .bind (calm_returnOuter _ _ _ _ _ _ _) fun _ => .modFl _)

end Sys2Proof.Machine
end


section
namespace Sys2Proof.Machine

/-! The instructions that leave the control registers alone. -/

/-! Arithmetic. -/

theorem calm_aluRm8 (lock : Bool) (op : Alu) (rm : Rm8) (src : Cpu → Byte) : Calm (aluRm8 lock op rm src) := by
  have update (op : Alu) : Calm (modifyRm8 lock rm fun a => do alu op a (src (← getCpu))) :=
    calm_modifyRm8 lock (fun _ => .withCpu fun _ => calm_alu _ _ _) rm
  cases op with
  | cmp => exact .bind (calm_readRm8 rm) fun _ => .withCpu fun _ => .bind (calm_alu _ _ _) fun _ => .pure _
  | add | or | and | sub | xor => exact update _

theorem calm_aluRm (lock : Bool) (op : Alu) (osz : OpSize) (rm : Rm) (src : Cpu → BitVec osz.bits) :
    Calm (aluRm lock op osz rm src) := by
  have update (op : Alu) : Calm (modifyRm lock osz rm fun a => do alu op a (src (← getCpu))) :=
    calm_modifyRm lock osz (fun _ => .withCpu fun _ => calm_alu _ _ _) rm
  cases op with
  | cmp => exact .bind (calm_readRm osz rm) fun _ => .withCpu fun _ => .bind (calm_alu _ _ _) fun _ => .pure _
  | add | or | and | sub | xor => exact update _

theorem calm_aluR8 (op : Alu) (r : Gpr8) (rm : Rm8) : Calm (aluR8 op r rm) :=
  .bind (calm_readRm8 rm) fun _ => .withCpu fun _ => .bind (calm_alu _ _ _) fun _ => .ite (.modGpr _) (.pure _)

theorem calm_aluR (op : Alu) (osz : OpSize) (r : Gpr) (rm : Rm) : Calm (aluR op osz r rm) :=
  .bind (calm_readRm osz rm) fun _ => .withCpu fun _ => .bind (calm_alu _ _ _) fun _ => .ite (.modGpr _) (.pure _)

theorem calm_incRm8Op (lock : Bool) (rm : Rm8) : Calm (incRm8Op lock rm) :=
  calm_modifyRm8 lock (fun _ => .bind (.modFl _) fun _ => .pure _) rm

theorem calm_decRm8Op (lock : Bool) (rm : Rm8) : Calm (decRm8Op lock rm) :=
  calm_modifyRm8 lock (fun _ => .bind (.modFl _) fun _ => .pure _) rm

theorem calm_incRmOp (lock : Bool) (osz : OpSize) (rm : Rm) : Calm (incRmOp lock osz rm) :=
  calm_modifyRm lock osz (fun _ => .bind (.modFl _) fun _ => .pure _) rm

theorem calm_decRmOp (lock : Bool) (osz : OpSize) (rm : Rm) : Calm (decRmOp lock osz rm) :=
  calm_modifyRm lock osz (fun _ => .bind (.modFl _) fun _ => .pure _) rm

theorem calm_testOp {w : Nat} (a b : BitVec w) : Calm (testOp a b) := .bind (calm_alu _ _ _) fun _ => .pure _

theorem calm_freeStatus : Calm freeStatus := .bind calm_free fun _ => .modFl _

theorem calm_divResult8 : (r : Option (Byte × Byte)) → Calm (divResult8 r)
  | none => .raise _
  | some (q, m) => .bind (.modGpr fun g => (g.set8 .al q).set8 .ah m) fun _ => calm_freeStatus

theorem calm_divResult (osz : OpSize) : (r : Option (BitVec osz.bits × BitVec osz.bits)) → Calm (divResult osz r)
  | none => .raise _
  | some (q, m) => .bind (.modGpr fun g => (g.setV osz .eax q).setV osz .edx m) fun _ => calm_freeStatus

theorem calm_divRm8Op (rm : Rm8) : Calm (divRm8Op rm) :=
  .bind (calm_readRm8 rm) fun _ => .withCpu fun _ => calm_divResult8 _

theorem calm_idivRm8Op (rm : Rm8) : Calm (idivRm8Op rm) :=
  .bind (calm_readRm8 rm) fun _ => .withCpu fun _ => calm_divResult8 _

theorem calm_divRmOp (osz : OpSize) (rm : Rm) : Calm (divRmOp osz rm) :=
  .bind (calm_readRm osz rm) fun _ => .withCpu fun _ => calm_divResult osz _

theorem calm_idivRmOp (osz : OpSize) (rm : Rm) : Calm (idivRmOp osz rm) :=
  .bind (calm_readRm osz rm) fun _ => .withCpu fun _ => calm_divResult osz _

/-! Control transfers within a task. -/

theorem calm_goNear (t : W32) : Calm (goNear t) := .bind calm_refetch fun _ => .modCpu fun _ => rfl

theorem calm_nearJump (t : W32) : Calm (nearJump t) :=
  .withCpu fun _ => .bind (calm_checkEip _ _) fun _ => calm_goNear t

theorem calm_jmpRelOp (osz : OpSize) (rel : W32) : Calm (jmpRelOp osz rel) := .withCpu fun _ => calm_nearJump _

theorem calm_jccOp (osz : OpSize) (cc : Cond) (rel : W32) : Calm (jccOp osz cc rel) :=
  .withCpu fun _ => .ite (calm_jmpRelOp _ _) (.pure _)

theorem calm_rmTarget (osz : OpSize) (rm : Rm) : Calm (rmTarget osz rm) := .bind (calm_readRm osz rm) fun _ => .pure _

theorem calm_nearCall (osz : OpSize) (t : W32) : Calm (nearCall osz t) :=
  .withCpu fun _ => .bind (calm_checkEip _ _) fun _ => .bind (calm_stackRoom _) fun _ => .bind (calm_pushW _ _) fun _ =>
    calm_goNear t

theorem calm_retNearOp (osz : OpSize) (imm : W16) : Calm (retNearOp osz imm) :=
  .bind (calm_peekW _ _) fun _ => .bind (calm_nearJump _) fun _ => calm_release _

theorem calm_farDirect (kind : FarKind) (osz : OpSize) (s : W16) (d : Desc) (off : W32) :
    Calm (farDirect kind osz s d off) :=
  .withCpu fun _ => .bind (.quiet (quiet_directCode _ _)) fun _ => .optional (calm_stackRoom _) fun _ =>
    .bind (calm_checkEip _ _) fun _ =>
      .ite (.bind (calm_pushSel _ _) fun _ => .bind (calm_pushW _ _) fun _ => calm_loadCs _ _ _ _) (calm_loadCs _ _ _ _)

theorem calm_copyParams (c : Cpu) (osz : OpSize) : (n : Nat) → Calm (copyParams c osz n)
  | 0 => .pure _
  | n + 1 => .bind (.onBusAs c (quiet_readParam _ _ _).wf) fun _ => .bind (calm_pushW _ _) fun _ =>
    calm_copyParams c osz n

theorem calm_callInner (s : W16) (d : Desc) (off : W32) (osz : OpSize) (n : Nat) : Calm (callInner s d off osz n) :=
  .withCpu fun _ => .bind (.quiet (quiet_innerStack _)) fun _ => .bind (.quiet (quiet_roomOn _ _)) fun _ =>
    .bind (calm_checkEip _ _) fun _ => .bind (calm_switchStack _ _) fun _ => .bind (calm_pushSel _ _) fun _ =>
    .bind (calm_pushW _ _) fun _ => .bind (calm_copyParams _ _ _) fun _ => .bind (calm_pushSel _ _) fun _ =>
    .bind (calm_pushW _ _) fun _ => calm_loadCs _ _ _ _

theorem calm_farGate (kind : FarKind) (gs : W16) (g : Desc) : Calm (farGate kind gs g) := by
  refine .withCpu fun c => .bind (.quiet (quiet_callGateCode _ _ _)) fun d => ?_
  have note : Calm (if kind = .call then modCpu (·.noteGate16 c g d) else pure ()) :=
    .ite (.modCpu fun _ => rfl) (.pure _)
  refine .ite (.bind (calm_callInner _ _ _ _ _) fun _ => note) (.optional (calm_stackRoom _) fun _ =>
    .bind (calm_checkEip _ _) fun _ => .ite ?_ ?_)
  · exact .bind (calm_pushSel _ _) fun _ => .bind (calm_pushW _ _) fun _ => .bind (calm_loadCs _ _ _ _) fun _ => note
  · exact .bind (calm_loadCs _ _ _ _) fun _ => note

theorem calm_loadFar (osz : OpSize) (m : MemOp) : Calm (loadFar osz m) :=
  .bind (calm_loadMem _ _ _) fun _ => .bind (calm_loadAt _ _ _) fun _ => .pure _

theorem calm_retFarOp (osz : OpSize) (imm : W16) : Calm (retFarOp osz imm) := by
  refine .withCpu fun c => .optional (calm_stackHolds _ _) fun _ => .bind (calm_peekW _ _) fun _ =>
    .bind (calm_peekW _ _) fun _ => .ite ?_ (.bind (.quiet (quiet_returnCode _)) fun _ => .ite ?_ ?_)
  · exact .bind (calm_farReal _ _) fun _ => calm_release _
  · exact .bind (calm_checkEip _ _) fun _ => .bind (calm_release _) fun _ => .bind (calm_loosenEsp _) fun _ =>
      .bind (calm_loadCs _ _ _ _) fun _ => .modCpu fun _ => rfl
  · exact .bind (calm_returnOuter _ _ _ _ _ _ _) fun _ => .modCpu fun _ => rfl

theorem Cpu.recordException_control (c : Cpu) (src dst : W32) : (c.recordException src dst).control = c.control := by
  unfold Cpu.recordException; split <;> rfl

theorem calm_redirect (v : Byte) : Calm (redirect v) :=
  .withCpu fun _ => .bind (calm_push _) fun _ => .bind (calm_push _) fun _ => .bind (calm_push _) fun _ =>
    .bind (.quiet (quiet_linBytes _ _ _)) fun _ => .bind calm_refetch fun _ => .bind (.modCpu fun _ => rfl) fun _ =>
    .modCpu fun c => c.recordException_control _ _

theorem calm_boundOp (osz : OpSize) (r : Gpr) (m : MemOp) : Calm (boundOp osz r m) :=
  .bind (calm_loadMem _ _ _) fun _ => .bind (calm_loadAt _ _ _) fun _ => .withCpu fun _ => .ite (.raise _) (.pure _)

/-! x87 and SSE. -/

theorem calm_gatePending : Calm gatePending := by
  refine ⟨fun s => ?_⟩
  unfold M.after gatePending
  split_ifs <;> exact .refl s

theorem calm_gateX87 : Calm gateX87 := .withCpu fun _ => .ite (.raise _) (.pure _)

theorem calm_gateWait : Calm gateWait := .withCpu fun _ => .unless fun _ => calm_gatePending

theorem calm_gateMmx : Calm gateMmx := .withCpu fun _ => .unless fun _ => .unless fun _ => calm_gatePending

theorem calm_gateSse : Calm gateSse := .withCpu fun _ => .unless fun _ => .ite (.raise _) (.pure _)

theorem calm_fninitOp : Calm fninitOp := .bind calm_gateX87 fun _ => .modCpu fun _ => rfl

theorem calm_emmsOp : Calm emmsOp := .bind calm_gateMmx fun _ => .modCpu fun _ => rfl

theorem calm_stmxcsrOp (m : MemOp) : Calm (stmxcsrOp m) :=
  .bind calm_gateSse fun _ => .withCpu fun _ => calm_storeMem _ _ _

theorem calm_fxArea (m : MemOp) (write : Bool) : Calm (fxArea m write) :=
  .withCpu fun _ => .unless fun _ => .quiet (quiet_memPrepare _ _ _ _ _)

theorem calm_fxsaveOp (m : MemOp) : Calm (fxsaveOp m) :=
  .bind calm_gateX87 fun _ => .bind calm_gatePending fun _ => .bind (calm_fxArea _ _) fun _ => .withCpu fun _ =>
    .onBus (.bind .getBus fun _ => .bind .free fun _ => keepsWf_writePhys _ _)

/-! Input and output. -/

theorem calm_markIo : Calm markIo := .modCpu fun _ => rfl

theorem calm_ioIn (port : W16) (n : Nat) : Calm (ioIn port n) :=
  .bind (.quiet (quiet_ioCheck _ _)) fun _ => .bind (.quiet .getBus) fun _ =>
    .bind (.quiet (quiet_noteIo _ _ _)) fun _ =>
    .bind calm_markIo fun _ => .pure _

theorem calm_ioOut (port : W16) (n : Nat) (v : W32) : Calm (ioOut port n v) :=
  .bind (.quiet (quiet_ioCheck _ _)) fun _ => .bind (.quiet (quiet_noteIo _ _ _)) fun _ => calm_markIo

theorem calm_inAl (port : W16) : Calm (inAl port) := .bind (calm_ioIn _ _) fun _ => .modGpr _

theorem calm_inEax (osz : OpSize) (port : W16) : Calm (inEax osz port) := .bind (calm_ioIn _ _) fun _ => .modGpr _

theorem calm_outAl (port : W16) : Calm (outAl port) := .withCpu fun _ => calm_ioOut _ _ _

theorem calm_outEax (osz : OpSize) (port : W16) : Calm (outEax osz port) := .withCpu fun _ => calm_ioOut _ _ _

/-! Data movement and segments. -/

theorem calm_xchg8 (rm : Rm8) (r : Gpr8) : Calm (xchg8 rm r) :=
  calm_modifyRm8 true (fun _ => .withCpu fun _ => .bind (.modGpr _) fun _ => .pure _) rm

theorem calm_xchg (osz : OpSize) (rm : Rm) (r : Gpr) : Calm (xchg osz rm r) :=
  calm_modifyRm true osz (fun _ => .withCpu fun _ => .bind (.modGpr _) fun _ => .pure _) rm

theorem calm_popTo (osz : OpSize) (rm : Rm) : Calm (popTo osz rm) := .bind (calm_pop _) fun v => calm_writeRm osz v rm

theorem Cpu.shadowSs_control (c : Cpu) : c.shadowSs.control = c.control := by unfold Cpu.shadowSs; split <;> rfl

theorem calm_shadowIfSs (sr : Seg) : Calm (shadowIfSs sr) := .ite (.modCpu Cpu.shadowSs_control) (.pure _)

theorem calm_readSel (rm : Rm) : Calm (readSel rm) := calm_readRm .w16 rm

theorem calm_movToSeg (n : BitVec 3) (rm : Rm) : Calm (movToSeg n rm) := by
  refine .bind (calm_readSel rm) fun s => ?_
  split
  · exact .raise _
  · exact .raise _
  · exact .bind (calm_loadSeg _ _) fun _ => calm_shadowIfSs _

theorem calm_writeSel (v upper : W16) (align : Nat) (osz : OpSize) (rm : Rm) :
    Calm (writeSel osz rm v upper align) := by
  cases rm with
  | mem m => exact calm_storeMem m v align
  | reg r =>
    cases osz with
    | w16 => exact .modGpr (·.setV .w16 r v)
    | w32 => exact .modGpr (·.set r (upper ++ v))

theorem calm_movFromSeg (osz : OpSize) (rm : Rm) (n : BitVec 3) : Calm (movFromSeg osz rm n) := by
  unfold movFromSeg
  split
  · exact .raise _
  · exact .withCpu fun _ => calm_writeSel _ _ _ osz rm

theorem calm_popSeg (osz : OpSize) (sr : Seg) : Calm (popSeg osz sr) :=
  .bind (calm_peekW _ _) fun _ => .bind (calm_loadSeg _ _) fun _ => .bind (calm_release _) fun _ => calm_shadowIfSs _

theorem calm_pushSeg (osz : OpSize) (sr : Seg) : Calm (pushSeg osz sr) := .withCpu fun _ => calm_pushSel _ _

theorem calm_loadPointer (sr : Seg) (osz : OpSize) (r : Gpr) (m : MemOp) : Calm (loadPointer sr osz r m) :=
  .bind (calm_loadFar _ _) fun _ => .bind (calm_loadSeg _ _) fun _ => .modGpr _

theorem calm_protOnly : Calm protOnly := .withCpu fun _ => .ite (.raise _) (.pure _)

theorem calm_setZf (z : Bool) : Calm (setZf z) := .modFl _

theorem calm_probeRm (rm : Rm) (types : List Nat) : Calm (probeRm rm types) :=
  .bind calm_protOnly fun _ => .bind (calm_readSel rm) fun _ => .quiet (quiet_probe _ _)

theorem calm_larOp (osz : OpSize) (r : Gpr) (rm : Rm) : Calm (larOp osz r rm) := by
  refine .bind (calm_probeRm _ _) fun d => ?_
  split
  · exact calm_setZf _
  · exact .bind calm_free fun _ => .bind (.modGpr _) fun _ => calm_setZf _

theorem calm_lslOp (osz : OpSize) (r : Gpr) (rm : Rm) : Calm (lslOp osz r rm) := by
  refine .bind (calm_probeRm _ _) fun d => ?_
  split
  · exact calm_setZf _
  · exact .bind (.modGpr _) fun _ => calm_setZf _

theorem calm_verifyOp (rm : Rm) (test : Desc → Bool) : Calm (verifyOp rm test) :=
  .bind (calm_probeRm _ _) fun _ => calm_setZf _

theorem calm_arplOp (rm : Rm) (r : Gpr) : Calm (arplOp rm r) := by
  refine .bind calm_protOnly fun _ => .withCpu fun _ => ?_
  cases rm with
  | reg x =>
    refine .withCpu fun _ => ?_
    split
    · exact calm_setZf _
    · exact .bind (.modGpr _) fun _ => calm_setZf _
  | mem m =>
    refine .withCpu fun _ => .bind (.quiet (quiet_memReadMayWrite _ _ _)) fun _ => ?_
    dsimp only
    split
    · exact calm_setZf _
    · exact .bind (.onBus (keepsWf_memWriteNow _ _)) fun _ => calm_setZf _

/-! System instructions. -/

theorem calm_priv0 : Calm priv0 := .withCpu fun _ => .ite (.raise _) (.pure _)

theorem calm_loadTableReg (osz : OpSize) (m : MemOp) : Calm (loadTableReg osz m) :=
  .bind (.quiet (quiet_tableOperand _ _)) fun _ => .bind (calm_loadMem _ _ _) fun _ =>
    .bind (calm_loadAt _ _ _) fun _ => .pure _

theorem calm_lgdtOp (osz : OpSize) (m : MemOp) : Calm (lgdtOp osz m) :=
  .bind calm_priv0 fun _ => .bind (calm_loadTableReg _ _) fun _ => .bind (.modCpu fun _ => rfl) fun _ => calm_serialize

theorem calm_lidtOp (osz : OpSize) (m : MemOp) : Calm (lidtOp osz m) :=
  .bind calm_priv0 fun _ => .bind (calm_loadTableReg _ _) fun _ => .bind (.modCpu fun _ => rfl) fun _ => calm_serialize

theorem quiet_storedBase (base : W32) : (osz : OpSize) → Quiet (storedBase osz base)
  | .w16 => .bind .free fun _ => .pure _
  | .w32 => .pure _

theorem calm_storeTableReg (osz : OpSize) (m : MemOp) (t : TableReg) : Calm (storeTableReg osz m t) :=
  .withCpu fun _ => .onBus <| .bind (quiet_tableOperand _ _).wf fun _ => .bind (quiet_memPrepare _ _ _ _ _).wf fun _ =>
    .bind (quiet_memPrepare _ _ _ _ _).wf fun _ => .bind (quiet_storedBase _ osz).wf fun _ =>
    .bind (keepsWf_writePhys _ _) fun _ => keepsWf_writePhys _ _

theorem calm_lldtOp (rm : Rm) : Calm (lldtOp rm) :=
  .bind calm_protOnly fun _ => .bind calm_priv0 fun _ => .bind (calm_readSel rm) fun _ =>
    .ite (.bind (.modCpu fun _ => rfl) fun _ => calm_serialize)
      (.bind (.quiet (quiet_systemDesc _ _)) fun _ => .bind (.modCpu fun _ => rfl) fun _ => calm_serialize)

theorem calm_ltrOp (rm : Rm) : Calm (ltrOp rm) :=
  .bind calm_protOnly fun _ => .bind calm_priv0 fun _ => .bind (calm_readSel rm) fun _ =>
    .bind (calm_raiseIf _ _) fun _ =>
    .bind (.quiet (quiet_systemDesc _ _)) fun _ => .bind (.onBus (keepsWf_setBusy _)) fun _ =>
    .bind (.modCpu fun _ => rfl) fun _ => calm_serialize

theorem calm_sldtOp (osz : OpSize) (rm : Rm) : Calm (sldtOp osz rm) :=
  .bind calm_protOnly fun _ => .withCpu fun _ => calm_writeSel _ _ _ osz rm

theorem calm_strOp (osz : OpSize) (rm : Rm) : Calm (strOp osz rm) :=
  .bind calm_protOnly fun _ => .withCpu fun _ => calm_writeSel _ _ _ osz rm

theorem calm_smswOp (osz : OpSize) (rm : Rm) : Calm (smswOp osz rm) :=
  .bind calm_free fun _ => .withCpu fun _ => calm_writeSel _ _ _ osz rm

theorem calm_loadPdptes (cr3 : W32) : Calm (loadPdptes cr3) :=
  .bind (.quiet (quiet_readPdptes _)) fun _ => .modCpu fun _ => rfl

theorem calm_writeCr3 (v : W32) : Calm (writeCr3 v) :=
  .withCpu fun _ => .optional (calm_loadPdptes _) fun _ => .bind (.modCpu fun _ => rfl) fun _ => .modBus fun _ => rfl

theorem calm_movFromCr (n : BitVec 3) (r : Gpr) : Calm (movFromCr n r) := by
  refine .bind calm_priv0 fun _ => .withCpu fun _ => ?_
  split
  · exact .raise _
  · exact .bind (.modGpr _) fun _ => calm_freeStatus

theorem calm_invlpgOp (m : MemOp) : Calm (invlpgOp m) :=
  .bind calm_priv0 fun _ => .withCpu fun _ => .bind (.modBus fun _ => rfl) fun _ => calm_serialize

theorem keepsWf_loseLossy : KeepsWf (do loseBytes (← getBus).lossy) := .bind .getBus fun _ => keepsWf_loseBytes _

theorem calm_invdOp : Calm invdOp :=
  .bind calm_priv0 fun _ => .bind (.onBus keepsWf_loseLossy) fun _ => .bind (.modBus fun _ => rfl) fun _ =>
    calm_serialize

theorem calm_wbinvdOp : Calm wbinvdOp :=
  .bind calm_priv0 fun _ => .bind (.modBus fun _ => rfl) fun _ => calm_serialize

theorem calm_hltOp : Calm hltOp := .bind calm_priv0 fun _ => .modCpu fun _ => rfl

theorem Cpu.cpuidSignature_control (c : Cpu) : c.cpuidSignature.control = c.control := by
  unfold Cpu.cpuidSignature; split <;> rfl

theorem calm_cpuidOp : Calm cpuidOp := .bind (.modCpu fun c => c.cpuidSignature_control) fun _ => calm_serialize

theorem Cpu.setIf_control (c : Cpu) : c.setIf.control = c.control := by unfold Cpu.setIf; split <;> rfl

theorem calm_stiOp : Calm stiOp :=
  .withCpu fun _ => .ite (.modCpu Cpu.setIf_control) (.ite (.unless fun _ => .modFl _) (.raise _))

theorem calm_cliOp : Calm cliOp := .withCpu fun _ => .ite (.modFl _) (.ite (.modFl _) (.raise _))

theorem calm_popfVme : Calm popfVme :=
  .bind (calm_peekW _ _) fun _ => .unless fun _ => .bind (calm_release _) fun _ => .modFl _

theorem calm_popfOp (osz : OpSize) : Calm (popfOp osz) :=
  .withCpu fun _ => .ite (.ite calm_popfVme (.raise _))
    (.bind (calm_peekW _ _) fun _ => .bind (calm_release _) fun _ => .modFl _)

theorem calm_pushfOp (osz : OpSize) : Calm (pushfOp osz) :=
  .withCpu fun _ => .ite (.ite (calm_pushW _ _) (.raise _)) (calm_pushW _ _)

theorem calm_checkDr (n : BitVec 3) : Calm (checkDr n) :=
  .withCpu fun _ => .unless fun _ => .unless fun _ => .ite (.raise _) (.pure _)

theorem calm_movFromDr (n : BitVec 3) (r : Gpr) : Calm (movFromDr n r) :=
  .bind (calm_checkDr n) fun _ => .modCpu fun _ => rfl

theorem calm_setEdxEax (v : W64) : Calm (setEdxEax v) := .modGpr _

theorem calm_rdtscOp : Calm rdtscOp := .withCpu fun _ => .unless fun _ => calm_setEdxEax _

theorem calm_rdpmcOp : Calm rdpmcOp :=
  .withCpu fun _ => .unless fun _ => .ite (calm_setEdxEax _) (.ite (calm_setEdxEax _) (.raise _))

theorem calm_rdmsrOp : Calm rdmsrOp := by
  refine .bind calm_priv0 fun _ => .withCpu fun _ => .ite (.bind calm_free fun _ => calm_setEdxEax _) ?_
  split
  · exact .raise _
  · exact calm_setEdxEax _

theorem calm_loadUpdate (v : W64) : Calm (loadUpdate v) := by
  unfold loadUpdate
  refine .unless fun _ => .bind (.quiet (quiet_linBytes _ _ _)) fun _ => .withCpu fun _ => ?_
  split
  · exact .pure _
  · exact .modCpu fun _ => rfl

theorem calm_freeRecords : Calm freeRecords :=
  .bind calm_free fun _ => .bind calm_free fun _ => .bind calm_free fun _ => .bind calm_free fun _ =>
    .modCpu fun _ => rfl

theorem calm_wrmsrOp : Calm wrmsrOp := by
  refine .bind calm_priv0 fun _ => .withCpu fun _ => .ite (.bind (calm_loadUpdate _) fun _ => calm_serialize) ?_
  split
  · exact .bind (.raise _) fun _ => calm_serialize
  · exact .bind (.modCpu fun _ => rfl) fun _ => .optional (.modBus fun _ => rfl) fun _ =>
      .ite (.bind calm_freeRecords fun _ => calm_serialize) calm_serialize

end Sys2Proof.Machine
end


section
namespace Sys2Proof.Machine

/-! Changes of the control registers that keep them legal. -/

variable {α β : Type}

theorem and_and_swap (v k m : W32) : (v &&& k) &&& m = (v &&& m) &&& k := by ac_rfl

/-- A write that keeps bit 4 and sets no reserved bit. -/
theorem Cr0Fixed.update {v : W32} (h : Cr0Fixed v) {k j : W32} (hk : bit k 4 = true) (hj : j &&& 0x1FFAFFC0#32 = 0#32) :
    Cr0Fixed ((v &&& k) ||| j) := by
  obtain ⟨hres, h4⟩ := h
  refine ⟨?_, by simp_all [bit]⟩
  rw [BitVec.and_or_distrib_right, and_and_swap, hres, hj]
  simp

theorem Cr0Fixed.of_mask (v : W32) {k : W32} (hk : k &&& 0x1FFAFFC0#32 = 0#32) : Cr0Fixed ((v &&& k) ||| 0x10#32) := by
  refine ⟨?_, by simp [bit]⟩
  rw [BitVec.and_or_distrib_right, BitVec.and_assoc, hk]
  simp

/-- A change of CR0 that keeps what `Cpu.Legal` asks of it. -/
structure Cr0Sound (v v' : W32) : Prop where
  fixed : Cr0Fixed v → Cr0Fixed v'
  paging : Cr0PagingProtected v → Cr0PagingProtected v'
  caches : Cr0CachesCoherent v → Cr0CachesCoherent v'

theorem Cr0Sound.setTs (v : W32) : Cr0Sound v (v ||| 8#32) where
  fixed h := by
    have ones : v &&& 0xFFFFFFFF#32 = v := BitVec.and_allOnes
    simpa only [ones] using h.update (k := 0xFFFFFFFF#32) (j := 8#32) (by decide) (by decide)
  paging h := by simpa [Cr0PagingProtected, bit] using h
  caches h := by simpa [Cr0CachesCoherent, bit] using h

theorem Cr0Sound.clearTs (v : W32) : Cr0Sound v (v &&& 0xFFFFFFF7#32) where
  fixed h := by simpa using h.update (k := 0xFFFFFFF7#32) (j := 0#32) (by decide) (by decide)
  paging h := by simpa [Cr0PagingProtected, bit] using h
  caches h := by simpa [Cr0CachesCoherent, bit] using h

/-- LMSW does not clear PE, and leaves PG, NW and CD. -/
theorem Cr0Sound.lmsw (v : W32) (x : W16) : Cr0Sound v (lmswValue v x) where
  fixed h := h.update (by decide) (by rw [BitVec.and_assoc]; simp)
  paging h hpg := by
    have h0 : bit v 0 = true := h (by simpa [bit, lmswValue] using hpg)
    simp_all [bit, lmswValue]
  caches h := by simpa [Cr0CachesCoherent, bit, lmswValue] using h

/-- What MOV does not refuse. -/
theorem Cr0Sound.written (v : W32) {w : W32} (hpg : bit w 31 = true → bit w 0 = true)
    (hnw : bit w 29 = true → bit w 30 = true) : Cr0Sound v (cr0Value w) where
  fixed _ := .of_mask w (by decide)
  paging _ := by simpa [Cr0PagingProtected, bit, cr0Value] using hpg
  caches _ := by simpa [Cr0CachesCoherent, bit, cr0Value] using hnw

theorem Dr7Legal.mask {v k : W32} (h : Dr7Legal v) (hk : 0x400#32 &&& k = 0x400#32) : Dr7Legal (v &&& k) := by
  unfold Dr7Legal at *
  rw [and_and_swap, h, hk]

theorem dr7Legal_dr7Value (v : W32) : Dr7Legal (dr7Value v) := by
  unfold Dr7Legal dr7Value
  rw [BitVec.and_or_distrib_right, BitVec.and_assoc]
  simp

/-- A change of the control registers, outside entry to and exit from SMM, that keeps them legal. -/
structure Control.Sound (k k' : Control) : Prop where
  cr0 : Cr0Sound k.cr0 k'.cr0
  cr4 : Cr4Legal k.cr4 → Cr4Legal k'.cr4
  dr7 : Dr7Legal k.dr7 → Dr7Legal k'.dr7
  mxcsr : MxcsrLegal k.mxcsr → MxcsrLegal k'.mxcsr
  inSmm : k'.inSmm = k.inSmm
  saved : k'.saved = k.saved

theorem Control.Sound.refl (k : Control) : k.Sound k := ⟨⟨id, id, id⟩, id, id, id, rfl, rfl⟩

theorem Control.Sound.legal {k k' : Control} (h : k.Sound k') : k.Legal → k'.Legal :=
  fun ⟨h0, hp, h4, h7, hm, hs⟩ => ⟨h.cr0.fixed h0, fun hi => h.cr0.paging (hp (h.inSmm ▸ hi)), h.cr4 h4, h.dr7 h7,
    h.mxcsr hm, fun v hv => hs v (h.saved ▸ hv)⟩

theorem Keeps.modCpu {f : Cpu → Cpu} (hl : ∀ c, c.Legal → (f c).Legal)
    (hc : ∀ c, Cr0CachesCoherent c.ctl.cr0 → Cr0CachesCoherent (f c).ctl.cr0) : Keeps (Machine.modCpu f) :=
  ⟨fun s => ⟨fun h => ⟨hl s.cpu h.1, h.2⟩, hc s.cpu⟩⟩

theorem Keeps.change {f : Cpu → Cpu} (h : ∀ c : Cpu, c.control.Sound (f c).control) : Keeps (Machine.modCpu f) :=
  .modCpu (fun c => (h c).legal) fun c => (h c).cr0.caches

theorem Keeps.minor {f : Cpu → Cpu} (h : ∀ c, (f c).control = c.control) : Keeps (Machine.modCpu f) :=
  (Calm.modCpu h).keeps

/-- A change that depends on the registers read just before it. -/
theorem Keeps.changeFrom {f : Cpu → Cpu → Cpu} {k : Cpu → PUnit → M α} (h : ∀ c : Cpu, c.control.Sound (f c c).control)
    (hk : ∀ c u, Keeps (k c u)) : Keeps (Machine.getCpu >>= fun c => Machine.modCpu (f c) >>= k c) :=
  ⟨fun s => ((Keeps.change h).lawful s).trans ((hk s.cpu ⟨⟩).lawful _)⟩

theorem Keeps.unless {q : Prop} [Decidable q] {e : Exc} {k : PUnit → M α} (hk : ¬q → ∀ u, Keeps (k u)) :
    Keeps (if q then (Machine.raise e >>= k) else k ⟨⟩) := by
  split
  · exact ⟨fun s => .refl s⟩
  · next h => exact hk h _

theorem Keeps.optional {q : Prop} [Decidable q] {x : M PUnit} {k : PUnit → M α} (hx : Keeps x) (hk : ∀ u, Keeps (k u)) :
    Keeps (if q then (x >>= k) else k ⟨⟩) := .ite (.bind hx hk) (hk _)

/-! Task switches. -/

theorem keeps_inNewTask {x : M α} (h : Keeps x) : Keeps (inNewTask x) := by
  have e (s : State) : (inNewTask x).after s = x.after s := by
    unfold M.after inNewTask
    rcases x s with _ | ⟨_ | _ | _ | _, _⟩ <;> rfl
  exact ⟨fun s => e s ▸ h.lawful s⟩

/-- FS or GS of the new task: the selector of its TSS, or with a 16-bit TSS a free value. -/
theorem keeps_taskSeg {x : Cpu → SegReg} {k : SegReg → M α} {q : Prop} [Decidable q] (hk : ∀ v, Keeps (k v)) :
    Keeps (if q then (do k (x (← getCpu))) else onBus freeSeg >>= k) :=
  .ite (.withCpu fun _ => hk _) (.bind (Calm.quiet quiet_freeSeg).keeps hk)

theorem keeps_loadTask (kind : TaskKind) (s : W16) (d : Desc) (bytes : List Byte) :
    Keeps (loadTask kind s d bytes) := by
  have rest (w : Bool) (t : TaskSels) (q : Prop) [Decidable q] {f : Cpu → Cpu} (hf : ∀ c, (f c).control = c.control) :
      Keeps (taskSegments t w >>= fun _ => if q then modCpu f else pure ()) :=
    .bind (calm_taskSegments _ _).keeps fun _ => (Calm.ite (.modCpu hf) (.pure _)).keeps
  refine .bind (Calm.quiet (quiet_taskGprs _ _)).keeps fun g => keeps_taskSeg fun fs => keeps_taskSeg fun gs =>
    .bind (.change fun c => ⟨.setTs _, id, (Dr7Legal.mask · (by decide)), id, rfl, rfl⟩) fun _ =>
      .optional (calm_taskCr3 _).keeps fun _ => rest _ _ _ fun _ => rfl

theorem Quiet.map {x : B α} (f : α → β) (h : Quiet x) : Quiet (f <$> x) := by
  rw [← bind_pure_comp]
  exact .bind h fun _ => .pure _

theorem keeps_taskSwitch (kind : TaskKind) (s : W16) (img : Eflags) (eip : W32) (cs : W16) :
    Keeps (taskSwitch kind s img eip cs) := by
  have busy (q : Prop) [Decidable q] (la : W32) : Calm (onBus (if q then pure none else some <$> busyByte la)) :=
    .quiet (.ite (.pure _) (.map some (quiet_busyByte _)))
  have rest (newBusy : Option Phys) (new : Phys) (d : Desc) : Keeps (do
      onBus (changeBusy newBusy (· ||| 2))
      let bytes ← onBus (readPhys new)
      refetch
      inNewTask (loadTask kind s d bytes)) :=
    .bind (Calm.onBus (keepsWf_changeBusy _ _)).keeps fun _ => .bind (Calm.quiet (quiet_readPhys _)).keeps fun _ =>
      .bind calm_refetch.keeps fun _ => keeps_inNewTask (keeps_loadTask _ _ _ _)
  exact .withCpu fun _ => .bind (Calm.quiet (quiet_checkTss _ _)).keeps fun _ =>
    .bind (Calm.quiet (quiet_tssHolds _)).keeps fun _ => .bind (Calm.quiet (quiet_tssPhys _ _ _)).keeps fun _ =>
    .bind (Calm.quiet (quiet_tssPhys _ _ _)).keeps fun _ => .bind (busy _ _).keeps fun _ =>
    .bind (busy _ _).keeps fun _ => .bind (Calm.onBus (keepsWf_changeBusy _ _)).keeps fun _ =>
    .bind (Calm.onBus (keepsWf_writeFields _ _)).keeps fun _ =>
    .optional (Calm.onBus (keepsWf_writeFields _ _)).keeps fun _ => rest _ _ _

/-! Deliveries. -/

theorem keeps_deliverTask (d : Delivery) (g : Desc) : Keeps (deliverTask d g) :=
  .withCpu fun _ => .bind (keeps_taskSwitch _ _ _ _ _) fun _ => .withCpu fun _ =>
    keeps_inNewTask (calm_pushCode _ _).keeps

theorem keeps_deliverProt (d : Delivery) : Keeps (deliverProt d) :=
  .withCpu fun _ => .bind (Calm.quiet (quiet_idtGate _)).keeps fun _ => .ite (keeps_deliverTask _ _) <|
    .bind (Calm.quiet (quiet_handlerCode _)).keeps fun _ =>
      .ite (calm_deliverV86 _ _ _).keeps (calm_deliverGate _ _ _).keeps

theorem keeps_markExt (ext : Bool) {x : M Unit} (h : Keeps x) : Keeps (markExt ext x) := by
  have e (s : State) : (markExt ext x).after s = x.after s := by
    unfold M.after markExt
    rcases x s with _ | ⟨_ | _ | _ | _, _⟩ <;> rfl
  exact ⟨fun s => e s ▸ h.lawful s⟩

theorem Cpu.afterDelivery_sound (c : Cpu) (d : Delivery) : c.control.Sound (c.afterDelivery d).control := by
  unfold Cpu.afterDelivery
  dsimp only
  split
  · exact ⟨⟨id, id, id⟩, id, (Dr7Legal.mask · (by decide)), id, rfl, rfl⟩
  · rw [Cpu.recordException_control]
    exact .refl _

theorem keeps_deliverOnce (d : Delivery) : Keeps (deliverOnce d) := by
  refine .withCpu fun c => ?_
  have rest : Keeps (do
      markExt d.ext (if c.pe then deliverProt d else deliverReal d)
      modCpu (·.afterDelivery d)
      refetch) :=
    .bind (keeps_markExt _ (.ite (keeps_deliverProt d) (calm_deliverReal d).keeps)) fun _ =>
      .bind (.change fun c => c.afterDelivery_sound d) fun _ => calm_refetch.keeps
  exact .ite (Keeps.bind (Calm.throw _).keeps fun _ => rest) rest

/-- What a delivery does before it starts again, or gives up, after an exception on its way. -/
theorem Lawful.interrupted {s t : State} (h : Lawful s t) (commit : Bool) {f : Cpu → Cpu}
    (hf : ∀ c, (f c).control = c.control) {b : Bus} (hb : b.mem = t.bus.mem) :
    Lawful s ⟨f (if commit then t.cpu else s.cpu), b⟩ := by
  have same (c : Cpu) : SameControl ⟨c, t.bus⟩ ⟨f c, b⟩ := ⟨hf c, fun hm => by rw [hb]; exact hm⟩
  cases commit with
  | true => exact h.trans (same t.cpu).lawful
  | false => exact h.restored.trans (same s.cpu).lawful

/-- A delivery that raises nothing is the whole of it. -/
theorem deliver_of_not_exc (n : Nat) {d : Delivery} {s : State} (h : ∀ e t, deliverOnce d s ≠ .error (.exc e) t) :
    deliver n d s = deliverOnce d s := by
  unfold deliver
  split
  · next e t he => exact absurd he (h e t)
  · rfl

/-- The registers from which a delivery that raised `e` in `t` goes on, or ends. -/
def deliverBase (s t : State) (e : Exc) : Cpu := if e.commit then t.cpu else s.cpu

/-- A delivery that raises an exception ends there, or goes on with one step less. -/
theorem deliver_of_exc (n : Nat) {d : Delivery} {s t : State} {e : Exc} (h : deliverOnce d s = .error (.exc e) t) :
    (∃ (f : Cpu → Cpu), (∀ c, (f c).control = c.control) ∧ deliver n d s = .ok () ⟨f (deliverBase s t e), t.bus⟩)
    ∨ ∃ m, n = m + 1 ∧ ∃ d' b, b.mem = t.bus.mem
        ∧ deliver n d s = deliver m d' ⟨(deliverBase s t e).beforeDelivery e, b⟩ := by
  have down (c : Cpu) : ({ c.beforeDelivery e with hid.run := .shutdown } : Cpu).control = c.control := rfl
  generalize hb : deliverBase s t e = base
  unfold deliverBase at hb
  rw [deliver.eq_def n d]
  simp only [h, hb]
  split
  · exact .inl ⟨_, down, rfl⟩
  · cases n with
    | zero => exact .inl ⟨id, fun _ => rfl, rfl⟩
    | succ m =>
      refine .inr ⟨m, rfl, ?_⟩
      dsimp only
      split <;> exact ⟨_, _, by rfl, rfl⟩

theorem keeps_deliver (n : Nat) (d : Delivery) : Keeps (deliver n d) := by
  refine ⟨fun s => ?_⟩
  induction n using Nat.strong_induction_on generalizing d s with
  | _ n ih =>
  have once := (keeps_deliverOnce d).lawful s
  by_cases hx : ∃ e t, deliverOnce d s = .error (.exc e) t
  · obtain ⟨e, t, hx⟩ := hx
    rw [M.after_error hx] at once
    obtain ⟨f, hf, h⟩ | ⟨m, rfl, d', b, hb, h⟩ := deliver_of_exc n hx
    · rw [M.after_ok h]
      exact once.interrupted e.commit hf rfl
    · have e' : (deliver (m + 1) d).after s = (deliver m d').after ⟨(deliverBase s t e).beforeDelivery e, b⟩ := by
        unfold M.after; rw [h]
      rw [e']
      have back : Lawful s ⟨(deliverBase s t e).beforeDelivery e, b⟩ :=
        once.interrupted e.commit (f := (·.beforeDelivery e)) (fun _ => rfl) hb
      exact back.trans (ih m m.lt_succ_self d' _)
  · have e : (deliver n d).after s = (deliverOnce d).after s := by
      unfold M.after
      rw [deliver_of_not_exc n fun e t he => hx ⟨e, t, he⟩]
    rwa [e]

theorem keeps_takeException (e : Exc) : Keeps (takeException e) :=
  .bind (.minor fun _ => rfl) fun _ => .withCpu fun _ => keeps_deliver _ _

theorem keeps_takeEvent (vec : Byte) (ext : Bool) : Keeps (takeEvent vec ext) :=
  .bind (.minor fun _ => rfl) fun _ => .withCpu fun _ => keeps_deliver _ _

/-! Transfers that may switch tasks or deliver. -/

theorem keeps_softInt (vec : Byte) : Keeps (softInt vec) := .withCpu fun _ => keeps_deliverOnce _

theorem keeps_intV86 (vec : Byte) : Keeps (intV86 vec) :=
  .withCpu fun _ => .bind (Calm.quiet (.ite (quiet_redirected _) (.pure _))).keeps fun _ =>
    .ite (calm_redirect _).keeps (.ite (keeps_softInt _) (Calm.raise _).keeps)

theorem keeps_intOp (vec : Byte) : Keeps (intOp vec) := .withCpu fun _ => .ite (keeps_intV86 _) (keeps_softInt _)

theorem keeps_farTransfer (kind : FarKind) (osz : OpSize) (s : W16) (off : W32) :
    Keeps (farTransfer kind osz s off) := by
  refine .withCpu fun c => .ite (Calm.keeps (.ite ?_ (calm_farReal _ _))) ?_
  · exact .bind (calm_checkEip _ _) fun _ => .bind (calm_pushSel _ _) fun _ => .bind (calm_pushW _ _) fun _ =>
      calm_farReal _ _
  · exact .bind (calm_raiseIf _ _).keeps fun _ => .bind (Calm.quiet (quiet_fetchOr _ _)).keeps fun _ =>
      .ite (calm_farDirect _ _ _ _ _).keeps <| .ite (calm_farGate _ _ _).keeps <|
      .ite (.bind (Calm.quiet (quiet_farTaskSel _ _)).keeps fun _ => keeps_taskSwitch _ _ _ _ _) (Calm.raise _).keeps

theorem keeps_farPtrOp (kind : FarKind) (p : FarPtr) : Keeps (farPtrOp kind p) := keeps_farTransfer _ _ _ _

theorem keeps_farMemOp (kind : FarKind) (osz : OpSize) (m : MemOp) : Keeps (farMemOp kind osz m) :=
  .bind (calm_loadFar _ _).keeps fun _ => keeps_farTransfer _ _ _ _

theorem keeps_iret (osz : OpSize) : Keeps (iret osz) := by
  have rest (u : PUnit) : Keeps (do
      modCpu fun c => { c with notes.keepRf := c.notes.keepRf || osz == .w32 }
      serialize) := .bind (.minor fun _ => rfl) fun _ => calm_serialize.keeps
  have real (mask : W32) : Keeps (iretReal osz mask) := (calm_iretReal osz mask).keeps
  have task (f : Nat → W16) (c : Cpu) : Keeps (do
      onBus (tssHolds 2)
      let link ← onBus (sysRead c.tr.base 2)
      taskSwitch .iret (f link) c.fl c.eip c.seg.cs.sel
      modCpu fun c => { c with notes.keepRf := c.notes.keepRf || osz == .w32 }
      serialize) :=
    .bind (Calm.quiet (quiet_tssHolds _)).keeps fun _ => .bind (Calm.quiet (quiet_sysRead _ _)).keeps fun _ =>
      .bind (keeps_taskSwitch _ _ _ _ _) rest
  exact .withCpu fun _ => .bind (.minor fun _ => rfl) fun _ => .ite (.bind (real _) rest) <|
    .ite (.ite (.bind (real _) rest) <| .ite (.bind calm_iretVme.keeps rest) (.bind (Calm.raise _).keeps rest)) <|
    .ite (task _ _) (.bind (calm_iretProt _).keeps rest)

/-! Writes of the control registers. -/

theorem calm_flushAll : Calm (onBus (modBus Bus.flushAll)) := .modBus fun _ => rfl

theorem Cr4Legal.of_allowed {c : Cpu} {v : W32} (h : v &&& c.cr4Forbidden = 0#32) : Cr4Legal v := by
  have cut (k : W32) (hk : k &&& 0xFFFFF800#32 = 0xFFFFF800#32) (h : v &&& k = 0#32) : Cr4Legal v := by
    unfold Cr4Legal
    rw [← hk, ← BitVec.and_assoc, h, BitVec.zero_and]
  unfold Cpu.cr4Forbidden at h
  split at h
  · exact cut _ (by decide) h
  · exact cut _ (by decide) h

theorem keeps_writeCr0 (v : W32) : Keeps (writeCr0 v) := by
  refine .withCpu fun c => .unless fun hpg _ => .unless fun hnw _ => .optional (calm_loadPdptes _).keeps fun _ => ?_
  refine .bind (.change fun c => ⟨.written _ ?_ ?_, id, id, id, rfl, rfl⟩) fun _ =>
    (Calm.ite calm_flushAll (.pure _)).keeps
  · simpa using hpg
  · simpa using hnw

theorem keeps_writeCr4 (v : W32) : Keeps (writeCr4 v) := by
  refine .withCpu fun c => .unless fun hv _ => .optional (calm_loadPdptes _).keeps fun _ => ?_
  have legal : Cr4Legal v := .of_allowed (not_not.1 hv)
  exact .bind (.change fun c => ⟨⟨id, id, id⟩, fun _ => legal, id, id, rfl, rfl⟩) fun _ =>
    (Calm.ite calm_flushAll (.pure _)).keeps

theorem keeps_movToCr (n : BitVec 3) (r : Gpr) : Keeps (movToCr n r) := by
  refine .bind calm_priv0.keeps fun _ => .withCpu fun c => ?_
  have rest (u : PUnit) : Keeps (do
      freeStatus
      serialize
      let pg := (← getCpu).pg
      onBus (modBus fun b => { b with oldPg := pg != c.pg })) :=
    Calm.keeps <| .bind calm_freeStatus fun _ => .bind calm_serialize fun _ => .withCpu fun _ => .modBus fun _ => rfl
  dsimp only
  split
  · exact .bind (keeps_writeCr0 _) rest
  · exact .bind (.minor fun _ => rfl) rest
  · exact .bind (calm_writeCr3 _).keeps rest
  · exact .bind (keeps_writeCr4 _) rest
  · exact .bind (Calm.raise _).keeps rest

theorem keeps_lmswOp (rm : Rm) : Keeps (lmswOp rm) :=
  .bind calm_priv0.keeps fun _ => .bind (calm_readSel rm).keeps fun v =>
    .changeFrom (fun _ => ⟨.lmsw _ v, id, id, id, rfl, rfl⟩) fun _ _ =>
      .optional calm_flushAll.keeps fun _ => calm_serialize.keeps

theorem keeps_cltsOp : Keeps cltsOp :=
  .bind calm_priv0.keeps fun _ => .change fun _ => ⟨.clearTs _, id, id, id, rfl, rfl⟩

theorem Dbg.set_dr7 (d : Dbg) (n : Nat) (v : W32) : (d.set n v).dr7 = d.dr7 ∨ (d.set n v).dr7 = dr7Value v := by
  unfold Dbg.set
  split <;> simp

theorem keeps_movToDr (n : BitVec 3) (r : Gpr) : Keeps (movToDr n r) := by
  refine .bind (calm_checkDr n).keeps fun _ => .bind (.change fun c => ?_) fun _ => calm_serialize.keeps
  refine ⟨⟨id, id, id⟩, id, fun h => ?_, id, rfl, rfl⟩
  obtain e | e := c.dbg.set_dr7 (drNumber n) (c.gpr.get r)
  · exact (congrArg Dr7Legal e).mpr h
  · exact (congrArg Dr7Legal e).mpr (dr7Legal_dr7Value _)

/-! Loads of MXCSR. -/

theorem MxcsrLegal.of_not_bad {v : W32} (h : ¬mxcsrBad v = true) : MxcsrLegal v := by
  simpa [mxcsrBad, MxcsrLegal] using h

theorem keeps_ldmxcsrOp (m : MemOp) : Keeps (ldmxcsrOp m) :=
  .bind calm_gateSse.keeps fun _ => .bind (calm_loadMem _ _ _).keeps fun _ => .unless fun hv _ =>
    .change fun _ => ⟨⟨id, id, id⟩, id, id, fun _ => .of_not_bad hv, rfl, rfl⟩

theorem keeps_fxrstorOp (m : MemOp) : Keeps (fxrstorOp m) := by
  have load (f : Fpu) (x : Sse) : Keeps (do
      if mxcsrBad x.mxcsr then raise (.gp 0#32)
      modCpu fun c => { c with fpu := f, sse := x }) :=
    .unless fun hv _ => .change fun _ => ⟨⟨id, id, id⟩, id, id, fun _ => .of_not_bad hv, rfl, rfl⟩
  have x87 (f : Fpu) : Keeps (modCpu fun c => { c with fpu := f }) := .minor fun _ => rfl
  exact .bind calm_gateX87.keeps fun _ => .bind calm_gatePending.keeps fun _ => .bind (calm_fxArea _ _).keeps fun _ =>
    .bind (Calm.quiet (quiet_readPhys _)).keeps fun _ => .withCpu fun _ => .ite (load _ _) (x87 _)

/-! System management mode. -/

theorem Cr0Fixed.smm {v : W32} (h : Cr0Fixed v) : Cr0Fixed (v &&& 0x7FFFFFF2#32) := by
  simpa using h.update (k := 0x7FFFFFF2#32) (j := 0#32) (by decide) (by decide)

theorem dr7Legal_reset : Dr7Legal 0x400#32 := by unfold Dr7Legal; decide

/-- The registers that entry to SMM leaves are legal, and so is what it saves. -/
theorem Control.Legal.smm {k : Control} (h : k.Legal) {v : SmmSaved} (h0 : v.cr0 = k.cr0) (h4 : v.cr4 = k.cr4)
    (h7 : v.dr7 = k.dr7) : Control.Legal
      { cr0 := k.cr0 &&& 0x7FFFFFF2#32, cr4 := 0#32, dr7 := 0x400#32, mxcsr := k.mxcsr, inSmm := true
        saved := some v } := by
  obtain ⟨hf, -, hc, hd, hm, -⟩ := h
  refine ⟨hf.smm, nofun, BitVec.zero_and, dr7Legal_reset, hm, ?_⟩
  rintro _ ⟨⟩
  unfold SmmSaved.Legal
  rw [h0, h4, h7]
  exact ⟨hf, hc, hd⟩

theorem keeps_enterSmm : Keeps enterSmm := by
  refine .withCpu fun c => .bind (Calm.onBus (keepsWf_writeMap _)).keeps fun _ =>
    .bind (Calm.quiet (quiet_mapReserved _)).keeps fun r => .bind (Calm.quiet quiet_freeGprs).keeps fun g =>
    .bind calm_free.keeps fun d => .bind (.modCpu (fun c h => ?_) fun c h => ?_) fun _ => calm_serialize.keeps
  · exact ((Cpu.legal_iff c).1 h).smm rfl rfl rfl
  · simpa [Cr0CachesCoherent, bit] using h

/-- From every state with the control registers of `s`, `x` ends in a state where `P` holds. -/
structure Ensures (s : State) (P : State → Prop) (x : M α) : Prop where
  holds : ∀ t, SameControl s t → P (x.after t)

theorem Ensures.bind {s : State} {P : State → Prop} (hP : ∀ t, SameControl s t → P t) {x : M α} {f : α → M β}
    (hx : Calm x) (hf : ∀ a, Ensures s P (f a)) : Ensures s P (x >>= f) := by
  refine ⟨fun t h => ?_⟩
  have hu := h.trans (hx.same t)
  cases hr : x t with
  | ok a u =>
    have e : (x >>= f).after t = (f a).after u := by unfold M.after; rw [M.bind_ok hr]
    rw [M.after_ok hr] at hu
    rw [e]
    exact (hf a).holds u hu
  | error e u =>
    rw [M.after_error (M.bind_error hr)]
    rw [M.after_error hr] at hu
    exact hP u hu

theorem Ensures.withCpu {s : State} {P : State → Prop} {f : Cpu → M α}
    (h : ∀ c, c.control = s.cpu.control → Ensures s P (f c)) : Ensures s P (getCpu >>= f) :=
  ⟨fun t ht => (h t.cpu ht.control).holds t ht⟩


/-! RSM may bring NW without CD, so it keeps states legal and no more. -/

/-- RSM with an image that is not invalid loads a CR0 that was legal before entry; with an invalid one, a CR0 with its
reserved bits fixed, and stays in SMM. -/
theorem Control.Legal.resumed {k k' : Control} (h : k.Legal) {v : SmmSaved} (hv : v.Legal) {cr0 : W32}
    (h4 : k'.cr4 = v.cr4) (h7 : k'.dr7 = v.dr7) (hm : k'.mxcsr = k.mxcsr) (hs : k'.saved = k.saved ∨ k'.saved = none)
    (h0 : if rsmInvalid cr0 v.cr4 then k'.cr0 = cr0Value cr0 ∧ k'.inSmm = true else k'.cr0 = cr0 ∧ cr0 = v.cr0) :
    k'.Legal := by
  obtain ⟨-, -, -, -, hk, hsaved⟩ := h
  obtain ⟨hv0, hv4, hv7⟩ := hv
  have saved : ∀ u, k'.saved = some u → u.Legal := by
    intro u hu
    obtain e | e := hs
    · exact hsaved u (e ▸ hu)
    · rw [e] at hu
      cases hu
  have cr0 : Cr0Fixed k'.cr0 ∧ (k'.inSmm = false → Cr0PagingProtected k'.cr0) := by
    split at h0
    · obtain ⟨e, hi⟩ := h0
      exact ⟨e ▸ .of_mask cr0 (by decide), fun hn => absurd (hi ▸ hn) nofun⟩
    · next hr =>
      obtain ⟨e, e'⟩ := h0
      have paging : Cr0PagingProtected cr0 := by
        simp only [rsmInvalid, Bool.or_eq_true, not_or] at hr
        simpa [Cr0PagingProtected] using hr.1.1
      exact ⟨by rw [e, e']; exact hv0, fun _ => by rw [e]; exact paging⟩
  exact ⟨cr0.1, cr0.2, h4 ▸ hv4, h7 ▸ hv7, hm ▸ hk, saved⟩

/-- A refusal, and what follows it where it does not apply. -/
theorem Ensures.refuse {s : State} {P : State → Prop} (hP : ∀ t, SameControl s t → P t) {q : Prop} [Decidable q]
    {r : Refusal} {k : PUnit → M α} (hk : ¬q → ∀ u, Ensures s P (k u)) :
    Ensures s P (if q then (throw (.refuse r) >>= k) else k ⟨⟩) := by
  split
  · exact ⟨fun t ht => hP t ht⟩
  · next h => exact hk h _

/-- What RSM does once its images have passed. -/
theorem rsmEnd_legal {s : State} {v : SmmSaved} (hi : s.cpu.smm.inSmm = true) (hv : v.Legal) (hs : s.Legal) {cr0 : W32}
    (h0 : ¬((!rsmInvalid cr0 v.cr4) = true ∧ cr0 ≠ v.cr0)) (c : Cpu) (g : Gprs) (fl eip base : W32) :
    Ensures s State.Legal (do
      let n := if rsmInvalid cr0 v.cr4 then cr0Value cr0 else cr0
      modCpu fun c => c.resumed v n g fl eip
      onBus (modBus (Bus.resumed c n v.cr4))
      serialize
      if rsmInvalid cr0 v.cr4 then modCpu fun c => { c with cpl := 0#2, hid.run := .shutdown }
      else modCpu (·.leftSmm base)) := by
  refine ⟨fun t ht => ?_⟩
  have legal : t.cpu.control.Legal := ht.control ▸ hs.1
  have inSmm : t.cpu.smm.inSmm = true := (congrArg Control.inSmm ht.control).trans hi
  have mem (n : W32) : ((t.bus.resumed c n v.cr4).serialized).mem.wf = true := by
    have e : ((t.bus.resumed c n v.cr4).serialized).mem = t.bus.mem := Bus.resumed_mem _ _ _ _
    rw [e]
    exact ht.wf hs.2
  by_cases hb : rsmInvalid cr0 v.cr4 = true
  · simp only [hb, if_true]
    refine ⟨(Cpu.legal_iff _).2 (legal.resumed (cr0 := cr0) hv rfl rfl rfl (.inl rfl) ?_), mem _⟩
    rw [if_pos hb]
    exact ⟨rfl, inSmm⟩
  · simp only [hb]
    refine ⟨(Cpu.legal_iff _).2 (legal.resumed (cr0 := cr0) hv rfl rfl rfl (.inr rfl) ?_), mem _⟩
    rw [if_neg hb]
    exact ⟨rfl, by simpa [hb] using h0⟩

theorem rsmLoad_legal {s : State} {v : SmmSaved} (hi : s.cpu.smm.inSmm = true) (hv : s.cpu.smm.saved = some v)
    (hs : s.Legal) : ((rsmLoad v).after s).Legal := by
  have here (t : State) (h : SameControl s t) : t.Legal := h.lawful.legal hs
  have saved : v.Legal := hs.1.2.2.2.2.2 v hv
  have before {α : Type} {x : B α} {f : α → M Unit} (hx : Quiet x) (hf : ∀ a, Ensures s State.Legal (f a)) :
      Ensures s State.Legal (onBus x >>= f) := .bind here (.quiet hx) hf
  suffices h : Ensures s State.Legal (rsmLoad v) from h.holds s (.refl s)
  exact .withCpu fun c hc => before (quiet_checkImages _) fun _ =>
    before (quiet_mapReserved _) fun r => .refuse here fun _ _ => before (quiet_mapField _ _) fun w =>
    before (quiet_mapField _ _) fun _ => before (quiet_mapField _ _) fun _ => .refuse here fun _ _ =>
    before (quiet_rsmEip _ _ _) fun _ => before quiet_mapGprs fun _ => before (quiet_mapField _ _) fun _ =>
    before (quiet_mapField _ _) fun _ => .refuse here fun h0 _ => rsmEnd_legal hi saved hs h0 _ _ _ _ _

/-! Events at an instruction boundary. -/

/-- A change of memory and devices that leaves memory alone. -/
theorem Keeps.minorBus {f : Bus → Bus} (h : ∀ b, (f b).mem = b.mem) : Keeps (onBus (modBus f)) := (Calm.modBus h).keeps

theorem cr4Legal_zero : Cr4Legal 0#32 := BitVec.zero_and

/-- What reset and INIT leave of the registers that `Cpu.Legal` looks at, but for CR0 and MXCSR. -/
theorem Control.Legal.fresh {cr0 mxcsr : W32} (h : Cr0Fixed cr0) (hp : Cr0PagingProtected cr0) (hm : MxcsrLegal mxcsr) :
    Control.Legal { cr0, cr4 := 0#32, dr7 := 0x400#32, mxcsr, inSmm := false, saved := none } :=
  ⟨h, fun _ => hp, cr4Legal_zero, dr7Legal_reset, hm, fun _ hv => by cases hv⟩

theorem cpu_control_reset : Cpu.reset.control
    = { cr0 := 0x60000010#32, cr4 := 0#32, dr7 := 0x400#32, mxcsr := 0x1F80#32, inSmm := false, saved := none } := rfl

theorem cpu_legal_reset : Cpu.reset.Legal := by
  rw [Cpu.legal_iff, cpu_control_reset]
  exact .fresh ⟨by decide, by decide⟩ (by unfold Cr0PagingProtected; decide) (by unfold MxcsrLegal; decide)

theorem keeps_hardReset : Keeps hardReset := by
  have registers (m : Msrs → Msrs) : Keeps (modCpu fun c => { Cpu.reset with msr := m c.msr }) :=
    .modCpu (fun _ _ => cpu_legal_reset) fun _ _ =>
      show Cr0CachesCoherent 0x60000010#32 by unfold Cr0CachesCoherent; decide
  exact .bind (Calm.onBus keepsWf_loseLossy).keeps fun _ => .bind (registers _) fun _ => .minorBus fun _ => rfl

theorem Cpu.afterInit_control (c : Cpu) : c.afterInit.control
    = { cr0 := initCr0 c.ctl.cr0, cr4 := 0#32, dr7 := 0x400#32, mxcsr := c.sse.mxcsr, inSmm := false
        saved := none } := rfl

theorem keeps_takeInit : Keeps takeInit := by
  refine .bind (.modCpu (fun c h => ?_) fun c h => ?_) fun _ => .minorBus fun _ => rfl
  · obtain ⟨-, -, -, -, hm, -⟩ := h
    rw [Cpu.legal_iff, Cpu.afterInit_control]
    exact .fresh (.of_mask _ (by decide)) (by simp [Cr0PagingProtected, bit, initCr0]) hm
  · show Cr0CachesCoherent (initCr0 c.ctl.cr0)
    simpa [Cr0CachesCoherent, bit, initCr0] using h

theorem calm_takeStartup (vec : Byte) : Calm (takeStartup vec) :=
  .bind (.modCpu fun _ => rfl) fun _ => .modBus fun _ => rfl

theorem keeps_machineCheck (e : McEvent) : Keeps (machineCheck e) :=
  .withCpu fun _ => .bind (.minor fun _ => rfl) fun _ => .ite
    (.bind (.minor fun _ => rfl) fun _ => .ite (.minor fun _ => rfl) <|
      .bind (.minor fun _ => rfl) fun _ => keeps_takeEvent _ _)
    (Calm.pure _).keeps

theorem keeps_takeMachineCheck (e : McEvent) : Keeps (takeMachineCheck e) :=
  .bind (.minorBus fun _ => rfl) fun _ => keeps_machineCheck e

theorem keeps_takeBinit : Keeps takeBinit :=
  .bind (.minorBus fun _ => rfl) fun _ => .bind (.minor fun _ => rfl) fun _ =>
    .bind (Calm.quiet quiet_binitEvent).keeps fun _ => keeps_machineCheck _

theorem keeps_takeDebugTrap (p : PendingDb) : Keeps (takeDebugTrap p) :=
  .bind (.minor fun _ => rfl) fun _ => keeps_takeEvent _ _

theorem keeps_takeNmi : Keeps takeNmi :=
  .bind (.minorBus fun _ => rfl) fun _ => .bind (.minor fun _ => rfl) fun _ => keeps_takeEvent _ _

theorem takeExt_mem (c : Cpu) (b : Bus) : (Apic.takeExt c b).mem = b.mem := by
  unfold Apic.takeExt
  split_ifs <;> rfl

theorem keeps_takeExtInt : Keeps takeExtInt :=
  .withCpu fun _ => .bind (Calm.quiet .getBus).keeps fun _ => .bind (Calm.modBus (takeExt_mem _)).keeps fun _ =>
    .bind (.minor fun _ => rfl) fun _ => keeps_takeEvent _ _

theorem keeps_takeApicInt : Keeps takeApicInt :=
  .bind (Calm.quiet .getBus).keeps fun _ => .bind (.minorBus fun _ => rfl) fun _ =>
    .bind (.minor fun _ => rfl) fun _ => keeps_takeEvent _ _

theorem keeps_takeFlush : Keeps takeFlush := .minorBus fun _ => rfl

theorem keeps_takeHappening : (h : Happening) → Keeps (takeHappening h)
  | .reset => keeps_hardReset
  | .machineCheck e => keeps_takeMachineCheck e
  | .binit => keeps_takeBinit
  | .debugTrap p => keeps_takeDebugTrap p
  | .flush => keeps_takeFlush
  | .smi => .bind (.minorBus fun _ => rfl) fun _ => keeps_enterSmm
  | .init => keeps_takeInit
  | .nmi => keeps_takeNmi
  | .extInt => keeps_takeExtInt
  | .apicInt => keeps_takeApicInt
  | .startup v => (calm_takeStartup v).keeps
  | .idle => (Calm.pure _).keeps
  | .instruction => (Calm.pure _).keeps

/-! The boundary, the start and the end of a step. -/

theorem calm_look : Calm look :=
  .bind (.quiet quiet_Apic_poll) fun _ => .bind (.modBus Bus.flushReleased_mem) fun _ =>
    .bind (.quiet quiet_fillLines) fun _ => .bind (.quiet quiet_speculate) fun _ =>
    .bind (.modCpu fun _ => rfl) fun _ =>
    .bind (.modBus fun _ => rfl) fun _ => .withCpu fun _ =>
    .optional (.modBus fun _ => rfl) fun _ => .bind (.quiet .getBus) fun _ => .pure _

theorem keepsWf_fetchNext : KeepsWf fetchNext := by
  refine ⟨fun c b hb => ?_⟩
  obtain ⟨b1, h, hm⟩ | ⟨b1, h, hm, -⟩ := fetchNext_cases c b
  · rw [h]
    exact quiet_fetchInstr.wf.keeps _ b1 (hm ▸ hb)
  · rw [h]
    exact quiet_fetchInstr.wf.keeps _ b1 (hm ▸ hb)

theorem calm_beginInstr : Calm beginInstr :=
  .bind (.modCpu fun _ => rfl) fun _ => .bind (.quiet quiet_checkBreakpoints) fun _ => .withCpu fun _ =>
    .unless fun _ => .bind (.onBus keepsWf_fetchNext) fun _ => .bind (.modCpu fun _ => rfl) fun _ => .pure _

theorem Cpu.recordBranch_control (c : Cpu) (src dst : W32) : (c.recordBranch src dst).control = c.control := by
  unfold Cpu.recordBranch; split <;> rfl

theorem Cpu.completed_control (c : Cpu) : c.completed.control = c.control := by
  show c.noteBranch.control = c.control
  unfold Cpu.noteBranch
  split
  · exact c.recordBranch_control _ _
  · rfl

theorem Cpu.dropShadows_control (c : Cpu) : c.dropShadows.control = c.control := by
  unfold Cpu.dropShadows; split <;> rfl

theorem finish_same (start : Cpu) (s : State) : SameControl s (finish start s) := by
  refine ⟨?_, id⟩
  unfold finish
  refine (Cpu.dropShadows_control _).trans ?_
  dsimp only
  split
  · rfl
  · exact s.cpu.completed_control

theorem finishEvent_same (start : Cpu) (s : State) : SameControl s (finishEvent start s) := by
  unfold finishEvent
  split
  · exact ⟨rfl, id⟩
  · exact .refl s

theorem perfOverflow_mem (b : Bus) : (Apic.perfOverflow b).mem = b.mem := by
  unfold Apic.perfOverflow
  dsimp only
  split_ifs <;> rfl

theorem clock_same (s : State) : SameControl s (clock s) := by
  refine ⟨rfl, fun h => ?_⟩
  have e : (clock s).bus.mem = s.bus.mem := by
    unfold clock
    dsimp only
    split_ifs <;> first | rfl | exact perfOverflow_mem _
  rwa [e]

theorem clocks_same (n : Nat) (s : State) : SameControl s (clocks n s) := by
  induction n generalizing s with
  | zero => exact .refl s
  | succ n ih => exact (clock_same s).trans (ih _)

theorem pass_same (s : State) : SameControl s (pass s) := clocks_same _ s

end Sys2Proof.Machine
end

section
namespace Sys2Proof.Machine

/-! The meanings of all instructions. -/

/-- The instruction's meaning keeps legal states legal. -/
def RunsLawfully (i : Instr) : Prop := ∃ x, Keeps x ∧ ∀ s, exec i s = runInstr x s

theorem RunsLawfully.keeps {i : Instr} {x : M Unit} (h : Keeps x)
    (e : ∀ s, exec i s = runInstr x s := by intro; unfold exec; rfl) : RunsLawfully i := ⟨x, h, e⟩

theorem RunsLawfully.calm {i : Instr} {x : M Unit} (h : Calm x)
    (e : ∀ s, exec i s = runInstr x s := by intro; unfold exec; rfl) : RunsLawfully i := ⟨x, h.keeps, e⟩

theorem runsLawfully (i : Instr) (h : i ≠ .rsm) : RunsLawfully i := by
  cases i with
  | rsm => exact absurd rfl h
  | sgdt | sidt => exact .calm (.withCpu fun _ => calm_storeTableReg _ _ _)
  | lgdt => exact .calm (calm_lgdtOp _ _)
  | lidt => exact .calm (calm_lidtOp _ _)
  | smsw => exact .calm (calm_smswOp _ _)
  | lmsw => exact .keeps (keeps_lmswOp _)
  | invlpg => exact .calm (calm_invlpgOp _)
  | sldt => exact .calm (calm_sldtOp _ _)
  | str => exact .calm (calm_strOp _ _)
  | lldt => exact .calm (calm_lldtOp _)
  | ltr => exact .calm (calm_ltrOp _)
  | verr | verw => exact .calm (calm_verifyOp _ _)
  | lar => exact .calm (calm_larOp _ _ _)
  | lsl => exact .calm (calm_lslOp _ _ _)
  | arpl => exact .calm (calm_arplOp _ _)
  | clts => exact .keeps keeps_cltsOp
  | invd => exact .calm calm_invdOp
  | wbinvd => exact .calm calm_wbinvdOp
  | hlt => exact .calm calm_hltOp
  | ud2 => exact .calm (.raise _)
  | nop | sfence => exact .calm (.pure ())
  | movRCr => exact .calm (calm_movFromCr _ _)
  | movRDr => exact .calm (calm_movFromDr _ _)
  | movCrR => exact .keeps (keeps_movToCr _ _)
  | movDrR => exact .keeps (keeps_movToDr _ _)
  | wrmsr => exact .calm calm_wrmsrOp
  | rdmsr => exact .calm calm_rdmsrOp
  | rdtsc => exact .calm calm_rdtscOp
  | rdpmc => exact .calm calm_rdpmcOp
  | cpuid => exact .calm calm_cpuidOp
  | emms => exact .calm calm_emmsOp
  | wait => exact .calm calm_gateWait
  | fninit => exact .calm calm_fninitOp
  | fxsave => exact .calm (calm_fxsaveOp _)
  | fxrstor => exact .keeps (keeps_fxrstorOp _)
  | ldmxcsr => exact .keeps (keeps_ldmxcsrOp _)
  | stmxcsr => exact .calm (calm_stmxcsrOp _)
  | addRm8R8 | orRm8R8 | andRm8R8 | subRm8R8 | xorRm8R8 | cmpRm8R8 | addRm8Imm8 | orRm8Imm8 | andRm8Imm8 | subRm8Imm8
  | xorRm8Imm8 | cmpRm8Imm8 | addAlImm8 | orAlImm8 | andAlImm8 | subAlImm8 | xorAlImm8 | cmpAlImm8 =>
    exact .calm (calm_aluRm8 _ _ _ _)
  | addRmR | orRmR | andRmR | subRmR | xorRmR | cmpRmR | addRmImm | orRmImm | andRmImm | subRmImm | xorRmImm | cmpRmImm
  | addRmImm8 | orRmImm8 | andRmImm8 | subRmImm8 | xorRmImm8 | cmpRmImm8 | addEaxImm | orEaxImm | andEaxImm | subEaxImm
  | xorEaxImm | cmpEaxImm =>
    exact .calm (calm_aluRm _ _ _ _ _)
  | addR8Rm8 | orR8Rm8 | andR8Rm8 | subR8Rm8 | xorR8Rm8 | cmpR8Rm8 => exact .calm (calm_aluR8 _ _ _)
  | addRRm | orRRm | andRRm | subRRm | xorRRm | cmpRRm => exact .calm (calm_aluR _ _ _ _)
  | incR | incRm => exact .calm (calm_incRmOp _ _ _)
  | decR | decRm => exact .calm (calm_decRmOp _ _ _)
  | incRm8 => exact .calm (calm_incRm8Op _ _)
  | decRm8 => exact .calm (calm_decRm8Op _ _)
  | divRm8 => exact .calm (calm_divRm8Op _)
  | idivRm8 => exact .calm (calm_idivRm8Op _)
  | divRm => exact .calm (calm_divRmOp _ _)
  | idivRm => exact .calm (calm_idivRmOp _ _)
  | testRm8R8 => exact .calm (.bind (calm_readRm8 _) fun _ => .withCpu fun _ => calm_testOp _ _)
  | testRmR => exact .calm (.bind (calm_readRm _ _) fun _ => .withCpu fun _ => calm_testOp _ _)
  | testRm8Imm8 => exact .calm (.bind (calm_readRm8 _) fun _ => calm_testOp _ _)
  | testRmImm => exact .calm (.bind (calm_readRm _ _) fun _ => calm_testOp _ _)
  | testAlImm8 | testEaxImm => exact .calm (.withCpu fun _ => calm_testOp _ _)
  | xchgRm8R8 => exact .calm (calm_xchg8 _ _)
  | xchgRmR | xchgEaxR => exact .calm (calm_xchg _ _ _)
  | movRm8R8 => exact .calm (.withCpu fun _ => calm_writeRm8 _ _)
  | movRmR => exact .calm (.withCpu fun _ => calm_writeRm _ _ _)
  | movR8Rm8 => exact .calm (.bind (calm_readRm8 _) fun _ => calm_writeRm8 _ _)
  | movRRm => exact .calm (.bind (calm_readRm _ _) fun _ => calm_writeRm _ _ _)
  | movR8Imm8 | movRm8Imm8 => exact .calm (calm_writeRm8 _ _)
  | movRImm | movRmImm => exact .calm (calm_writeRm _ _ _)
  | lea => exact .calm (.withCpu fun _ => calm_writeRm _ _ _)
  | movRmSreg => exact .calm (calm_movFromSeg _ _ _)
  | movSregRm => exact .calm (calm_movToSeg _ _)
  | lss | lfs | lgs | les | lds => exact .calm (calm_loadPointer _ _ _ _)
  | pushCs | pushSs | pushDs | pushEs | pushFs | pushGs => exact .calm (calm_pushSeg _ _)
  | popSs | popDs | popEs | popFs | popGs => exact .calm (calm_popSeg _ _)
  | pushR => exact .calm (.withCpu fun _ => calm_push _)
  | pushRm => exact .calm (.bind (calm_readRm _ _) fun _ => calm_push _)
  | pushImm | pushImm8 => exact .calm (calm_push _)
  | popR | popRm => exact .calm (calm_popTo _ _)
  | pushf => exact .calm (calm_pushfOp _)
  | popf => exact .calm (calm_popfOp _)
  | sti => exact .calm calm_stiOp
  | cli => exact .calm calm_cliOp
  | bound => exact .calm (calm_boundOp _ _ _)
  | jccRel | jccRel8 => exact .calm (calm_jccOp _ _ _)
  | jmpRel | jmpRel8 => exact .calm (calm_jmpRelOp _ _)
  | jmpRm => exact .calm (.bind (calm_rmTarget _ _) fun _ => calm_nearJump _)
  | callRel => exact .calm (.withCpu fun _ => calm_nearCall _ _)
  | callRm => exact .calm (.bind (calm_rmTarget _ _) fun _ => calm_nearCall _ _)
  | retNear | retNearImm => exact .calm (calm_retNearOp _ _)
  | retFar | retFarImm => exact .calm (calm_retFarOp _ _)
  | callFarPtr | jmpFarPtr => exact .keeps (keeps_farPtrOp _ _)
  | callFarMem | jmpFarMem => exact .keeps (keeps_farMemOp _ _ _)
  | int3 => exact .keeps (keeps_softInt _)
  | intN => exact .keeps (keeps_intOp _)
  | into => exact .keeps (.withCpu fun _ => .ite (keeps_softInt _) (Calm.pure _).keeps)
  | iret => exact .keeps (keeps_iret _)
  | inAlImm8 => exact .calm (calm_inAl _)
  | inEaxImm8 => exact .calm (calm_inEax _ _)
  | outImm8Al => exact .calm (calm_outAl _)
  | outImm8Eax => exact .calm (calm_outEax _ _)
  | inAlDx => exact .calm (.withCpu fun _ => calm_inAl _)
  | inEaxDx => exact .calm (.withCpu fun _ => calm_inEax _ _)
  | outDxAl => exact .calm (.withCpu fun _ => calm_outAl _)
  | outDxEax => exact .calm (.withCpu fun _ => calm_outEax _ _)

/-! Steps. -/

/-- What a step keeps: RSM may bring NW without CD, and is in SMM. -/
structure LawfulStep (s t : State) : Prop where
  legal : s.Legal → t.Legal
  coherent : s.cpu.smm.inSmm = false → Cr0CachesCoherent s.cpu.ctl.cr0 → Cr0CachesCoherent t.cpu.ctl.cr0

theorem Lawful.step {s t : State} (h : Lawful s t) : LawfulStep s t := ⟨h.legal, fun _ => h.coherent⟩

theorem LawfulStep.then {s t u : State} (h : LawfulStep s t) (h' : Lawful t u) : LawfulStep s u :=
  ⟨h'.legal ∘ h.legal, fun hi => h'.coherent ∘ h.coherent hi⟩

theorem SameControl.then {s t u : State} (h : SameControl s t) (h' : LawfulStep t u) : LawfulStep s u := by
  have inSmm : t.cpu.smm.inSmm = s.cpu.smm.inSmm := congrArg Control.inSmm h.control
  exact ⟨h'.legal ∘ h.lawful.legal, fun hi => h'.coherent (inSmm.trans hi) ∘ h.lawful.coherent⟩

/-- An instruction that stops: the registers of before it, or those of the new task, and then the exception. -/
theorem stopped_lawful {s t u : State} {e : Stop} (h : LawfulStep s t) (hu : stopped s t e = .next u) :
    LawfulStep s u := by
  have restored : LawfulStep s ⟨s.cpu, t.bus⟩ := ⟨fun hs => ⟨hs.1, (h.legal hs).2⟩, fun _ => id⟩
  cases e with
  | fault f => cases hu
  | refuse r => cases hu
  | wait =>
    cases hu
    exact restored.then (SameControl.lawful ⟨rfl, id⟩)
  | exc e =>
    have start : LawfulStep s ⟨if e.commit then t.cpu else s.cpu, t.bus⟩ := by
      split
      · exact h
      · exact restored
    have taken := (keeps_takeException e).lawful ⟨if e.commit then t.cpu else s.cpu, t.bus⟩
    unfold stopped at hu
    dsimp only at hu
    unfold M.after at taken
    cases hx : takeException e ⟨if e.commit then t.cpu else s.cpu, t.bus⟩ with
    | ok _ v =>
      rw [hx] at hu taken
      cases hu
      exact start.then taken
    | error e' v =>
      rw [hx] at hu taken
      cases e' with
      | fault f => cases hu
      | refuse r => cases hu
      | exc e' | wait =>
        cases hu
        exact start.then taken

/-- The state after an instruction: what its meaning leaves, or what follows a stop. -/
theorem runInstr_lawful {x : M Unit} {s u : State} (hx : LawfulStep s.past (x.after s.past))
    (hu : runInstr x s = .next u) : LawfulStep s u := by
  have past : SameControl s s.past := ⟨rfl, id⟩
  have h := past.then hx
  unfold runInstr at hu
  unfold M.after at h
  change (match x s.past with | .ok _ t => _ | .error e t => _) = _ at hu
  cases hr : x s.past with
  | ok _ t =>
    rw [hr] at hu h
    cases hu
    exact h
  | error e t =>
    rw [hr] at hu h
    exact stopped_lawful h hu

/-- RSM does nothing outside SMM, and in SMM it keeps legal states legal. -/
theorem rsmOp_lawful (s : State) : LawfulStep s (rsmOp.after s) := by
  cases hi : s.cpu.smm.inSmm with
  | false =>
    have e : rsmOp s = .error (.exc .ud) s := by
      unfold rsmOp
      rw [M.bind_ok (run_getCpu s), hi]
      rfl
    rw [M.after_error e]
    exact (Lawful.refl s).step
  | true =>
    refine ⟨fun hs => ?_, fun h => absurd (hi ▸ h) nofun⟩
    cases hv : s.cpu.smm.saved with
    | none =>
      have e : rsmOp s = .error (.refuse .smmMapModified) s := by
        unfold rsmOp
        rw [M.bind_ok (run_getCpu s), hi, hv]
        rfl
      rwa [M.after_error e]
    | some v =>
      have e : rsmOp s = rsmLoad v s := by
        unfold rsmOp
        rw [M.bind_ok (run_getCpu s), hi, hv]
        rfl
      have e' : rsmOp.after s = (rsmLoad v).after s := by unfold M.after; rw [e]
      rw [e']
      exact rsmLoad_legal hi hv hs

theorem exec_lawful {i : Instr} {s u : State} (h : exec i s = .next u) : LawfulStep s u := by
  by_cases hi : i = .rsm
  · subst hi
    exact runInstr_lawful (rsmOp_lawful _) h
  · obtain ⟨x, hx, e⟩ := runsLawfully i hi
    exact runInstr_lawful (hx.lawful _).step (e s ▸ h)

theorem mapNext_eq_next {f : State → State} {o : Host.Outcome State Fault Refusal} {u : State}
    (h : mapNext f o = .next u) : ∃ t, o = .next t ∧ u = f t := by
  cases o with
  | next t =>
    cases h
    exact ⟨t, rfl, rfl⟩
  | fault | refused => cases h

theorem runNext_lawful {s u : State} (h : runNext exec s = .next u) : LawfulStep s u := by
  obtain ⟨t, ht, rfl⟩ := mapNext_eq_next h
  have ends : Lawful t (pass (finish s.cpu t)) := ((finish_same _ t).trans (pass_same _)).lawful
  have begun := calm_beginInstr.same s
  refine .then ?_ ends
  cases hb : beginInstr s with
  | ok i s1 =>
    rw [hb] at ht
    rw [M.after_ok hb] at begun
    exact begun.then (exec_lawful ht)
  | error e s1 =>
    rw [hb] at ht
    rw [M.after_error hb] at begun
    exact stopped_lawful begun.lawful.step ht

theorem runEvent_lawful {k : Happening} {s u : State} (h : runEvent k s = .next u) : LawfulStep s u := by
  obtain ⟨t, ht, rfl⟩ := mapNext_eq_next h
  have ends : Lawful t (pass (finishEvent s.cpu t)) := ((finishEvent_same _ t).trans (pass_same _)).lawful
  have taken := (keeps_takeHappening k).lawful s
  refine .then ?_ ends
  cases hb : takeHappening k s with
  | ok _ s1 =>
    rw [hb] at ht
    rw [M.after_ok hb] at taken
    cases ht
    exact taken.step
  | error e s1 =>
    rw [hb] at ht
    rw [M.after_error hb] at taken
    exact stopped_lawful taken.step ht

theorem step_lawful {s t : State} (h : step s = .next t) : LawfulStep s t := by
  have looked := calm_look.same s
  unfold step stepWith at h
  cases hl : look s with
  | ok k s1 =>
    rw [hl] at h
    rw [M.after_ok hl] at looked
    cases k with
    | instruction => exact looked.then (runNext_lawful h)
    | _ => exact looked.then (runEvent_lawful h)
  | error e s1 =>
    rw [hl] at h
    rw [M.after_error hl] at looked
    exact stopped_lawful looked.lawful.step h

/-- Settles O2: what each computation keeps, for the boundary, the events and the instructions in turn. -/
theorem stepKeepsLegal : Obligations.StepKeepsLegal := by
  unfold Obligations.StepKeepsLegal
  intro s t h
  exact ⟨(step_lawful h).legal, (step_lawful h).coherent⟩

/-- Settles O3. -/
theorem resetLegal : Obligations.ResetLegal := by
  unfold Obligations.ResetLegal
  exact ⟨cpu_legal_reset, reset_mem_wf⟩

end Sys2Proof.Machine
end

section
namespace Sys2Proof.Machine

/-! An instruction whose meaning is known to end, well or with an exception. -/

theorem exec_next {i : Instr} {x : M Unit} {s t : State} (h : x s.past = .ok () t)
    (e : ∀ s, exec i s = runInstr x s := by intro; unfold exec; rfl) : exec i s = .next t :=
  (e s).trans (runInstr_ok h)

theorem exec_raises {i : Instr} {x : M Unit} {s t : State} {ex : Exc} {b : Bus} (h : x s.past = .error (.exc ex) t)
    (hc : ex.commit = false) (hb : t.bus = b) (e : ∀ s, exec i s = runInstr x s := by intro; unfold exec; rfl) :
    exec i s = s.raises ex b :=
  (e s).trans (runInstr_raises h hc hb)

/-! The check of privilege. -/

theorem priv0_error {s : State} (h : s.cpu.unprivileged = true) : priv0 s = .error (.exc (.gp 0#32)) s := by
  unfold priv0
  rw [M.bind_ok (run_getCpu s), run_ite, if_pos (by simpa [Cpu.unprivileged] using h)]
  rfl

theorem protOnly_ok {s : State} (h : s.cpu.prot = true) : protOnly s = .ok () s := by
  unfold protOnly
  rw [M.bind_ok (run_getCpu s), run_ite, if_neg (by simp [h])]
  rfl

theorem protOnly_error {s : State} (h : s.cpu.prot = false) : protOnly s = .error (.exc .ud) s := by
  unfold protOnly
  rw [M.bind_ok (run_getCpu s), run_ite, if_pos (by simp [h])]
  rfl

/-- An instruction that checks the privilege level first. -/
theorem exec_priv0_error {i : Instr} {f : Unit → M Unit} {s : State} (h : s.cpu.unprivileged = true)
    (e : ∀ s, exec i s = runInstr (priv0 >>= f) s := by intro; unfold exec; rfl) :
    exec i s = s.raises (.gp 0#32) s.bus :=
  exec_raises (M.bind_error (priv0_error h)) rfl rfl e

/-- An instruction that checks for protected mode and then the privilege level. -/
theorem exec_protected_error {i : Instr} {f : Unit → M Unit} {s : State} (hp : s.cpu.prot = true)
    (h : s.cpu.unprivileged = true)
    (e : ∀ s, exec i s = runInstr (protOnly >>= fun _ => priv0 >>= f) s := by intro; unfold exec; rfl) :
    exec i s = s.raises (.gp 0#32) s.bus :=
  have prot : protOnly s.past = .ok () s.past := protOnly_ok hp
  have level : priv0 s.past = .error (.exc (.gp 0#32)) s.past := priv0_error h
  exec_raises (t := s.past) ((M.bind_ok prot).trans (M.bind_error level)) rfl rfl e

/-- The check of a move to or from a debug register outside SMM. -/
theorem checkDr_error {s : State} {n : BitVec 3} (h : s.cpu.unprivileged = true) (hi : s.cpu.smm.inSmm = false) :
    checkDr n s = .error (.exc (.gp 0#32)) s := by
  have q : (s.cpu.pe && !s.cpu.smm.inSmm && (s.cpu.fl.vm || s.cpu.cpl != 0#2)) = true := by
    simpa [Cpu.unprivileged, hi] using h
  unfold checkDr
  rw [M.bind_ok (run_getCpu s), run_ite, if_pos q]
  rfl

/-- Settles O44: each of these instructions begins with the check. -/
theorem privilegedInstructionsFaultOutsideLevelZero : Obligations.PrivilegedInstructionsFaultOutsideLevelZero := by
  unfold Obligations.PrivilegedInstructionsFaultOutsideLevelZero
  intro s osz m rm n r
  refine ⟨fun h i hi => ?_, fun h hsmm => ⟨?_, ?_⟩, fun hp h => ⟨?_, ?_⟩, fun hp => ⟨?_, ?_⟩⟩
  · simp only [List.mem_cons, List.not_mem_nil, or_false] at hi
    rcases hi with rfl | rfl | rfl | rfl | rfl | rfl | rfl | rfl | rfl | rfl | rfl | rfl <;> exact exec_priv0_error h
  · exact exec_raises (M.bind_error (checkDr_error h hsmm)) rfl rfl
  · exact exec_raises (M.bind_error (checkDr_error h hsmm)) rfl rfl
  · exact exec_protected_error hp h
  · exact exec_protected_error hp h
  · exact exec_raises (M.bind_error (protOnly_error hp)) rfl rfl
  · exact exec_raises (M.bind_error (protOnly_error hp)) rfl rfl

/-- Settles O43. -/
theorem cltsClearsTaskSwitched : Obligations.CltsClearsTaskSwitched := by
  unfold Obligations.CltsClearsTaskSwitched
  refine ⟨fun d => by cases d <;> rfl, fun s => ⟨fun h => ?_, fun h => exec_priv0_error h⟩⟩
  exact exec_next (x := cltsOp) (M.bind_ok (priv0_ok h))

/-! Caches and translations. -/

theorem Bus.put_read_one (a x : Nat) (v : Byte) {b : Bus} (h : b.mem.wf = true) :
    (b.put [(a, v)]).mem.read x = b.mem.read x ∨ (x = a ∧ (b.put [(a, v)]).mem.read x = v) := by
  by_cases hx : x = a
  · subst hx
    by_cases hw : b.writable x = true
    · have e : (b.put [(x, v)]).mem = b.mem.write x v := by simp [Bus.put, Memory.writeBytes, hw]
      exact .inr ⟨rfl, e ▸ Memory.read_write_same h x v⟩
    · have e : (b.put [(x, v)]).mem = b.mem := by simp [Bus.put, Memory.writeBytes, hw]
      exact .inl (e ▸ rfl)
  · exact .inl (Bus.put_read_other _ b (by simpa using hx))

/-- INVD changes memory alone, and gives each byte it changes one of its old values. -/
theorem loseBytes_run (l : List Host.Cell) (c : Cpu) (b : Bus) :
    ∃ mem k, loseBytes l c b = .ok () { b with mem := mem, freeCtr := k }
      ∧ (b.mem.wf = true → ∀ a, mem.read a = b.mem.read a ∨ (a, mem.read a) ∈ l) := by
  induction l generalizing b with
  | nil => exact ⟨b.mem, b.freeCtr, rfl, fun _ a => .inl rfl⟩
  | cons cell t ih =>
    obtain ⟨x, old⟩ := cell
    have first : ∃ b1 : Bus, loseBytes ((x, old) :: t) c b = loseBytes t c b1
        ∧ b1 = { b with mem := b1.mem, freeCtr := b1.freeCtr }
        ∧ (b1.mem = b.mem ∨ b1.mem = (b.put [(x, old)]).mem) := by
      rw [loseBytes, B.bind_ok (run_freeBit c b)]
      cases (Config.freeWord b.freeCtr).getLsbD 0 with
      | false => exact ⟨{ b with freeCtr := b.freeCtr + 1 }, rfl, rfl, .inl rfl⟩
      | true => exact ⟨Bus.put [(x, old)] { b with freeCtr := b.freeCtr + 1 }, rfl, rfl, .inr rfl⟩
    obtain ⟨b1, hrun, hb1, hm⟩ := first
    obtain ⟨mem, k, hrest, hread⟩ := ih b1
    refine ⟨mem, k, ?_, fun hwf a => ?_⟩
    · rw [hrun, hrest, hb1]
    · obtain hm | hm := hm
      · exact (hread (hm ▸ hwf) a).imp (fun h => h.trans (hm ▸ rfl)) fun h => .tail _ h
      · obtain h | h := hread (hm ▸ Bus.put_wf _ b hwf) a
        · obtain h' | ⟨rfl, h'⟩ := Bus.put_read_one x a old hwf
          · exact .inl (h.trans (hm ▸ h'))
          · refine .inr ?_
            rw [h, hm, h']
            exact .head _
        · exact .inr (.tail _ h)

/-- Settles O45. -/
theorem invalidationAndHalt : Obligations.InvalidationAndHalt := by
  unfold Obligations.InvalidationAndHalt
  intro s h
  have level : priv0 s.past = .ok () s.past := priv0_ok h
  refine ⟨fun m => exec_next (x := invlpgOp m) (M.bind_ok level), exec_next (x := wbinvdOp) (M.bind_ok level),
    exec_next (x := hltOp) (M.bind_ok level), ?_⟩
  obtain ⟨mem, k, hrun, hread⟩ := loseBytes_run s.bus.lossy s.past.cpu s.bus
  refine ⟨mem, k, exec_next (x := invdOp) ?_, hread⟩
  have lost : onBus (do loseBytes (← getBus).lossy) s.past
      = .ok () { s.past with bus := { s.bus with mem := mem, freeCtr := k } } :=
    onBus_ok ((B.bind_ok (run_getBus _ _)).trans hrun)
  exact (M.bind_ok level).trans (M.bind_ok lost)

end Sys2Proof.Machine
end

section
namespace Sys2Proof.Machine

/-! STI and CLI. -/

theorem Cpu.ifAllowed_iff (c : Cpu) : c.ifAllowed = true ↔ c.pe = false ∨ c.cpl.toNat ≤ c.fl.iopl.toNat := by
  simp [Cpu.ifAllowed]

theorem Cpu.vifActive_iff (c : Cpu) : c.vifActive = true ↔ (c.fl.vm = true ∧ bit c.ctl.cr4 0 = true)
    ∨ (c.fl.vm = false ∧ c.cpl = 3#2 ∧ bit c.ctl.cr4 1 = true) := by
  unfold Cpu.vifActive
  cases c.fl.vm <;> simp

theorem cliOp_allowed {s : State} (h : s.cpu.ifAllowed = true) :
    cliOp s = .ok () { s with cpu := { s.cpu with fl.if_ := false } } := by
  unfold cliOp
  rw [M.bind_ok (run_getCpu s), run_ite, if_pos h]
  rfl

theorem cliOp_virtual {s : State} (h : ¬s.cpu.ifAllowed = true) (hv : s.cpu.vifActive = true) :
    cliOp s = .ok () { s with cpu := { s.cpu with fl.vif := false } } := by
  unfold cliOp
  rw [M.bind_ok (run_getCpu s), run_ite, if_neg h, run_ite, if_pos hv]
  rfl

theorem cliOp_refused {s : State} (h : ¬s.cpu.ifAllowed = true) (hv : ¬s.cpu.vifActive = true) :
    cliOp s = .error (.exc (.gp 0#32)) s := by
  unfold cliOp
  rw [M.bind_ok (run_getCpu s), run_ite, if_neg h, run_ite, if_neg hv]
  rfl

theorem stiOp_allowed {s : State} (h : s.cpu.ifAllowed = true) : stiOp s = .ok () { s with cpu := s.cpu.setIf } := by
  unfold stiOp
  rw [M.bind_ok (run_getCpu s), run_ite, if_pos h]
  rfl

theorem stiOp_virtual {s : State} (h : ¬s.cpu.ifAllowed = true) (hv : s.cpu.vifActive = true) :
    stiOp s = if s.cpu.fl.vip then .error (.exc (.gp 0#32)) s
      else .ok () { s with cpu := { s.cpu with fl.vif := true } } := by
  unfold stiOp
  rw [M.bind_ok (run_getCpu s), run_ite, if_neg h, run_ite, if_pos hv]
  cases s.cpu.fl.vip <;> rfl

theorem stiOp_refused {s : State} (h : ¬s.cpu.ifAllowed = true) (hv : ¬s.cpu.vifActive = true) :
    stiOp s = .error (.exc (.gp 0#32)) s := by
  unfold stiOp
  rw [M.bind_ok (run_getCpu s), run_ite, if_neg h, run_ite, if_neg hv]
  rfl

/-- Settles O49. -/
theorem stiCliFollowPrivilege : Obligations.StiCliFollowPrivilege := by
  unfold Obligations.StiCliFollowPrivilege
  intro s
  dsimp only
  rw [← Cpu.ifAllowed_iff, ← Cpu.vifActive_iff]
  refine ⟨fun h => ⟨exec_next (cliOp_allowed h), fun hi => ?_, fun hi => ?_⟩,
    fun h hv => ⟨exec_next (cliOp_virtual h hv), fun hp => ?_, fun hp => ?_⟩,
    fun h hv => ⟨exec_raises (cliOp_refused h hv) rfl rfl, exec_raises (stiOp_refused h hv) rfl rfl⟩⟩
  · have same : s.past.cpu.setIf = s.past.cpu := if_pos hi
    exact exec_next ((stiOp_allowed (s := s.past) h).trans (by rw [same]))
  · have set : s.past.cpu.setIf = { s.past.cpu with
        fl.if_ := true, hid.ssShadow := false, hid.stiShadow := true, notes.newShadow := true } :=
      if_neg (by simpa using hi)
    exact exec_next ((stiOp_allowed (s := s.past) h).trans (by rw [set]))
  · exact exec_next ((stiOp_virtual (s := s.past) h hv).trans (if_neg (by simpa using hp)))
  · exact exec_raises ((stiOp_virtual (s := s.past) h hv).trans (if_pos hp)) rfl rfl

end Sys2Proof.Machine
end

section
namespace Sys2Proof.Machine

/-! Reads of operands, which change no register and store nothing. -/

variable {α β : Type}

/-- Where the computation ends well, the registers stay, nothing is stored, and memory stays canonical. -/
structure Reading (x : M α) : Prop where
  ends : ∀ s a t, x s = .ok a t →
    t.cpu = s.cpu ∧ Stored s.cpu [] s.bus t.bus ∧ (s.bus.mem.wf = true → t.bus.mem.wf = true)

theorem Reading.stored {x : M α} (hx : Reading x) {s t : State} {a : α} (h : x s = .ok a t) :
    Stored s.cpu [] s.bus t.bus := (hx.ends s a t h).2.1

theorem Reading.pure (a : α) : Reading (pure a : M α) := by
  refine ⟨fun s b t h => ?_⟩
  cases h
  exact ⟨rfl, .refl _ _ _, id⟩

theorem Reading.bind {x : M α} {f : α → M β} (hx : Reading x) (hf : ∀ a, Reading (f a)) : Reading (x >>= f) := by
  refine ⟨fun s b u h => ?_⟩
  obtain ⟨a, t, h1, h2⟩ := M.bind_eq_ok h
  obtain ⟨c1, s1, w1⟩ := hx.ends s a t h1
  obtain ⟨c2, s2, w2⟩ := (hf a).ends t b u h2
  exact ⟨c2.trans c1, s1.trans w1 (c1 ▸ s2), w2 ∘ w1⟩

theorem Reading.withCpu {f : Cpu → M α} (h : ∀ c, Reading (f c)) : Reading (getCpu >>= f) :=
  ⟨fun s a t hx => (h s.cpu).ends s a t hx⟩

theorem Reading.quiet {x : B α} (hx : Quiet x) : Reading (onBus x) := by
  refine ⟨fun s a t h => ?_⟩
  rw [run_onBus] at h
  cases hr : x s.cpu s.bus with
  | ok a' b =>
    rw [hr] at h
    cases h
    exact ⟨rfl, hx.ok hr, hx.wf.ok hr⟩
  | error e b =>
    rw [hr] at h
    cases h

theorem reading_loadMem (w : Nat) (m : MemOp) (align : Nat) : Reading (loadMem w m align) :=
  .withCpu fun _ => .quiet (quiet_memRead _ _ _ _)

theorem reading_loadAt (w : Nat) (m : MemOp) (k : Nat) : Reading (loadAt w m k) :=
  .withCpu fun _ => .quiet (quiet_memRead _ _ _ _)

theorem reading_readRm (osz : OpSize) : (rm : Rm) → Reading (readRm osz rm)
  | .reg _ => .withCpu fun _ => .pure _
  | .mem m => reading_loadMem osz.bits m _

theorem reading_readSel (rm : Rm) : Reading (readSel rm) := reading_readRm .w16 rm

theorem reading_peekW (k : Nat) : (osz : OpSize) → Reading (peekW osz k)
  | .w16 => .bind (.withCpu fun _ => .quiet (quiet_memRead _ _ _ _)) fun _ => .pure _
  | .w32 => .withCpu fun _ => .quiet (quiet_memRead _ _ _ _)

/-! MOV from control registers, LMSW and SMSW. -/

theorem movFromCr_ok {s : State} {n : BitVec 3} {v : W32} (h : s.cpu.unprivileged = false)
    (hv : s.cpu.ctl.get n = some v) (r : Gpr) : movFromCr n r s = .ok ()
      { cpu := { s.cpu with gpr := s.cpu.gpr.set r v, fl := s.cpu.fl.statusFrom (Config.freeWord s.bus.freeCtr) }
        bus := { s.bus with freeCtr := s.bus.freeCtr + 1 } } := by
  unfold movFromCr
  rw [M.bind_ok (priv0_ok h), M.bind_ok (run_getCpu s), hv]
  rfl

theorem movFromCr_error {s : State} {n : BitVec 3} (h : s.cpu.unprivileged = false) (hv : s.cpu.ctl.get n = none)
    (r : Gpr) : movFromCr n r s = .error (.exc .ud) s := by
  unfold movFromCr
  rw [M.bind_ok (priv0_ok h), M.bind_ok (run_getCpu s), hv]
  rfl

/-- LMSW drops the cached translations where it changes PE. -/
theorem lmswOp_ok {s : State} {rm : Rm} {v : W16} {b : Bus} (h : s.cpu.unprivileged = false)
    (hv : readSel rm s = .ok v { s with bus := b }) : lmswOp rm s = .ok ()
      { cpu := { s.cpu with ctl.cr0 := lmswValue s.cpu.ctl.cr0 v }
        bus := (if bit (lmswValue s.cpu.ctl.cr0 v) 0 = s.cpu.pe then b else b.flushAll).serialized } := by
  unfold lmswOp
  rw [M.bind_ok (priv0_ok h), M.bind_ok hv, M.bind_ok (run_getCpu _), M.bind_ok (run_modCpu _ _), run_ite]
  by_cases hp : bit (lmswValue s.cpu.ctl.cr0 v) 0 = s.cpu.pe
  · rw [if_neg (by simpa using hp), if_pos hp]
    rfl
  · rw [if_pos (by simpa using hp), if_neg hp]
    rfl

/-- A selector, or the machine status word, goes to a register with `upper` above it, as far as the operand reaches. -/
theorem writeSel_reg (osz : OpSize) (r : Gpr) (v upper : W16) (align : Nat) (s : State) :
    writeSel osz (.reg r) v upper align s
      = .ok () { s with cpu := { s.cpu with gpr := s.cpu.gpr.setV osz r ((upper ++ v).setWidth osz.bits) } } := by
  cases osz with
  | w16 =>
    have e : (upper ++ v).setWidth OpSize.w16.bits = v := BitVec.setWidth_append_eq_right
    rw [e]
    rfl
  | w32 =>
    have e : (upper ++ v).setWidth OpSize.w32.bits = upper ++ v := BitVec.setWidth_eq _
    rw [e]
    rfl

/-- The register form of SMSW: the upper half of a 32-bit destination is free. -/
theorem smswOp_reg (osz : OpSize) (r : Gpr) (s : State) : ∃ x : W32,
    x.extractLsb' 0 16 = s.cpu.ctl.cr0.extractLsb' 0 16
    ∧ smswOp osz (.reg r) s = .ok () { cpu := { s.cpu with gpr := s.cpu.gpr.setV osz r (x.setWidth osz.bits) }
                                       bus := { s.bus with freeCtr := s.bus.freeCtr + 1 } } := by
  refine ⟨(Config.freeWord s.bus.freeCtr).extractLsb' 0 16 ++ s.cpu.ctl.cr0.extractLsb' 0 16,
    BitVec.extractLsb'_append_eq_right, ?_⟩
  unfold smswOp
  rw [M.bind_ok (onBus_ok (run_free _ _)), M.bind_ok (run_getCpu _), writeSel_reg]

/-- The memory form of SMSW. -/
theorem smswOp_mem {osz : OpSize} {m : MemOp} {s : State} {p : Phys} {b2 : Bus}
    (h : Writes s.cpu { s.bus with freeCtr := s.bus.freeCtr + 1 } m.segment (m.off s.cpu) 2
      (s.cpu.ctl.cr0.extractLsb' 0 16).toNat p b2) :
    smswOp osz (.mem m) s = .ok () { s with bus := b2 } := by
  unfold smswOp
  rw [M.bind_ok (onBus_ok (run_free _ _)), M.bind_ok (run_getCpu _)]
  exact storeMem_ok (w := 16) h

/-- Settles O41. -/
theorem controlRegisterReads : Obligations.ControlRegisterReads := by
  unfold Obligations.ControlRegisterReads
  intro s
  refine ⟨fun h n r => ⟨fun v hv => ⟨_, exec_next (movFromCr_ok (s := s.past) h ?_ r)⟩, fun hn => ?_⟩,
    fun rm v b1 h hv => ⟨exec_next (lmswOp_ok (s := s.past) h hv), (reading_readSel rm).stored hv⟩, fun osz r => ?_,
    fun osz m p b2 h => ⟨exec_next (smswOp_mem (s := s.past) h), ?_⟩⟩
  · rcases hv with ⟨rfl, rfl⟩ | ⟨rfl, rfl⟩ | ⟨rfl, rfl⟩ | ⟨rfl, rfl⟩ <;> rfl
  · refine exec_raises (movFromCr_error (s := s.past) h ?_ r) rfl rfl
    rcases hn with rfl | rfl | rfl | rfl <;> rfl
  · obtain ⟨x, hx, hrun⟩ := smswOp_reg osz r s.past
    exact ⟨x, hx, exec_next hrun⟩
  · exact h.stored

end Sys2Proof.Machine
end

section
namespace Sys2Proof.Machine

/-! LGDT, LIDT, SGDT and SIDT. -/

/-- A failing segment check raises an exception that arises before the instruction commits anything. -/
theorem segCheck_commit {c : Cpu} {sr : Seg} {off : W32} {n : Nat} {write : Bool} {e : Exc}
    (h : segCheck c sr off n write = some e) : e.commit = false := by
  unfold segCheck at h
  dsimp only at h
  split_ifs at h <;> cases h <;> rfl

theorem tableOperand_ok {c : Cpu} {m : MemOp} {write : Bool} (h : segCheck c m.segment (m.off c) 6 write = none)
    (b : Bus) : tableOperand m write c b = .ok () b := by
  unfold tableOperand
  rw [B.bind_ok (run_regs c b), h]
  rfl

theorem tableOperand_error {c : Cpu} {m : MemOp} {write : Bool} {e : Exc}
    (h : segCheck c m.segment (m.off c) 6 write = some e) (b : Bus) :
    tableOperand m write c b = .error (.exc e) b := by
  unfold tableOperand
  rw [B.bind_ok (run_regs c b), h]
  rfl

/-- What LGDT and LIDT load. -/
def loadedTable (osz : OpSize) (limit : W16) (base : W32) : TableReg :=
  { base := if osz = .w16 then base &&& 0x00FFFFFF#32 else base, limit }

theorem loadTableReg_ok {osz : OpSize} {m : MemOp} {s : State} {limit : W16} {base : W32} {b1 b2 : Bus}
    (h : segCheck s.cpu m.segment (m.off s.cpu) 6 false = none) (h1 : loadMem 16 m 2 s = .ok limit { s with bus := b1 })
    (h2 : loadAt 32 m 2 { s with bus := b1 } = .ok base { s with bus := b2 }) :
    loadTableReg osz m s = .ok (loadedTable osz limit base) { s with bus := b2 } := by
  unfold loadTableReg
  rw [M.bind_ok (onBus_ok (tableOperand_ok h s.bus)), M.bind_ok h1, M.bind_ok h2]
  cases osz <;> rfl

theorem loadTableReg_error {osz : OpSize} {m : MemOp} {s : State} {e : Exc}
    (h : segCheck s.cpu m.segment (m.off s.cpu) 6 false = some e) : loadTableReg osz m s = .error (.exc e) s := by
  unfold loadTableReg
  rw [M.bind_error (onBus_error (tableOperand_error h s.bus))]

/-- The base that SGDT and SIDT store, with a free byte on top where the operand size is 16 bits. -/
theorem storedBase_run (osz : OpSize) (base : W32) (c : Cpu) (b : Bus) :
    storedBase osz base c b = .ok
      ((if osz = .w16 then (Config.freeWord b.freeCtr).extractLsb' 24 8 else base.extractLsb' 24 8)
        ++ base.extractLsb' 0 24) { b with freeCtr := b.freeCtr + if osz = .w16 then 1 else 0 } := by
  cases osz with
  | w16 => rfl
  | w32 =>
    have e : (base.extractLsb' 24 8 ++ base.extractLsb' 0 24 : W32) = base := by
      ext i hi
      simp only [BitVec.getElem_append, BitVec.getElem_extractLsb']
      split <;> simp <;> grind
    show EStateM.Result.ok base b = EStateM.Result.ok (base.extractLsb' 24 8 ++ base.extractLsb' 0 24 : W32) b
    rw [e]

/-- The places of the limit and of the base can be written. -/
theorem storeTableReg_ok {osz : OpSize} {m : MemOp} {s : State} {t : TableReg} {p q : Phys} {b1 b2 b3 b4 : Bus}
    (h : segCheck s.cpu m.segment (m.off s.cpu) 6 true = none)
    (hp : memPrepare m.segment (m.off s.cpu) 2 2 true s.cpu s.bus = .ok p b1)
    (hq : memPrepare m.segment (m.off s.cpu + 2#32) 4 4 true s.cpu b1 = .ok q b2)
    (h3 : writePhys p (leBytes 2 t.limit.toNat) s.cpu { b2 with freeCtr := b2.freeCtr + if osz = .w16 then 1 else 0 }
      = .ok () b3)
    (h4 : writePhys q (leBytes 4 ((if osz = .w16 then (Config.freeWord b2.freeCtr).extractLsb' 24 8
      else t.base.extractLsb' 24 8) ++ t.base.extractLsb' 0 24 : W32).toNat) s.cpu b3 = .ok () b4) :
    storeTableReg osz m t s = .ok () { s with bus := b4 } := by
  unfold storeTableReg
  rw [M.bind_ok (run_getCpu s)]
  refine onBus_ok ?_
  rw [B.bind_ok (tableOperand_ok h s.bus), B.bind_ok hp, B.bind_ok hq, B.bind_ok (storedBase_run osz t.base s.cpu b2),
    B.bind_ok h3]
  exact h4

/-- The place of the limit can be written, that of the base cannot. -/
theorem storeTableReg_error {osz : OpSize} {m : MemOp} {s : State} {t : TableReg} {p : Phys} {b1 b2 : Bus} {e : Exc}
    (h : segCheck s.cpu m.segment (m.off s.cpu) 6 true = none)
    (hp : memPrepare m.segment (m.off s.cpu) 2 2 true s.cpu s.bus = .ok p b1)
    (hq : memPrepare m.segment (m.off s.cpu + 2#32) 4 4 true s.cpu b1 = .error (.exc e) b2) :
    storeTableReg osz m t s = .error (.exc e) { s with bus := b2 } := by
  unfold storeTableReg
  rw [M.bind_ok (run_getCpu s)]
  refine onBus_error ?_
  rw [B.bind_ok (tableOperand_ok h s.bus), B.bind_ok hp, B.bind_error hq]

theorem storeTableReg_outside {osz : OpSize} {m : MemOp} {s : State} {t : TableReg} {e : Exc}
    (h : segCheck s.cpu m.segment (m.off s.cpu) 6 true = some e) : storeTableReg osz m t s = .error (.exc e) s := by
  unfold storeTableReg
  rw [M.bind_ok (run_getCpu s), onBus_error (B.bind_error (tableOperand_error h s.bus))]

/-- Two writes, each after its own checks. -/
theorem twoWrites_stored {sp sq : Seg} {op oq : W32} {np nq ap aq : Nat} {c : Cpu} {p q : Phys}
    {b b1 b2 b2' b3 b4 : Bus}
    {lp lq : List Byte} (hp : memPrepare sp op np ap true c b = .ok p b1)
    (hq : memPrepare sq oq nq aq true c b1 = .ok q b2) (h3 : writePhys p lp c b2' = .ok () b3)
    (h4 : writePhys q lq c b3 = .ok () b4) (hm : b2'.mem = b2.mem) :
    Stored c (p.addrs ++ q.addrs) b b4 := by
  have first : Stored c p.addrs b2' b3 := B.after_ok h3 ▸ writePhys_stored lp b2' (memPrepare_leaves hp)
  have second : Stored c q.addrs b3 b4 := B.after_ok h4 ▸ writePhys_stored lq b3 (memPrepare_leaves hq)
  have both : Stored c (p.addrs ++ q.addrs) b2' b4 :=
    .trans (fun hb => (keepsWf_writePhys _ _).ok h3 hb) (first.mono fun _ => List.mem_append_left _)
      (second.mono fun _ => List.mem_append_right _)
  have all : Stored c (p.addrs ++ q.addrs) b2 b4 := .trans (fun hb => hm ▸ hb) (.of_mem_eq hm) both
  exact (quiet_memPrepare _ _ _ _ _).then_stored hp ((quiet_memPrepare _ _ _ _ _).then_stored hq all)

/-- The meaning of SGDT or SIDT, `t` being the register it stores. -/
theorem exec_storeTableReg {i : Instr} {osz : OpSize} {m : MemOp} {s : State} {t : TableReg}
    (hi : (i = .sgdt osz m ∧ t = s.cpu.gdtr) ∨ (i = .sidt osz m ∧ t = s.cpu.idtr)) :
    ∃ x, (∀ s, exec i s = runInstr x s) ∧ x s.past = storeTableReg osz m t s.past := by
  obtain ⟨rfl, rfl⟩ | ⟨rfl, rfl⟩ := hi
  · exact ⟨getCpu >>= fun c => storeTableReg osz m c.gdtr, fun _ => by unfold exec; rfl,
      by rw [M.bind_ok (run_getCpu _)]; rfl⟩
  · exact ⟨getCpu >>= fun c => storeTableReg osz m c.idtr, fun _ => by unfold exec; rfl,
      by rw [M.bind_ok (run_getCpu _)]; rfl⟩

theorem exec_storeTableReg_outside {i : Instr} {osz : OpSize} {m : MemOp} {s : State} {t : TableReg} {e : Exc}
    (hi : (i = .sgdt osz m ∧ t = s.cpu.gdtr) ∨ (i = .sidt osz m ∧ t = s.cpu.idtr))
    (h : segCheck s.cpu m.segment (m.off s.cpu) 6 true = some e) : exec i s = s.raises e s.bus := by
  obtain ⟨x, hx, hrun⟩ := exec_storeTableReg hi
  exact exec_raises (hrun.trans (storeTableReg_outside (s := s.past) h)) (segCheck_commit h) rfl hx

theorem Quiet.error {α : Type} {x : B α} (h : Quiet x) {c : Cpu} {b b' : Bus} {e : Stop} (hx : x c b = .error e b') :
    Stored c [] b b' := B.after_error hx ▸ h.same c b

/-- Settles O39. -/
theorem tableRegisterLoadsAndStores : Obligations.TableRegisterLoadsAndStores := by
  unfold Obligations.TableRegisterLoadsAndStores
  intro s osz m
  refine ⟨fun limit base b1 b2 h hc h1 h2 => ?_, fun t i p b1 hi hc hp => ⟨fun q b2 b3 b4 hq h3 h4 => ?_,
    fun e b2 he hq => ?_⟩, fun e hc h => ?_, fun e hc => ?_⟩
  · have level : priv0 s.past = .ok () s.past := priv0_ok h
    have loaded := loadTableReg_ok (osz := osz) (s := s.past) hc h1 h2
    refine ⟨exec_next (x := lgdtOp osz m) ((M.bind_ok level).trans (M.bind_ok loaded)),
      exec_next (x := lidtOp osz m) ((M.bind_ok level).trans (M.bind_ok loaded)), ?_⟩
    exact (Reading.bind (reading_loadMem 16 m 2) fun _ => reading_loadAt 32 m 2).stored ((M.bind_ok h1).trans h2)
  · obtain ⟨x, hx, hrun⟩ := exec_storeTableReg hi
    exact ⟨exec_next (hrun.trans (storeTableReg_ok (s := s.past) hc hp hq h3 h4)) hx,
      (twoWrites_stored hp hq h3 h4 rfl).cpu rfl⟩
  · obtain ⟨x, hx, hrun⟩ := exec_storeTableReg hi
    have stored := (quiet_memPrepare _ _ _ _ _).then_stored hp ((quiet_memPrepare _ _ _ _ _).error hq)
    exact ⟨exec_raises (hrun.trans (storeTableReg_error (s := s.past) hc hp hq)) he rfl hx, stored.cpu rfl⟩
  · have level : priv0 s.past = .ok () s.past := priv0_ok h
    have refused := loadTableReg_error (osz := osz) (s := s.past) hc
    exact ⟨exec_raises (x := lgdtOp osz m) ((M.bind_ok level).trans (M.bind_error refused)) (segCheck_commit hc) rfl,
      exec_raises (x := lidtOp osz m) ((M.bind_ok level).trans (M.bind_error refused)) (segCheck_commit hc) rfl⟩
  · exact ⟨exec_storeTableReg_outside (.inl ⟨rfl, rfl⟩) hc, exec_storeTableReg_outside (.inr ⟨rfl, rfl⟩) hc⟩

end Sys2Proof.Machine
end

section
namespace Sys2Proof.Machine

/-! LLDT and LTR. -/

theorem fetchOr_some {sel : W16} {e : Exc} {c : Cpu} {b b1 : Bus} {d : Desc} (h : fetchDesc sel c b = .ok (some d) b1) :
    fetchOr sel e c b = .ok d b1 := by
  unfold fetchOr
  rw [B.bind_ok h]
  rfl

theorem fetchOr_none {sel : W16} {e : Exc} {c : Cpu} {b b1 : Bus} (h : fetchDesc sel c b = .ok none b1) :
    fetchOr sel e c b = .error (.exc e) b1 := by
  unfold fetchOr
  rw [B.bind_ok h]
  rfl

theorem raiseIf_pos {q : Bool} (h : q = true) (e : Exc) (c : Cpu) (b : Bus) : raiseIf q e c b = .error (.exc e) b := by
  rw [run_raiseIf, if_pos h]

theorem raiseIf_neg {q : Bool} (h : q = false) (e : Exc) (c : Cpu) (b : Bus) : raiseIf q e c b = .ok () b := by
  rw [run_raiseIf, if_neg (by simp [h])]

theorem systemDesc_local {sel : W16} (h : selTi sel = true) (types : List Nat) (c : Cpu) (b : Bus) :
    systemDesc sel types c b = .error (.exc (.gp (selCode sel))) b := by
  unfold systemDesc
  rw [B.bind_error (raiseIf_pos h _ c b)]

theorem systemDesc_beyond {sel : W16} {c : Cpu} {b b1 : Bus} (h : selTi sel = false)
    (hd : fetchDesc sel c b = .ok none b1) (types : List Nat) :
    systemDesc sel types c b = .error (.exc (.gp (selCode sel))) b1 := by
  unfold systemDesc
  rw [B.bind_ok (raiseIf_neg h _ c b), B.bind_error (fetchOr_none hd)]

theorem systemDesc_found {sel : W16} {c : Cpu} {b b1 : Bus} {d : Desc} (h : selTi sel = false)
    (hd : fetchDesc sel c b = .ok (some d) b1) (types : List Nat) :
    systemDesc sel types c b =
      if d.isSys types = false then .error (.exc (.gp (selCode sel))) b1
      else if d.p = false then .error (.exc (.np (selCode sel))) b1
      else .ok d b1 := by
  unfold systemDesc
  rw [B.bind_ok (raiseIf_neg h _ c b), B.bind_ok (fetchOr_some hd)]
  cases hs : d.isSys types with
  | false =>
    rw [B.bind_error (raiseIf_pos (by simp) _ c b1)]
    rfl
  | true =>
    rw [B.bind_ok (raiseIf_neg (by simp) _ c b1)]
    cases hp : d.p with
    | false =>
      rw [B.bind_error (raiseIf_pos (by simp) _ c b1)]
      rfl
    | true =>
      rw [B.bind_ok (raiseIf_neg (by simp) _ c b1)]
      rfl

/-- Where LLDT and LTR have read their selector. -/
structure ReadsSel (rm : Rm) (s : State) (sel : W16) (b : Bus) : Prop where
  prot : protOnly s = .ok () s
  level : priv0 s = .ok () s
  sel : readSel rm s = .ok sel { s with bus := b }

section
variable {rm : Rm} {s : State} {sel : W16} {b1 : Bus}

theorem lldtOp_null (h : ReadsSel rm s sel b1) (hn : selNull sel = true) : lldtOp rm s = .ok ()
    { cpu := { s.cpu with ldtr := { s.cpu.ldtr with sel := sel, unusable := true } }
      bus := b1.serialized } := by
  unfold lldtOp
  rw [M.bind_ok h.prot, M.bind_ok h.level, M.bind_ok h.sel, run_ite, if_pos hn]
  rfl

theorem lldtOp_found (h : ReadsSel rm s sel b1) (hn : selNull sel = false) {d : Desc} {b2 : Bus}
    (hd : systemDesc sel [2] s.cpu b1 = .ok d b2) :
    lldtOp rm s = .ok () { cpu := { s.cpu with ldtr := d.reg sel }, bus := b2.serialized } := by
  unfold lldtOp
  rw [M.bind_ok h.prot, M.bind_ok h.level, M.bind_ok h.sel, run_ite, if_neg (by simp [hn]), M.bind_ok (onBus_ok hd)]
  rfl

theorem lldtOp_error (h : ReadsSel rm s sel b1) (hn : selNull sel = false) {e : Exc} {b2 : Bus}
    (hd : systemDesc sel [2] s.cpu b1 = .error (.exc e) b2) : lldtOp rm s = .error (.exc e) { s with bus := b2 } := by
  unfold lldtOp
  rw [M.bind_ok h.prot, M.bind_ok h.level, M.bind_ok h.sel, run_ite, if_neg (by simp [hn]),
    M.bind_error (onBus_error hd)]

theorem ltrOp_null (h : ReadsSel rm s sel b1) (hn : selNull sel = true) :
    ltrOp rm s = .error (.exc (.gp 0#32)) { s with bus := b1 } := by
  unfold ltrOp
  rw [M.bind_ok h.prot, M.bind_ok h.level, M.bind_ok h.sel, M.bind_error (onBus_error (raiseIf_pos hn _ _ _))]

theorem ltrOp_found (h : ReadsSel rm s sel b1) (hn : selNull sel = false) {d : Desc} {b2 b3 : Bus}
    (hd : systemDesc sel [1, 9] s.cpu b1 = .ok d b2) (hb : setBusy d s.cpu b2 = .ok () b3) : ltrOp rm s
      = .ok () { cpu := { s.cpu with tr := { d.reg sel with typ := d.typ ||| 2#4 } }, bus := b3.serialized } := by
  unfold ltrOp
  rw [M.bind_ok h.prot, M.bind_ok h.level, M.bind_ok h.sel, M.bind_ok (onBus_ok (raiseIf_neg hn _ _ _)),
    M.bind_ok (onBus_ok hd), M.bind_ok (onBus_ok hb)]
  rfl

theorem ltrOp_error (h : ReadsSel rm s sel b1) (hn : selNull sel = false) {e : Exc} {b2 : Bus}
    (hd : systemDesc sel [1, 9] s.cpu b1 = .error (.exc e) b2) : ltrOp rm s = .error (.exc e) { s with bus := b2 } := by
  unfold ltrOp
  rw [M.bind_ok h.prot, M.bind_ok h.level, M.bind_ok h.sel, M.bind_ok (onBus_ok (raiseIf_neg hn _ _ _)),
    M.bind_error (onBus_error hd)]

end

/-- Settles O40. -/
theorem lldtLtrLoadDescriptors : Obligations.LldtLtrLoadDescriptors := by
  unfold Obligations.LldtLtrLoadDescriptors
  refine ⟨fun s rm sel b1 hp hl hs => ?_, fun sel types d c b b1 =>
    ⟨fun h => systemDesc_local h types c b, fun h hd => systemDesc_beyond h hd types,
      fun h hd => systemDesc_found h hd types⟩⟩
  have reads : ReadsSel rm s.past sel b1 := ⟨protOnly_ok hp, priv0_ok hl, hs⟩
  have read : Stored s.cpu [] s.bus b1 := ((reading_readSel rm).stored hs).cpu rfl
  have wf : s.bus.mem.wf = true → b1.mem.wf = true := ((reading_readSel rm).ends _ _ _ hs).2.2
  refine ⟨fun hn => ⟨exec_next (lldtOp_null reads hn), exec_raises (ltrOp_null reads hn) rfl rfl, read⟩,
    fun d b2 hn hd => ⟨exec_next (lldtOp_found reads hn hd), ?_⟩,
    fun d b2 b3 hn hd hb => ⟨exec_next (ltrOp_found reads hn hd hb), ?_⟩,
    fun i types e b2 hn he hi hd => ⟨?_, ?_⟩⟩
  · exact .trans wf read (((quiet_systemDesc _ _).ok hd).cpu rfl)
  · have busy := (quiet_systemDesc _ _).then_stored hd (setBusy_stored hb)
    exact .trans wf (read.mono fun _ h => by cases h) (busy.cpu rfl)
  · obtain ⟨rfl, rfl⟩ | ⟨rfl, rfl⟩ := hi
    · exact exec_raises (lldtOp_error reads hn hd) he rfl
    · exact exec_raises (ltrOp_error reads hn hd) he rfl
  · exact .trans wf read (((quiet_systemDesc _ _).error hd).cpu rfl)

end Sys2Proof.Machine
end

section
namespace Sys2Proof.Machine

/-! EFLAGS as a word. -/

theorem getLsbD_flagBit (f : Bool) (n k : Nat) : (flagBit f n).getLsbD k = (f && decide (k < 32 ∧ k = n)) := by
  cases f with
  | false => simp [flagBit]
  | true =>
    simp only [flagBit, if_true, BitVec.getLsbD_shiftLeft, BitVec.getLsbD_one, Bool.true_and]
    by_cases h : k = n
    · subst h; simp
    · by_cases hk : k < n
      · simp [hk, h]
      · have : k - n ≠ 0 := by omega
        simp [h, this]

theorem getLsbD_iopl (x : BitVec 2) (k : Nat) :
    (x.setWidth 32 <<< 12).getLsbD k = (decide (12 ≤ k) && x.getLsbD (k - 12)) := by
  have beyond (h : 14 ≤ k) : x.getLsbD (k - 12) = false := BitVec.getLsbD_of_ge _ _ (by omega)
  simp only [BitVec.getLsbD_shiftLeft, BitVec.getLsbD_setWidth]
  by_cases h : k < 12
  · simp [h]
  · by_cases h' : k < 14
    · simp [h, show k < 32 by omega, show k - 12 < 32 by omega, show 12 ≤ k by omega]
    · simp [beyond (by omega)]

theorem Eflags.ofBits_toBits (f : Eflags) : .ofBits f.toBits = f := by
  obtain ⟨cf, pf, af, zf, sf, tf, if_, df, of, iopl, nt, rf, vm, ac, vif, vip, id⟩ := f
  have level : (Eflags.mk cf pf af zf sf tf if_ df of iopl nt rf vm ac vif vip id).toBits.extractLsb' 12 2 = iopl := by
    ext i hi
    rw [BitVec.getElem_extractLsb']
    simp only [Eflags.toBits, BitVec.getLsbD_or, getLsbD_flagBit, getLsbD_iopl]
    obtain rfl | rfl : i = 0 ∨ i = 1 := by omega
    · simp
    · simp
  simp only [Eflags.ofBits, level]
  simp only [Eflags.toBits, bit, BitVec.getLsbD_or, getLsbD_flagBit, getLsbD_iopl]
  simp

/-- The flags of `new` where `m` has a bit set, those of `old` elsewhere. -/
def Eflags.blend (old new : Eflags) (m : W32) : Eflags where
  cf := if bit m 0 then new.cf else old.cf
  pf := if bit m 2 then new.pf else old.pf
  af := if bit m 4 then new.af else old.af
  zf := if bit m 6 then new.zf else old.zf
  sf := if bit m 7 then new.sf else old.sf
  tf := if bit m 8 then new.tf else old.tf
  if_ := if bit m 9 then new.if_ else old.if_
  df := if bit m 10 then new.df else old.df
  of := if bit m 11 then new.of else old.of
  iopl := (old.iopl &&& ~~~(m.extractLsb' 12 2)) ||| (new.iopl &&& m.extractLsb' 12 2)
  nt := if bit m 14 then new.nt else old.nt
  rf := if bit m 16 then new.rf else old.rf
  vm := if bit m 17 then new.vm else old.vm
  ac := if bit m 18 then new.ac else old.ac
  vif := if bit m 19 then new.vif else old.vif
  vip := if bit m 20 then new.vip else old.vip
  id := if bit m 21 then new.id else old.id

theorem bit_select (a b m : W32) {k : Nat} (hk : k < 32) :
    bit ((a &&& ~~~m) ||| (b &&& m)) k = if bit m k then bit b k else bit a k := by
  simp only [bit, BitVec.getLsbD_or, BitVec.getLsbD_and, BitVec.getLsbD_not, hk, decide_true, Bool.true_and]
  cases m.getLsbD k <;> simp

theorem Eflags.ofBits_select (a b m : W32) :
    Eflags.ofBits ((a &&& ~~~m) ||| (b &&& m)) = (Eflags.ofBits a).blend (.ofBits b) m := by
  have level : ((a &&& ~~~m) ||| (b &&& m)).extractLsb' 12 2
      = (a.extractLsb' 12 2 &&& ~~~(m.extractLsb' 12 2)) ||| (b.extractLsb' 12 2 &&& m.extractLsb' 12 2) := by
    ext i hi
    simp [show 12 + i < 32 by omega]
  unfold Eflags.ofBits Eflags.blend
  rw [level]
  simp (disch := decide) only [bit_select]

/-- What POPF and IRET take from an image, field by field. -/
theorem Eflags.merge_eq_blend (old new : Eflags) (m : W32) : old.merge new m = old.blend new m := by
  unfold Eflags.merge
  rw [Eflags.ofBits_select, Eflags.ofBits_toBits, Eflags.ofBits_toBits]

/-! The flags that POPF writes. -/

theorem popfMask_fields (c : Cpu) (osz : OpSize) :
    (∀ k ∈ [0, 2, 4, 6, 7, 8, 10, 11, 14], bit (popfMask c osz) k = true)
    ∧ (∀ k ∈ [16, 17, 19, 20], bit (popfMask c osz) k = false)
    ∧ bit (popfMask c osz) 9 = c.ifAllowed
    ∧ (popfMask c osz).extractLsb' 12 2 = (if !c.pe || c.cpl == 0#2 then 3#2 else 0#2)
    ∧ (∀ k ∈ [18, 21], bit (popfMask c osz) k = decide (osz = .w32)) := by
  unfold popfMask
  generalize c.ifAllowed = a
  generalize (!c.pe || c.cpl == 0#2) = q
  revert a q
  cases osz <;> decide

theorem popfFlags_fields (c : Cpu) (osz : OpSize) (img : W32) :
    let f := popfFlags c osz img
    let i : Eflags := .ofBits img
    f.vm = c.fl.vm ∧ f.vif = c.fl.vif ∧ f.vip = c.fl.vip
      ∧ f.iopl = (if c.pe = false ∨ c.cpl = 0#2 then i.iopl else c.fl.iopl)
      ∧ f.if_ = (if c.pe = false ∨ c.cpl.toNat ≤ c.fl.iopl.toNat then i.if_ else c.fl.if_)
      ∧ f.cf = i.cf ∧ f.pf = i.pf ∧ f.af = i.af ∧ f.zf = i.zf ∧ f.sf = i.sf ∧ f.tf = i.tf ∧ f.df = i.df
      ∧ f.of = i.of ∧ f.nt = i.nt
      ∧ (osz = .w16 → f.ac = c.fl.ac ∧ f.id = c.fl.id ∧ f.rf = c.fl.rf)
      ∧ (osz = .w32 → f.ac = i.ac ∧ f.id = i.id ∧ f.rf = false) := by
  obtain ⟨set, clear, hif, hiopl, hac⟩ := popfMask_fields c osz
  intro f i
  have level : (c.fl.blend i (popfMask c osz)).iopl = if c.pe = false ∨ c.cpl = 0#2 then i.iopl else c.fl.iopl := by
    have ones (x : BitVec 2) : x &&& 3#2 = x := BitVec.and_allOnes
    show (c.fl.iopl &&& ~~~(_)) ||| (i.iopl &&& _) = _
    rw [hiopl]
    by_cases h : c.pe = false ∨ c.cpl = 0#2
    · rw [if_pos h, if_pos (by simpa using h), ones]
      simp
    · rw [if_neg h, if_neg (by simpa using h)]
      simp [ones]
  have interrupts : (c.fl.blend i (popfMask c osz)).if_
      = if c.pe = false ∨ c.cpl.toNat ≤ c.fl.iopl.toNat then i.if_ else c.fl.if_ := by
    show (if bit _ 9 then _ else _) = _
    rw [hif]
    simp only [Cpu.ifAllowed_iff]
  simp only [List.forall_mem_cons] at set clear hac
  cases osz with
  | w16 =>
    have e : f = c.fl.blend i (popfMask c .w16) := Eflags.merge_eq_blend _ _ _
    rw [e]
    refine ⟨?_, ?_, ?_, level, interrupts, ?_⟩ <;>
      simp only [Eflags.blend, set, clear, hac, if_true, if_false, Bool.false_eq_true, reduceCtorEq, decide_false,
        and_self, forall_const, false_imp_iff]
  | w32 =>
    have e : f = { c.fl.blend i (popfMask c .w32) with rf := false } :=
      congrArg (fun g : Eflags => { g with rf := false }) (Eflags.merge_eq_blend _ _ _)
    rw [e]
    refine ⟨?_, ?_, ?_, level, interrupts, ?_⟩ <;>
      simp only [Eflags.blend, set, clear, hac, if_true, if_false, Bool.false_eq_true, reduceCtorEq, decide_true,
        and_self, forall_const, false_imp_iff]

/-! PUSHF and POPF. -/

theorem pushfOp_plain {osz : OpSize} {s : State} (h : s.cpu.v86Restricted = false) :
    pushfOp osz s = pushW osz (s.cpu.fl.toBits &&& 0x00FCFFFF#32) s := by
  unfold pushfOp
  rw [M.bind_ok (run_getCpu s), run_ite, if_neg (by simp [h])]
  rfl

theorem pushfOp_virtual {s : State} (h : s.cpu.v86Restricted = true) (hv : bit s.cpu.ctl.cr4 0 = true) :
    pushfOp .w16 s = pushW .w16 { s.cpu.fl with if_ := s.cpu.fl.vif, iopl := 3#2 }.toBits s := by
  unfold pushfOp
  rw [M.bind_ok (run_getCpu s), run_ite, if_pos h, run_ite, if_pos (by simp only [hv]; decide)]

/-- Without CR4.VME, or with a 32-bit operand, VIF does not stand in for IF. -/
theorem not_virtual_flags {vme : Bool} {osz : OpSize} (h : vme = false ∨ osz = .w32) :
    ¬(vme && decide (osz = .w16)) = true := by
  obtain rfl | rfl := h
  · exact Bool.false_ne_true
  · simp

theorem pushfOp_refused {osz : OpSize} {s : State} (h : s.cpu.v86Restricted = true)
    (hv : bit s.cpu.ctl.cr4 0 = false ∨ osz = .w32) : pushfOp osz s = .error (.exc (.gp 0#32)) s := by
  unfold pushfOp
  rw [M.bind_ok (run_getCpu s), run_ite, if_pos h, run_ite, if_neg (not_virtual_flags hv)]
  rfl

/-- One push that its description allows. -/
theorem pushW_of_pushes {osz : OpSize} {v : W32} {s : State} {as : List Nat} {c1 : Cpu} {b1 : Bus}
    (h : Pushes osz [.word v] s.cpu s.bus as c1 b1) :
    pushW osz v s = .ok () ⟨c1, b1⟩ ∧ c1 = s.cpu.setEsp (s.cpu.below osz.bytes) := by
  obtain ⟨b2, rest, hrun, -, rfl, rfl⟩ := h.step
  exact ⟨hrun, rfl⟩

section
variable {osz : OpSize} {s : State} {img : W32} {b1 : Bus}

theorem popfOp_plain (h : s.cpu.v86Restricted = false) (hp : peekW osz 0 s = .ok img { s with bus := b1 }) :
    popfOp osz s = .ok ()
      { cpu := { s.cpu.setEsp (s.cpu.stackMove (BitVec.ofNat 32 osz.bytes)) with fl := popfFlags s.cpu osz img }
        bus := b1 } := by
  unfold popfOp
  rw [M.bind_ok (run_getCpu s), run_ite, if_neg (by simp [h]), M.bind_ok hp]
  rfl

theorem popfOp_vme (h : s.cpu.v86Restricted = true) (hv : bit s.cpu.ctl.cr4 0 = true) : popfOp .w16 s = popfVme s := by
  unfold popfOp
  rw [M.bind_ok (run_getCpu s), run_ite, if_pos h, run_ite, if_pos (by simp only [hv]; decide)]

theorem popfOp_refused (h : s.cpu.v86Restricted = true) (hv : bit s.cpu.ctl.cr4 0 = false ∨ osz = .w32) :
    popfOp osz s = .error (.exc (.gp 0#32)) s := by
  unfold popfOp
  rw [M.bind_ok (run_getCpu s), run_ite, if_pos h, run_ite, if_neg (not_virtual_flags hv)]
  rfl

theorem popfVme_ok (hp : peekW .w16 0 s = .ok img { s with bus := b1 }) (ht : bit img 8 = false) :
    popfVme s = .ok ()
      { cpu := { s.cpu.setEsp (s.cpu.stackMove (BitVec.ofNat 32 2)) with
          fl := { s.cpu.fl.merge (.ofBits img) 0x4DD5#32 with vif := bit img 9 } }
        bus := b1 } := by
  unfold popfVme
  rw [M.bind_ok hp, run_ite, if_neg (by rw [ht]; decide)]
  rfl

theorem popfVme_error (hp : peekW .w16 0 s = .ok img { s with bus := b1 }) (ht : bit img 8 = true) :
    popfVme s = .error (.exc (.gp 0#32)) { s with bus := b1 } := by
  unfold popfVme
  rw [M.bind_ok hp, run_ite, if_pos ht]
  rfl

end

/-- Settles O50. -/
theorem pushfPopfFollowPrivilege : Obligations.PushfPopfFollowPrivilege := by
  unfold Obligations.PushfPopfFollowPrivilege
  intro s osz
  refine ⟨fun as c1 b1 => ⟨fun h hp => ?_, fun h hv hp => ?_⟩, fun img b1 hp => ⟨fun h => ?_, fun h hv ho ht => ?_,
    fun h hv ho ht => ?_, ((reading_peekW 0 osz).stored hp).cpu rfl⟩,
    fun h hv => ⟨exec_raises (pushfOp_refused (s := s.past) h hv) rfl rfl,
      exec_raises (popfOp_refused (s := s.past) h hv) rfl rfl⟩, fun c img => popfFlags_fields c osz img⟩
  · obtain ⟨hrun, hc⟩ := pushW_of_pushes (s := s.past) hp
    exact ⟨exec_next ((pushfOp_plain (s := s.past) h).trans hrun), hc, hp.stored.cpu rfl⟩
  · obtain ⟨hrun, -⟩ := pushW_of_pushes (s := s.past) hp
    exact ⟨exec_next ((pushfOp_virtual (s := s.past) h hv).trans hrun), hp.stored.cpu rfl⟩
  · exact exec_next (popfOp_plain (s := s.past) h hp)
  · subst ho
    exact exec_next ((popfOp_vme (s := s.past) h hv).trans (popfVme_ok (s := s.past) hp ht))
  · subst ho
    exact exec_raises ((popfOp_vme (s := s.past) h hv).trans (popfVme_error (s := s.past) hp ht)) rfl rfl

end Sys2Proof.Machine
end

section
namespace Sys2Proof.Machine

/-! Memory-type range registers: what is written is read back, and the other registers stay. -/

theorem toList_getD_setIfInBounds {n : Nat} (xs : Vector W64 n) (i j : Nat) (v : W64) :
    (xs.setIfInBounds i v).toList.getD j 0#64 = if i = j ∧ i < n then v else xs.toList.getD j 0#64 := by
  simp only [Vector.toList_setIfInBounds, List.getD_eq_getElem?_getD, List.getElem?_set, Vector.length_toList]
  by_cases h : i = j
  · subst h
    by_cases hi : i < n
    · simp [hi]
    · simp [hi]
  · simp [h]

/-- The index of a fixed-range register tells its address. -/
theorem mtrrFixIndex_spec {a i : Nat} (h : mtrrFixIndex a = some i) :
    i < 11 ∧ a = [0x250, 0x258, 0x259, 0x268, 0x269, 0x26A, 0x26B, 0x26C, 0x26D, 0x26E, 0x26F].getD i 0 := by
  unfold mtrrFixIndex at h
  split_ifs at h with h0 h1 h2 h3
  · cases h; exact ⟨by decide, h0⟩
  · cases h; exact ⟨by decide, h1⟩
  · cases h; exact ⟨by decide, h2⟩
  · obtain ⟨lo, hi⟩ := h3
    cases h
    interval_cases a <;> exact ⟨by decide, rfl⟩

theorem isMtrr_iff {a : Nat} :
    isMtrr a = true ↔ a = 0x2FF ∨ (0x200 ≤ a ∧ a < 0x210) ∨ ∃ i, mtrrFixIndex a = some i := by
  simp [isMtrr, Option.isSome_iff_exists, or_assoc]

/-- The fixed-range registers are apart from the others. -/
theorem mtrrFixIndex_apart {a i : Nat} (h : mtrrFixIndex a = some i) :
    a ≠ 0x2FF ∧ ¬(0x200 ≤ a ∧ a < 0x210) ∧ ¬(0x400 ≤ a ∧ a < 0x414) := by
  obtain ⟨hi, ha⟩ := mtrrFixIndex_spec h
  interval_cases i <;> subst ha <;> decide

section
variable (m : Msrs) {a : Nat} (v : W64)

theorem Msrs.get_physical (h : 0x200 ≤ a ∧ a < 0x210) : m.get a
    = some ((if a % 2 = 0 then m.mtrrPhysBase else m.mtrrPhysMask).toList.getD ((a - 0x200) / 2) 0#64) := by
  unfold Msrs.get
  split
  case h_22 => rw [if_pos h]
  all_goals omega

theorem Msrs.get_fixed {i : Nat} (h : mtrrFixIndex a = some i) : m.get a = some (m.mtrrFix.toList.getD i 0#64) := by
  obtain ⟨-, range, banks⟩ := mtrrFixIndex_apart h
  unfold Msrs.get
  split
  case h_22 => rw [if_neg range, if_neg banks, h, Option.map_some]
  all_goals simp [mtrrFixIndex] at h

theorem Msrs.set_physicalBase (h : 0x200 ≤ a ∧ a < 0x210) (he : a % 2 = 0) : m.set a v
    = accepts (within v 0xFFFFFF0FF#64 && mtrrTypeOk (v.extractLsb' 0 8))
      { m with mtrrPhysBase := m.mtrrPhysBase.setIfInBounds ((a - 0x200) / 2) v } := by
  unfold Msrs.set
  dsimp only
  split
  case h_18 => rw [if_pos h, if_pos he]
  all_goals omega

theorem Msrs.set_physicalMask (h : 0x200 ≤ a ∧ a < 0x210) (ho : ¬a % 2 = 0) : m.set a v
    = accepts (within v 0xFFFFFF800#64)
      { m with mtrrPhysMask := m.mtrrPhysMask.setIfInBounds ((a - 0x200) / 2) v } := by
  unfold Msrs.set
  dsimp only
  split
  case h_18 => rw [if_pos h, if_neg ho]
  all_goals omega

theorem Msrs.set_fixed {i : Nat} (h : mtrrFixIndex a = some i) : m.set a v
    = accepts (allFields mtrrTypeOk v) { m with mtrrFix := m.mtrrFix.setIfInBounds i v } := by
  obtain ⟨-, range, banks⟩ := mtrrFixIndex_apart h
  unfold Msrs.set
  dsimp only
  split
  case h_18 => rw [if_neg range, if_neg banks, h]
  all_goals simp [mtrrFixIndex] at h

/-- Reading another register looks at none of them. -/
theorem Msrs.get_not_mtrr (h : isMtrr a = false) (x y : Vector W64 8) (z : Vector W64 11) (w : W64) :
    Msrs.get { m with mtrrPhysBase := x, mtrrPhysMask := y, mtrrFix := z, mtrrDefType := w } a = m.get a := by
  unfold Msrs.get
  split
  case h_21 => exact absurd h (by decide)
  case h_22 =>
    have apart : ¬isMtrr a = true := by simp [h]
    rw [isMtrr_iff, not_or, not_or] at apart
    obtain ⟨-, range, fixed⟩ := apart
    have none : mtrrFixIndex a = none := Option.eq_none_iff_forall_ne_some.mpr fun i hi => fixed ⟨i, hi⟩
    rw [if_neg range, if_neg range, none]
    rfl
  all_goals rfl

/-- An address reads as before where its own memory-type range register, if it is one, has not changed. -/
theorem Msrs.get_congr {x y : Vector W64 8} {z : Vector W64 11} {w : W64}
    (hd : a = 0x2FF → w = m.mtrrDefType)
    (hx : 0x200 ≤ a ∧ a < 0x210 → a % 2 = 0 → x.toList.getD ((a - 0x200) / 2) 0#64
      = m.mtrrPhysBase.toList.getD ((a - 0x200) / 2) 0#64)
    (hy : 0x200 ≤ a ∧ a < 0x210 → ¬a % 2 = 0 → y.toList.getD ((a - 0x200) / 2) 0#64
      = m.mtrrPhysMask.toList.getD ((a - 0x200) / 2) 0#64)
    (hz : ∀ i, mtrrFixIndex a = some i → z.toList.getD i 0#64 = m.mtrrFix.toList.getD i 0#64) :
    Msrs.get { m with mtrrPhysBase := x, mtrrPhysMask := y, mtrrFix := z, mtrrDefType := w } a = m.get a := by
  cases h : isMtrr a with
  | false => exact m.get_not_mtrr h x y z w
  | true =>
    obtain rfl | hr | ⟨i, hi⟩ := isMtrr_iff.mp h
    · exact congrArg some (hd rfl)
    · rw [Msrs.get_physical _ hr, Msrs.get_physical _ hr]
      split
      · next he => exact congrArg some (hx hr he)
      · next ho => exact congrArg some (hy hr ho)
    · rw [Msrs.get_fixed _ hi, Msrs.get_fixed _ hi]
      exact congrArg some (hz i hi)

end

theorem accepts_eq_some {ok : Bool} {m m1 : Msrs} (h : accepts ok m = some m1) : m1 = m := by
  unfold accepts at h
  split at h
  · cases h; rfl
  · cases h

/-- After a write of a memory-type range register, `m1` reads as `m` but for that register. -/
theorem Msrs.set_get_mtrr {m m1 : Msrs} {a : Nat} {v : W64} (h : isMtrr a = true) (hs : m.set a v = some m1) :
    m1.get a = some v ∧ ∀ a', a' ≠ a → m1.get a' = m.get a' := by
  obtain rfl | hr | ⟨i, hi⟩ := isMtrr_iff.mp h
  · obtain rfl : m1 = { m with mtrrDefType := v } := accepts_eq_some hs
    exact ⟨rfl, fun a' ha => m.get_congr (fun h => absurd h ha) (fun _ _ => rfl) (fun _ _ => rfl) fun _ _ => rfl⟩
  · have bound : (a - 0x200) / 2 < 8 := by omega
    by_cases he : a % 2 = 0
    · obtain rfl := accepts_eq_some ((m.set_physicalBase v hr he).symm.trans hs)
      refine ⟨?_, fun a' ha => m.get_congr (fun _ => rfl) (fun hr' he' => ?_) (fun _ _ => rfl) fun _ _ => rfl⟩
      · rw [Msrs.get_physical _ hr, if_pos he, toList_getD_setIfInBounds, if_pos ⟨rfl, bound⟩]
      · rw [toList_getD_setIfInBounds, if_neg fun h => by omega]
    · obtain rfl := accepts_eq_some ((m.set_physicalMask v hr he).symm.trans hs)
      refine ⟨?_, fun a' ha => m.get_congr (fun _ => rfl) (fun _ _ => rfl) (fun hr' ho' => ?_) fun _ _ => rfl⟩
      · rw [Msrs.get_physical _ hr, if_neg he, toList_getD_setIfInBounds, if_pos ⟨rfl, bound⟩]
      · rw [toList_getD_setIfInBounds, if_neg fun h => by omega]
  · obtain ⟨bound, ha⟩ := mtrrFixIndex_spec hi
    obtain rfl := accepts_eq_some ((m.set_fixed v hi).symm.trans hs)
    refine ⟨?_, fun a' ha' => m.get_congr (fun _ => rfl) (fun _ _ => rfl) (fun _ _ => rfl) fun j hj => ?_⟩
    · rw [Msrs.get_fixed _ hi, toList_getD_setIfInBounds, if_pos ⟨rfl, bound⟩]
    · rw [toList_getD_setIfInBounds, if_neg]
      rintro ⟨rfl, -⟩
      exact ha' ((mtrrFixIndex_spec hj).2.trans ha.symm)

end Sys2Proof.Machine
end

section
namespace Sys2Proof.Machine

/-! RDMSR and WRMSR. -/

/-- Bits 63:32 of EDX:EAX are EDX. -/
theorem within_low (hi lo : W32) : within (hi ++ lo : W64) 0xFFFFFFFF#64 = true ↔ hi = 0#32 := by
  have mask : (hi ++ lo : W64) &&& ~~~0xFFFFFFFF#64 = hi ++ 0#32 := by
    have ones : (~~~0xFFFFFFFF#64 : W64) = 0xFFFFFFFF#32 ++ 0#32 := by decide
    have keep : hi &&& 0xFFFFFFFF#32 = hi := BitVec.and_allOnes
    rw [ones, BitVec.and_append, keep, BitVec.and_zero]
  unfold within
  rw [mask, beq_iff_eq]
  constructor
  · intro h
    rw [← BitVec.extractLsb'_append_eq_left (a := hi) (b := 0#32), h]
    rfl
  · rintro rfl
    rfl

/-- What RDMSR of 1DBH to 1DEH gives while the records are undefined: a free low half. -/
theorem rdmsrOp_free {s : State} (h : s.cpu.unprivileged = false)
    (hf : s.cpu.msr.traceFree s.cpu.gpr.ecx.toNat = true) : ∃ f, rdmsrOp s = .ok ()
      { cpu := { s.cpu with gpr := { s.cpu.gpr with eax := f, edx := 0#32 } }
        bus := { s.bus with freeCtr := s.bus.freeCtr + 1 } } := by
  have high (x : W32) : (x.setWidth 64).extractLsb' 32 32 = 0#32 := by
    ext i hi
    simp
  refine ⟨((Config.freeWord s.bus.freeCtr).setWidth 64).extractLsb' 0 32, ?_⟩
  unfold rdmsrOp
  rw [M.bind_ok (priv0_ok h), M.bind_ok (run_getCpu s), run_ite, if_pos hf, M.bind_ok (onBus_ok (run_free _ _)),
    ← high (Config.freeWord s.bus.freeCtr)]
  rfl

theorem rdmsrOp_ok {s : State} {x : W64} (h : s.cpu.unprivileged = false)
    (hf : s.cpu.msr.traceFree s.cpu.gpr.ecx.toNat = false) (hx : s.cpu.msr.get s.cpu.gpr.ecx.toNat = some x) :
    rdmsrOp s = .ok () { s with cpu := { s.cpu with
      gpr := { s.cpu.gpr with eax := x.extractLsb' 0 32, edx := x.extractLsb' 32 32 } } } := by
  unfold rdmsrOp
  rw [M.bind_ok (priv0_ok h), M.bind_ok (run_getCpu s), run_ite, if_neg (by simp [hf]), hx]
  rfl

theorem rdmsrOp_error {s : State} (h : s.cpu.unprivileged = false)
    (hf : s.cpu.msr.traceFree s.cpu.gpr.ecx.toNat = false) (hx : s.cpu.msr.get s.cpu.gpr.ecx.toNat = none) :
    rdmsrOp s = .error (.exc (.gp 0#32)) s := by
  unfold rdmsrOp
  rw [M.bind_ok (priv0_ok h), M.bind_ok (run_getCpu s), run_ite, if_neg (by simp [hf]), hx]
  rfl

/-- The value that WRMSR writes. -/
def Cpu.edxEax (c : Cpu) : W64 := c.gpr.edx ++ c.gpr.eax

/-- WRMSR makes the branch records undefined: it clears bit 6 of DEBUGCTL. -/
def Cpu.clearsTrace (c : Cpu) : Prop :=
  c.gpr.ecx.toNat = 0x1D9 ∧ c.msr.debugCtl.getLsbD 6 = true ∧ c.edxEax.getLsbD 6 = false

section
variable {s : State} {m : Msrs}

theorem wrmsrOp_error (h : s.cpu.unprivileged = false) (ha : s.cpu.gpr.ecx.toNat ≠ 0x79)
    (hm : s.cpu.msr.set s.cpu.gpr.ecx.toNat s.cpu.edxEax = none) : wrmsrOp s = .error (.exc (.gp 0#32)) s := by
  unfold Cpu.edxEax at hm
  unfold wrmsrOp
  rw [M.bind_ok (priv0_ok h), M.bind_ok (run_getCpu s), run_ite, if_neg ha, hm]
  rfl

/-- The rest of WRMSR after a register has taken its value. -/
theorem wrmsrOp_set (h : s.cpu.unprivileged = false) (ha : s.cpu.gpr.ecx.toNat ≠ 0x79)
    (hm : s.cpu.msr.set s.cpu.gpr.ecx.toNat s.cpu.edxEax = some m) : wrmsrOp s =
      (do
        if isMtrr s.cpu.gpr.ecx.toNat then onBus (modBus Bus.flushAll)
        if s.cpu.gpr.ecx.toNat = 0x1D9 ∧ s.cpu.msr.debugCtl.getLsbD 6 ∧ !s.cpu.edxEax.getLsbD 6 then freeRecords
        serialize : M Unit) { s with cpu := { s.cpu with msr := m } } := by
  unfold Cpu.edxEax at hm
  unfold wrmsrOp
  rw [M.bind_ok (priv0_ok h), M.bind_ok (run_getCpu s), run_ite, if_neg ha, hm]
  rfl

theorem wrmsrOp_ok (h : s.cpu.unprivileged = false) (ha : s.cpu.gpr.ecx.toNat ≠ 0x79)
    (hm : s.cpu.msr.set s.cpu.gpr.ecx.toNat s.cpu.edxEax = some m) (ht : ¬s.cpu.clearsTrace) : wrmsrOp s = .ok ()
      { cpu := { s.cpu with msr := m }
        bus := (if isMtrr s.cpu.gpr.ecx.toNat then s.bus.flushAll else s.bus).serialized } := by
  have ht' : ¬(s.cpu.gpr.ecx.toNat = 0x1D9 ∧ s.cpu.msr.debugCtl.getLsbD 6 = true
      ∧ (!s.cpu.edxEax.getLsbD 6) = true) := by
    simpa [Cpu.clearsTrace] using ht
  rw [wrmsrOp_set h ha hm]
  dsimp only
  rw [run_ite]
  by_cases hi : isMtrr s.cpu.gpr.ecx.toNat = true
  · rw [if_pos hi, if_pos hi, M.bind_ok (onBus_ok (run_modBus _ _ _)), run_ite, if_neg ht']
    rfl
  · rw [if_neg hi, if_neg hi, run_ite, if_neg ht']
    rfl

theorem freeRecords_run (s : State) : freeRecords s = .ok ()
    { cpu := { s.cpu with msr := { s.cpu.msr with
        lastBranchFrom := Config.freeWord s.bus.freeCtr
        lastBranchTo := Config.freeWord (s.bus.freeCtr + 1)
        lastExcFrom := Config.freeWord (s.bus.freeCtr + 2)
        lastExcTo := Config.freeWord (s.bus.freeCtr + 3) } }
      bus := { s.bus with freeCtr := s.bus.freeCtr + 4 } } := rfl

theorem wrmsrOp_clearsTrace (h : s.cpu.unprivileged = false)
    (hm : s.cpu.msr.set s.cpu.gpr.ecx.toNat s.cpu.edxEax = some m) (ht : s.cpu.clearsTrace) :
    ∃ w x y z, wrmsrOp s = .ok ()
      { cpu := { s.cpu with
          msr := { m with lastBranchFrom := w, lastBranchTo := x, lastExcFrom := y, lastExcTo := z } }
        bus := Bus.serialized { s.bus with freeCtr := s.bus.freeCtr + 4 } } := by
  obtain ⟨ha, h6, hv⟩ := ht
  have mtrr : isMtrr 0x1D9 = false := by decide
  have trace : s.cpu.gpr.ecx.toNat = 0x1D9 ∧ s.cpu.msr.debugCtl.getLsbD 6 = true
      ∧ (!s.cpu.edxEax.getLsbD 6) = true := ⟨ha, h6, by rw [hv]; rfl⟩
  refine ⟨Config.freeWord s.bus.freeCtr, Config.freeWord (s.bus.freeCtr + 1), Config.freeWord (s.bus.freeCtr + 2),
    Config.freeWord (s.bus.freeCtr + 3), ?_⟩
  rw [wrmsrOp_set h (by omega) hm]
  dsimp only
  rw [run_ite, if_neg (by rw [ha, mtrr]; exact Bool.false_ne_true), run_ite, if_pos trace,
    M.bind_ok (freeRecords_run _)]
  rfl

theorem loadUpdate_error {v : W64} (h : within v 0xFFFFFFFF#64 = false) :
    loadUpdate v s = .error (.exc (.gp 0#32)) s := by
  unfold loadUpdate
  rw [run_ite, if_pos (by rw [h]; rfl)]
  rfl

theorem loadUpdate_ok {v : W64} {block : List Byte} {b1 : Bus} (h : within v 0xFFFFFFFF#64 = true)
    (hb : linBytes (v.extractLsb' 0 32 - 48#32) 2048 false s.cpu s.bus = .ok block b1) : loadUpdate v s = .ok ()
      { cpu := { s.cpu with msr.mcuRevision := (updateRevision s.cpu.msr block).getD s.cpu.msr.mcuRevision }
        bus := b1 } := by
  unfold loadUpdate
  rw [run_ite, if_neg (by rw [h]; exact Bool.false_ne_true)]
  dsimp only
  rw [M.bind_ok (onBus_ok hb), M.bind_ok (run_getCpu _)]
  dsimp only
  cases updateRevision s.cpu.msr block <;> rfl

theorem wrmsrOp_update (h : s.cpu.unprivileged = false) (ha : s.cpu.gpr.ecx.toNat = 0x79) :
    wrmsrOp s = (loadUpdate s.cpu.edxEax >>= fun _ => serialize) s := by
  unfold wrmsrOp
  rw [M.bind_ok (priv0_ok h), M.bind_ok (run_getCpu s), run_ite, if_pos ha]
  rfl

end

/-- Settles O47. -/
theorem msrReadsAndWrites : Obligations.MsrReadsAndWrites := by
  unfold Obligations.MsrReadsAndWrites
  refine ⟨fun s h => ⟨fun hf => ⟨fun hx => exec_raises (rdmsrOp_error (s := s.past) h hf hx) rfl rfl,
      fun x hx => exec_next (rdmsrOp_ok (s := s.past) h hf hx)⟩, fun hf => ?_,
    fun ha => ⟨fun hm => exec_raises (wrmsrOp_error (s := s.past) h ha hm) rfl rfl,
      fun m hm ht => exec_next (wrmsrOp_ok (s := s.past) h ha hm ht), fun m hm ha' h6 hv => ?_⟩,
    fun ha => ⟨fun hd => ?_, fun block b1 hd hb => ⟨?_, ?_⟩⟩⟩, fun m m1 a v ha hs => Msrs.set_get_mtrr ha hs⟩
  · obtain ⟨f, hrun⟩ := rdmsrOp_free (s := s.past) h hf
    exact ⟨f, exec_next hrun⟩
  · obtain ⟨w, x, y, z, hrun⟩ := wrmsrOp_clearsTrace (s := s.past) h hm ⟨ha', h6, hv⟩
    exact ⟨w, x, y, z, exec_next hrun⟩
  · have high : within s.past.cpu.edxEax 0xFFFFFFFF#64 = false := by
      rw [Bool.eq_false_iff, Ne, Cpu.edxEax, within_low]
      exact hd
    exact exec_raises ((wrmsrOp_update (s := s.past) h ha).trans (M.bind_error (loadUpdate_error high))) rfl rfl
  · have low : within s.past.cpu.edxEax 0xFFFFFFFF#64 = true := (within_low _ _).mpr hd
    have block : linBytes (s.past.cpu.edxEax.extractLsb' 0 32 - 48#32) 2048 false s.past.cpu s.past.bus
        = .ok block b1 := by
      rw [Cpu.edxEax, BitVec.extractLsb'_append_eq_right]
      exact hb
    exact exec_next ((wrmsrOp_update (s := s.past) h ha).trans (M.bind_ok (loadUpdate_ok low block)))
  · exact ((quiet_linBytes _ _ _).ok hb).cpu rfl

end Sys2Proof.Machine
end

section
namespace Sys2Proof.Machine

/-! PUSH and POP. -/

theorem setWidth_low16 (v : W16) : (v.setWidth 32).extractLsb' 0 16 = v := by
  rw [BitVec.extractLsb'_setWidth_of_le (by decide), BitVec.extractLsb'_eq_self]

/-- A value of the operand size is pushed as the slot that holds it zero-extended. -/
theorem push_eq_slotPush (osz : OpSize) (v : BitVec osz.bits) : push v = (Slot.word (v.setWidth 32)).push osz := by
  cases osz with
  | w16 => exact congrArg push (setWidth_low16 v).symm
  | w32 => exact congrArg push (BitVec.setWidth_eq v).symm

/-- The push of one slot that its description allows. -/
theorem Pushes.slotPush {osz : OpSize} {v : Slot} {s : State} {as : List Nat} {c1 : Cpu} {b1 : Bus}
    (h : Pushes osz [v] s.cpu s.bus as c1 b1) :
    v.push osz s = .ok () ⟨c1, b1⟩ ∧ c1 = s.cpu.setEsp (s.cpu.below osz.bytes) := by
  obtain ⟨b2, rest, hrun, -, rfl, rfl⟩ := h.step
  exact ⟨hrun, rfl⟩

/-- An instruction whose meaning is the push of one slot, `b` being memory by then. -/
theorem exec_slotPush {i : Instr} {x : M Unit} {s : State} {osz : OpSize} {v : Slot} {as : List Nat} {c1 : Cpu}
    {b b1 : Bus} (h : Pushes osz [v] s.past.cpu b as c1 b1) (hx : x s.past = v.push osz { s.past with bus := b })
    (e : ∀ s, exec i s = runInstr x s := by intro; unfold exec; rfl) :
    exec i s = .next ⟨c1, b1⟩ ∧ c1 = s.past.cpu.setEsp (s.cpu.below osz.bytes) ∧ Stored s.cpu as b b1 := by
  obtain ⟨hrun, hc⟩ := Pushes.slotPush (s := { s.past with bus := b }) h
  exact ⟨exec_next (hx.trans hrun) e, hc, h.stored.cpu rfl⟩

/-- A read, and what is stored after it. -/
theorem Reading.then_stored {α : Type} {x : M α} (hx : Reading x) {s t : State} {a : α} {as : List Nat} {b : Bus}
    (hr : x s = .ok a t) (h : Stored s.cpu as t.bus b) : Stored s.cpu as s.bus b := by
  obtain ⟨-, read, wf⟩ := hx.ends s a t hr
  exact .trans wf (read.mono fun _ ha => by cases ha) h

/-- PUSH of a segment register. -/
theorem exec_pushSeg {i : Instr} {osz : OpSize} {sr : Seg}
    (hi : (sr = .es ∧ i = .pushEs osz) ∨ (sr = .cs ∧ i = .pushCs osz) ∨ (sr = .ss ∧ i = .pushSs osz)
      ∨ (sr = .ds ∧ i = .pushDs osz) ∨ (sr = .fs ∧ i = .pushFs osz) ∨ (sr = .gs ∧ i = .pushGs osz)) (s : State) :
    exec i s = runInstr (pushSeg osz sr) s := by
  rcases hi with ⟨rfl, rfl⟩ | ⟨rfl, rfl⟩ | ⟨rfl, rfl⟩ | ⟨rfl, rfl⟩ | ⟨rfl, rfl⟩ | ⟨rfl, rfl⟩ <;> (unfold exec; rfl)

theorem writeRm_mem_ok {osz : OpSize} {m : MemOp} {v : BitVec osz.bits} {s : State} {p : Phys} {b2 : Bus}
    (h : Writes s.cpu s.bus m.segment (m.off s.cpu) osz.bytes v.toNat p b2) :
    writeRm osz (.mem m) v s = .ok () { s with bus := b2 } := by
  cases osz with
  | w16 => exact storeMem_ok (w := 16) h
  | w32 => exact storeMem_ok (w := 32) h

/-- Where the top of the stack is read, POP writes its value after the stack pointer has moved. -/
theorem popTo_eq {osz : OpSize} {v : BitVec osz.bits} {s : State} {b1 : Bus}
    (h : memRead osz.bits .ss (s.cpu.stackOff s.cpu.gpr.esp) osz.bytes s.cpu s.bus = .ok v b1) (rm : Rm) :
    popTo osz rm s = writeRm osz rm v
      { cpu := s.cpu.setEsp (s.cpu.stackMove (BitVec.ofNat 32 osz.bytes)), bus := b1 } := by
  cases osz with
  | w16 => exact M.bind_ok (pop_ok (w := 16) h)
  | w32 => exact M.bind_ok (pop_ok (w := 32) h)

/-- Settles O18: each form pushes one slot, or pops one value. -/
theorem pushAndPopUseStackTop : Obligations.PushAndPopUseStackTop := by
  unfold Obligations.PushAndPopUseStackTop
  refine ⟨fun s as c1 => ⟨fun osz r imm b1 => ⟨fun h => ?_, fun h => ?_⟩, fun imm b1 h => ?_,
    fun osz m v b1 b2 hv h => ?_⟩, fun s osz sr i as c1 b1 hi h => ?_, fun s osz v b1 hv => ⟨fun r => ?_,
    fun m p b2 h => ?_⟩⟩
  · have hx := congrFun (push_eq_slotPush osz (s.cpu.gpr.getV osz r)) s.past
    obtain ⟨hreg, frame⟩ := exec_slotPush (i := .pushR osz r) (x := do push ((← getCpu).gpr.getV osz r)) h hx
    obtain ⟨hrm, -⟩ := exec_slotPush (i := .pushRm osz (.reg r)) (x := do push (← readRm osz (.reg r))) h hx
    exact ⟨hreg, hrm, frame⟩
  · exact exec_slotPush (i := .pushImm8 osz imm) h (congrFun (push_eq_slotPush osz _) _)
  · exact exec_slotPush (i := .pushImm imm) h (congrFun (push_eq_slotPush imm.size _) _)
  · have hx := (M.bind_ok hv).trans (congrFun (push_eq_slotPush osz v) _)
    obtain ⟨hrun, hc, stored⟩ := exec_slotPush (i := .pushRm osz (.mem m)) h hx
    exact ⟨hrun, hc, ((reading_readRm osz (.mem m)).then_stored hv (stored.cpu rfl)).cpu rfl⟩
  · exact exec_slotPush (x := pushSeg osz sr) h rfl (exec_pushSeg hi)
  · have hrun := popTo_eq (s := s.past) hv (.reg r)
    exact ⟨exec_next (x := popTo osz (.reg r)) hrun, exec_next (x := popTo osz (.reg r)) hrun,
      ((quiet_memRead _ _ _ _).ok hv).cpu rfl⟩
  · have hrun := (popTo_eq (s := s.past) hv (.mem m)).trans (writeRm_mem_ok h)
    exact ⟨exec_next hrun, ((quiet_memRead _ _ _ _).then_stored hv (h.stored.cpu rfl)).cpu rfl⟩

end Sys2Proof.Machine
end

section
namespace Sys2Proof.Machine

/-! LoadSeg: its checks and what it stores. -/

/-- The checks on a stack segment, once its descriptor is found: type and privilege, then presence (R560, D124). -/
theorem stackSegment_found {sel : W16} {level : BitVec 2} {bad : W32 → Exc} {c : Cpu} {b b1 : Bus} {d : Desc}
    (hn : selNull sel = false) (hd : fetchDesc sel c b = .ok (some d) b1) :
    stackSegment sel level bad c b =
      if selRpl sel ≠ level ∨ d.writable = false ∨ d.dpl ≠ level then .error (.exc (bad (selCode sel))) b1
      else if d.p = false then .error (.exc (.ss (selCode sel))) b1
      else .ok d b1 := by
  have hright : (selRpl sel != level || !d.writable || d.dpl != level) = true
      ↔ selRpl sel ≠ level ∨ d.writable = false ∨ d.dpl ≠ level := by simp [or_assoc]
  unfold stackSegment
  rw [B.bind_ok (raiseIf_neg hn _ c b), B.bind_ok (fetchOr_some hd)]
  split
  · next h => exact B.bind_error (raiseIf_pos (hright.mpr h) _ c b1)
  · next h =>
    rw [B.bind_ok (raiseIf_neg (Bool.eq_false_iff.mpr (mt hright.mp h)) _ c b1)]
    split
    · next hp => exact B.bind_error (raiseIf_pos (by simp [hp]) _ c b1)
    · next hp => exact B.bind_ok (raiseIf_neg (by simpa using hp) _ c b1)

/-- The checks on a data segment, once its descriptor is found. -/
theorem dataSegment_found {sel : W16} {c : Cpu} {b b1 : Bus} {d : Desc} (hd : fetchDesc sel c b = .ok (some d) b1) :
    dataSegment sel c b =
      if d.readable = false
          ∨ (d.conforming = false ∧ (d.dpl.toNat < c.cpl.toNat ∨ d.dpl.toNat < (selRpl sel).toNat)) then
        .error (.exc (.gp (selCode sel))) b1
      else if d.p = false then .error (.exc (.np (selCode sel))) b1
      else .ok d b1 := by
  have hlevel :
      (!d.conforming && (decide (d.dpl.toNat < c.cpl.toNat) || decide (d.dpl.toNat < (selRpl sel).toNat))) = true ↔
        d.conforming = false ∧ (d.dpl.toNat < c.cpl.toNat ∨ d.dpl.toNat < (selRpl sel).toNat) := by simp
  unfold dataSegment
  rw [B.bind_ok (run_regs c b), B.bind_ok (fetchOr_some hd)]
  cases hr : d.readable with
  | false =>
    rw [if_pos (.inl rfl)]
    exact B.bind_error (raiseIf_pos rfl _ c b1)
  | true =>
    rw [B.bind_ok (raiseIf_neg (q := !true) rfl _ c b1)]
    split
    · next h => exact B.bind_error (raiseIf_pos (hlevel.mpr (h.resolve_left nofun)) _ c b1)
    · next h =>
      rw [B.bind_ok (raiseIf_neg (Bool.eq_false_iff.mpr fun h' => h (.inr (hlevel.mp h'))) _ c b1)]
      split
      · next hp => exact B.bind_error (raiseIf_pos (by simp [hp]) _ c b1)
      · next hp => exact B.bind_ok (raiseIf_neg (by simpa using hp) _ c b1)

/-- The descriptor that a segment register is loaded with in protected mode, after its checks. -/
def segDescriptor (sr : Seg) (sel : W16) (c : Cpu) : B Desc :=
  if sr = .ss then stackSegment sel c.cpl .gp else dataSegment sel

/-- What loading a register with a descriptor does after the checks. -/
def loadChecked (sel : W16) (d : Desc) : B SegReg := do
  setAccessed d
  return d.reg sel

section
variable {sr : Seg} {sel : W16} {c : Cpu} {b : Bus}

theorem loadSegValue_real (h : c.prot = false) : loadSegValue sr sel c b = .ok ((c.seg.get sr).paragraph sel) b := by
  unfold loadSegValue
  rw [B.bind_ok (run_regs c b), h]
  rfl

theorem loadSegValue_null (h : c.prot = true) (hn : selNull sel = true) (hs : sr ≠ .ss) :
    loadSegValue sr sel c b = .ok ((c.seg.get sr).nulled sel) b := by
  unfold loadSegValue
  rw [B.bind_ok (run_regs c b), h, B.run_ite, if_neg (by simp), B.run_ite, if_neg hs, B.run_ite, if_pos hn]
  rfl

theorem loadSegValue_checked (h : c.prot = true) (hs : sr = .ss ∨ selNull sel = false) :
    loadSegValue sr sel c b = (segDescriptor sr sel c >>= loadChecked sel) c b := by
  unfold loadSegValue segDescriptor
  rw [B.bind_ok (run_regs c b), h, B.run_ite, if_neg (by simp), B.run_ite]
  by_cases hss : sr = .ss
  · rw [if_pos hss, if_pos hss]
    rfl
  · rw [if_neg hss, if_neg hss, B.run_ite, if_neg (by simp [hs.resolve_left hss])]
    rfl

theorem segDescriptor_null (hn : selNull sel = true) :
    segDescriptor .ss sel c c b = .error (.exc (.gp 0#32)) b := by
  unfold segDescriptor stackSegment
  rw [if_pos rfl, B.bind_error (raiseIf_pos hn _ c b)]

theorem segDescriptor_beyond {b1 : Bus} (hn : selNull sel = false) (hd : fetchDesc sel c b = .ok none b1) :
    segDescriptor sr sel c c b = .error (.exc (.gp (selCode sel))) b1 := by
  unfold segDescriptor
  split
  · unfold stackSegment
    rw [B.bind_ok (raiseIf_neg hn _ c b), B.bind_error (fetchOr_none hd)]
  · unfold dataSegment
    rw [B.bind_ok (run_regs c b), B.bind_error (fetchOr_none hd)]

/-- The checks of either kind of segment in one. -/
theorem segDescriptor_found {b1 : Bus} {d : Desc} (hn : selNull sel = false)
    (hd : fetchDesc sel c b = .ok (some d) b1) :
    segDescriptor sr sel c c b =
      if (sr = .ss ∧ (selRpl sel ≠ c.cpl ∨ d.writable = false ∨ d.dpl ≠ c.cpl))
          ∨ (sr ≠ .ss ∧ (d.readable = false
            ∨ (d.conforming = false ∧ (d.dpl.toNat < c.cpl.toNat ∨ d.dpl.toNat < (selRpl sel).toNat)))) then
        .error (.exc (.gp (selCode sel))) b1
      else if d.p = false then .error (.exc (if sr = .ss then .ss (selCode sel) else .np (selCode sel))) b1
      else .ok d b1 := by
  unfold segDescriptor
  by_cases hs : sr = .ss
  · simp only [hs, if_true, stackSegment_found hn hd, true_and, ne_eq, not_true_eq_false, false_and, or_false]
  · simp only [hs, if_false, dataSegment_found hd, false_and, ne_eq, not_false_eq_true, true_and, false_or]

/-- Loading a segment register stores the accessed bit of its descriptor at most. -/
theorem loadSegValue_stored {v : SegReg} {b1 : Bus} (h : loadSegValue sr sel c b = .ok v b1) :
    Stored c (segAddrs sr sel c b) b b1 := by
  cases hp : c.prot with
  | false =>
    cases (loadSegValue_real hp).symm.trans h
    exact .refl _ _ _
  | true =>
    by_cases hs : sr = .ss ∨ selNull sel = false
    · obtain ⟨d, b2, hd, h2⟩ := B.bind_eq_ok ((loadSegValue_checked hp hs).symm.trans h)
      obtain ⟨_, b3, ha, h3⟩ := B.bind_eq_ok h2
      cases h3
      have haddrs : segAddrs sr sel c b = accessedAddrs d c b2 := by
        have hq : ¬(!c.prot || (sr != .ss && selNull sel)) = true := by
          rcases hs with hs | hs <;> simp [hp, hs]
        unfold segDescriptor at hd
        unfold segAddrs
        rw [if_neg hq, hd]
      have quiet : Quiet (segDescriptor sr sel c) := .ite (quiet_stackSegment _ _ _) (quiet_dataSegment _)
      rw [haddrs]
      exact quiet.then_stored hd (setAccessed_stored ha)
    · obtain ⟨hss, hn⟩ := not_or.mp hs
      cases (loadSegValue_null hp (by simpa using hn) hss).symm.trans h
      exact .refl _ _ _

end

/-- Settles O36: the clauses are the cases of LoadSeg, the last by the checks on the descriptor found. -/
theorem segmentLoadChecks : Obligations.SegmentLoadChecks := by
  unfold Obligations.SegmentLoadChecks
  intro sr sel c b
  refine ⟨loadSegValue_real, loadSegValue_null, fun hp hn hs => ?_, fun b1 hp hn hd => ?_, fun d b1 hp hn hd => ?_⟩
  · subst hs
    exact (loadSegValue_checked hp (.inl rfl)).trans (B.bind_error (segDescriptor_null hn))
  · exact (loadSegValue_checked hp (.inr hn)).trans (B.bind_error (segDescriptor_beyond hn hd))
  · refine (loadSegValue_checked hp (.inr hn)).trans ?_
    have found := segDescriptor_found (sr := sr) hn hd
    split
    case isTrue hbad => exact B.bind_error (found.trans (if_pos hbad))
    case isFalse hright =>
    replace found := found.trans (if_neg hright)
    split
    case isTrue habsent => exact B.bind_error (found.trans (if_pos habsent))
    case isFalse hpresent =>
    rw [B.bind_ok (found.trans (if_neg hpresent))]
    cases ha : setAccessed d c b1 with
    | ok _ b2 => exact B.bind_ok ha
    | error e b2 => exact B.bind_error ha

/-! MOV, POP and the pointer loads. -/

/-- Loading SS holds off interrupts where the instruction says so. -/
theorem shadowIfSs_ok (sr : Seg) (s : State) :
    shadowIfSs sr s = .ok () { s with cpu := if sr = .ss then s.cpu.shadowSs else s.cpu } := by
  unfold shadowIfSs
  rw [run_ite]
  split <;> rfl

theorem movToSeg_undefined {n : BitVec 3} {rm : Rm} {s t : State} {sel : W16} (hn : n = 1#3 ∨ n = 6#3 ∨ n = 7#3)
    (hr : readSel rm s = .ok sel t) : movToSeg n rm s = .error (.exc .ud) t := by
  unfold movToSeg
  rw [M.bind_ok hr]
  rcases hn with rfl | rfl | rfl <;> rfl

/-- MOV to a segment register other than CS loads it. -/
theorem movToSeg_eq {n : BitVec 3} {rm : Rm} {s t : State} {sr : Seg} {sel : W16} (hn : segOf n = some sr)
    (hcs : sr ≠ .cs) (hr : readSel rm s = .ok sel t) :
    movToSeg n rm s = (loadSeg sr sel >>= fun _ => shadowIfSs sr) t := by
  unfold movToSeg
  rw [M.bind_ok hr, hn]
  cases sr with
  | cs => exact absurd rfl hcs
  | es | ss | ds | fs | gs => rfl

section
variable {sr : Seg} {v : SegReg} {sel : W16} {s : State} {b1 b2 : Bus}

theorem loadSeg_shadow_ok (h : loadSegValue sr sel s.cpu s.bus = .ok v b2) :
    (loadSeg sr sel >>= fun _ => shadowIfSs sr) s = .ok ()
      { cpu := if sr = .ss then (s.cpu.setSeg sr v).shadowSs else s.cpu.setSeg sr v, bus := b2 } := by
  rw [M.bind_ok (loadSeg_ok h), shadowIfSs_ok]

theorem popSeg_ok {osz : OpSize} {w : W32} (hw : peekW osz 0 s = .ok w { s with bus := b1 })
    (hsel : w.extractLsb' 0 16 = sel) (h : loadSegValue sr sel s.cpu b1 = .ok v b2) :
    let c := (s.cpu.setSeg sr v).setEsp ((s.cpu.setSeg sr v).stackMove (BitVec.ofNat 32 osz.bytes))
    popSeg osz sr s = .ok () { cpu := if sr = .ss then c.shadowSs else c, bus := b2 } := by
  unfold popSeg
  rw [M.bind_ok hw, hsel, M.bind_ok (loadSeg_ok (s := { s with bus := b1 }) h), 
    M.bind_ok (x := release osz.bytes) (run_modCpu _ _), shadowIfSs_ok]

theorem loadPointer_ok {osz : OpSize} {r : Gpr} {m : MemOp} {off : BitVec osz.bits}
    (hf : loadFar osz m s = .ok (sel, off) { s with bus := b1 }) (h : loadSegValue sr sel s.cpu b1 = .ok v b2) :
    loadPointer sr osz r m s = .ok ()
      { cpu := { s.cpu.setSeg sr v with gpr := s.cpu.gpr.setV osz r off }, bus := b2 } := by
  unfold loadPointer
  rw [M.bind_ok hf]
  exact M.bind_ok (loadSeg_ok (s := { s with bus := b1 }) h)

end

theorem reading_loadFar (osz : OpSize) (m : MemOp) : Reading (loadFar osz m) :=
  .bind (reading_loadMem _ _ _) fun _ => .bind (reading_loadAt _ _ _) fun _ => .pure _

/-- POP into a segment register. -/
theorem exec_popSeg {i : Instr} {osz : OpSize} {sr : Seg}
    (hi : (sr = .es ∧ i = .popEs osz) ∨ (sr = .ss ∧ i = .popSs osz) ∨ (sr = .ds ∧ i = .popDs osz)
      ∨ (sr = .fs ∧ i = .popFs osz) ∨ (sr = .gs ∧ i = .popGs osz)) (s : State) :
    exec i s = runInstr (popSeg osz sr) s := by
  rcases hi with ⟨rfl, rfl⟩ | ⟨rfl, rfl⟩ | ⟨rfl, rfl⟩ | ⟨rfl, rfl⟩ | ⟨rfl, rfl⟩ <;> (unfold exec; rfl)

/-- LES, LSS, LDS, LFS and LGS. -/
theorem exec_loadPointer {i : Instr} {osz : OpSize} {r : Gpr} {m : MemOp} {sr : Seg}
    (hi : (sr = .es ∧ i = .les osz r m) ∨ (sr = .ss ∧ i = .lss osz r m) ∨ (sr = .ds ∧ i = .lds osz r m)
      ∨ (sr = .fs ∧ i = .lfs osz r m) ∨ (sr = .gs ∧ i = .lgs osz r m)) (s : State) :
    exec i s = runInstr (loadPointer sr osz r m) s := by
  rcases hi with ⟨rfl, rfl⟩ | ⟨rfl, rfl⟩ | ⟨rfl, rfl⟩ | ⟨rfl, rfl⟩ | ⟨rfl, rfl⟩ <;> (unfold exec; rfl)

/-- Settles O35: the operand is read, LoadSeg loads the register, and what follows depends on the form. -/
theorem segmentLoadsSetHiddenPart : Obligations.SegmentLoadsSetHiddenPart := by
  unfold Obligations.SegmentLoadsSetHiddenPart
  refine fun s => ⟨fun sr v sel b1 b2 h => ⟨fun n rm hn hcs hr => ⟨?_, ?_⟩, fun osz w i hi hw hsel => ⟨?_, ?_⟩,
    fun osz r m off i hi hf => ⟨?_, ?_⟩⟩, fun n rm sel b1 hn hr => ⟨?_, ?_⟩⟩
  · exact exec_next ((movToSeg_eq hn hcs hr).trans (loadSeg_shadow_ok (s := { s.past with bus := b1 }) h))
  · exact ((reading_readSel rm).then_stored hr (loadSegValue_stored h)).cpu rfl
  · exact exec_next (popSeg_ok (s := s.past) hw hsel h) (exec_popSeg hi)
  · exact ((reading_peekW 0 osz).then_stored hw (loadSegValue_stored h)).cpu rfl
  · exact exec_next (loadPointer_ok (s := s.past) hf h) (exec_loadPointer hi)
  · exact ((reading_loadFar osz m).then_stored hf (loadSegValue_stored h)).cpu rfl
  · exact exec_raises (movToSeg_undefined hn hr) rfl rfl
  · exact ((reading_readSel rm).stored hr).cpu rfl

end Sys2Proof.Machine
end

section
namespace Sys2Proof.Machine

/-! Writes with an alignment of their own. -/

theorem WritesAt.run {w align : Nat} {c : Cpu} {b : Bus} {seg : Seg} {off : W32} {v : BitVec w} {p : Phys} {b2 : Bus}
    (h : WritesAt c b seg off (w / 8) align v.toNat p b2) : memWrite seg off v align c b = .ok () b2 := by
  obtain ⟨b1, hprep, hwrite⟩ := h
  exact (B.bind_ok hprep).trans hwrite

theorem WritesAt.stored {c : Cpu} {b : Bus} {seg : Seg} {off : W32} {n align v : Nat} {p : Phys} {b2 : Bus}
    (h : WritesAt c b seg off n align v p b2) : Stored c p.addrs b b2 := by
  obtain ⟨b1, hprep, hwrite⟩ := h
  exact (quiet_memPrepare _ _ _ _ _).then_stored hprep
    (B.after_ok hwrite ▸ writePhys_stored (leBytes n v) b1 (memPrepare_leaves hprep))

/-! MOV from a segment register, SLDT and STR. -/

/-- A selector in a register: zero-extended, and cut to the operand size. -/
theorem zero_append_setWidth (v : W16) (osz : OpSize) : (0#16 ++ v : W32).setWidth osz.bits = v.setWidth osz.bits := by
  have e : (0#16 ++ v : W32) = v.setWidth 32 := (BitVec.setWidth_eq_append (by decide)).symm
  rw [e, BitVec.setWidth_setWidth_of_le v (by cases osz <;> decide)]

theorem writeSel_mem {osz : OpSize} {m : MemOp} {v upper : W16} {align : Nat} {s : State} {p : Phys} {b2 : Bus}
    (h : WritesAt s.cpu s.bus m.segment (m.off s.cpu) 2 align v.toNat p b2) :
    writeSel osz (.mem m) v upper align s = .ok () { s with bus := b2 } :=
  onBus_ok (WritesAt.run (w := 16) h)

/-- The instruction copies the selector `sel`. -/
theorem exec_writeSel {s : State} {osz : OpSize} {sel : W16} {align : Nat} {i : Rm → Instr}
    (hi : (∃ n sr, segOf n = some sr ∧ (i = fun rm => .movRmSreg osz rm n) ∧ sel = (s.cpu.seg.get sr).sel ∧ align = 2)
      ∨ (s.cpu.prot = true ∧ (i = fun rm => .sldt osz rm) ∧ sel = s.cpu.ldtr.sel ∧ align = 4)
      ∨ (s.cpu.prot = true ∧ (i = fun rm => .str osz rm) ∧ sel = s.cpu.tr.sel ∧ align = 4)) (rm : Rm) :
    ∃ x, (∀ t, exec (i rm) t = runInstr x t) ∧ x s.past = writeSel osz rm sel 0#16 align s.past := by
  rcases hi with ⟨n, sr, hn, rfl, rfl, rfl⟩ | ⟨hp, rfl, rfl, rfl⟩ | ⟨hp, rfl, rfl, rfl⟩
  · refine ⟨movFromSeg osz rm n, fun t => by unfold exec; rfl, ?_⟩
    unfold movFromSeg
    rw [hn]
    rfl
  · exact ⟨sldtOp osz rm, fun t => by unfold exec; rfl, M.bind_ok (protOnly_ok (s := s.past) hp)⟩
  · exact ⟨strOp osz rm, fun t => by unfold exec; rfl, M.bind_ok (protOnly_ok (s := s.past) hp)⟩

/-- Settles O37: the three instructions end in the same write of a selector. -/
theorem selectorStoresCopySelector : Obligations.SelectorStoresCopySelector := by
  unfold Obligations.SelectorStoresCopySelector
  refine fun s => ⟨fun osz sel align i hi => ⟨fun r => ?_, fun m p b2 h => ?_⟩, fun osz rm n hn => ?_,
    fun osz rm hp => ⟨?_, ?_⟩⟩
  · obtain ⟨x, hx, hrun⟩ := exec_writeSel hi (.reg r)
    refine exec_next (hrun.trans ?_) hx
    rw [writeSel_reg, zero_append_setWidth]
    rfl
  · obtain ⟨x, hx, hrun⟩ := exec_writeSel hi (.mem m)
    exact ⟨exec_next (hrun.trans (writeSel_mem h)) hx, h.stored.cpu rfl⟩
  · have undefined : movFromSeg osz rm n s.past = .error (.exc .ud) s.past := by rcases hn with rfl | rfl <;> rfl
    exact exec_raises undefined rfl rfl
  · exact exec_raises (M.bind_error (protOnly_error (s := s.past) hp)) rfl rfl
  · exact exec_raises (M.bind_error (protOnly_error (s := s.past) hp)) rfl rfl

end Sys2Proof.Machine
end

section
namespace Sys2Proof.Machine

/-! The probe of a selector. -/

/-- What the probe asks of a descriptor (R569). -/
@[reducible] def Desc.Probed (d : Desc) (sel : W16) (types : List Nat) (c : Cpu) : Prop :=
  (d.s = true ∨ d.isSys types = true)
    ∧ (d.conforming = true ∨ (c.cpl.toNat ≤ d.dpl.toNat ∧ (selRpl sel).toNat ≤ d.dpl.toNat))

section
variable {sel : W16} {types : List Nat} {c : Cpu} {b b1 : Bus}

theorem probe_null (hn : selNull sel = true) : probe sel types c b = .ok none b := by
  unfold probe
  rw [B.bind_ok (run_regs c b), B.run_ite, if_pos hn]
  rfl

theorem probe_beyond (hn : selNull sel = false) (hd : fetchDesc sel c b = .ok none b1) :
    probe sel types c b = .ok none b1 := by
  unfold probe
  rw [B.bind_ok (run_regs c b), B.run_ite, if_neg (by simp [hn])]
  exact B.bind_ok hd

theorem probe_error {e : Stop} (hn : selNull sel = false) (hd : fetchDesc sel c b = .error e b1) :
    probe sel types c b = .error e b1 := by
  unfold probe
  rw [B.bind_ok (run_regs c b), B.run_ite, if_neg (by simp [hn])]
  exact B.bind_error hd

/-- The probe of a descriptor found succeeds exactly where its kind and the privilege are right. -/
theorem probe_found {d : Desc} (hn : selNull sel = false) (hd : fetchDesc sel c b = .ok (some d) b1) :
    probe sel types c b = .ok (if d.Probed sel types c then some d else none) b1 := by
  have hkind : (!d.s && !d.isSys types) = true ↔ ¬(d.s = true ∨ d.isSys types = true) := by simp
  have hlevel :
      (!d.conforming && (decide (c.cpl.toNat > d.dpl.toNat) || decide ((selRpl sel).toNat > d.dpl.toNat))) = true ↔
        ¬(d.conforming = true ∨ (c.cpl.toNat ≤ d.dpl.toNat ∧ (selRpl sel).toNat ≤ d.dpl.toNat)) := by
    simp [imp_iff_not_or]
  unfold probe
  rw [B.bind_ok (run_regs c b), B.run_ite, if_neg (by simp [hn]), B.bind_ok hd]
  dsimp only
  by_cases hk : d.s = true ∨ d.isSys types = true
  · rw [B.run_ite, if_neg (mt hkind.mp (not_not.mpr hk)), B.run_ite]
    by_cases hl : d.conforming = true ∨ (c.cpl.toNat ≤ d.dpl.toNat ∧ (selRpl sel).toNat ≤ d.dpl.toNat)
    · rw [if_neg (mt hlevel.mp (not_not.mpr hl)), if_pos ⟨hk, hl⟩]
      rfl
    · rw [if_pos (hlevel.mpr hl), if_neg fun h => hl h.2]
      rfl
  · rw [B.run_ite, if_pos (hkind.mpr hk), if_neg fun h => hk h.1]
    rfl

theorem probe_eq_some {d : Desc} : probe sel types c b = .ok (some d) b1 ↔
    selNull sel = false ∧ fetchDesc sel c b = .ok (some d) b1 ∧ d.Probed sel types c := by
  refine ⟨fun h => ?_, fun ⟨hn, hd, hp⟩ => by rw [probe_found hn hd, if_pos hp]⟩
  cases hn : selNull sel with
  | true => cases (probe_null hn).symm.trans h
  | false =>
    cases hd : fetchDesc sel c b with
    | error e b2 => cases (probe_error hn hd).symm.trans h
    | ok o b2 =>
      cases o with
      | none => cases (probe_beyond hn hd).symm.trans h
      | some d' =>
        have found := (probe_found hn hd).symm.trans h
        split at found
        · next hp =>
          cases found
          exact ⟨rfl, rfl, hp⟩
        · cases found

end

/-! LAR, LSL, VERR and VERW. -/

/-- Where the operand is read in protected mode, and the probe of its value answers `o`. -/
structure Probes (rm : Rm) (types : List Nat) (s : State) (o : Option Desc) (b2 : Bus) : Prop where
  run : probeRm rm types s = .ok o { s with bus := b2 }
  stored : Stored s.cpu [] s.bus b2

theorem Probes.of_finds {rm : Rm} {types : List Nat} {s : State} {sel : W16} {o : Option Desc} {b1 b2 : Bus}
    (hp : s.cpu.prot = true) (hr : readSel rm s = .ok sel { s with bus := b1 })
    (h : probe sel types s.cpu b1 = .ok o b2) : Probes rm types s o b2 := by
  refine ⟨?_, (reading_readSel rm).then_stored hr ((quiet_probe _ _).ok h)⟩
  unfold probeRm
  rw [M.bind_ok (protOnly_ok hp), M.bind_ok hr]
  exact onBus_ok h

section
variable {rm : Rm} {s : State} {b2 : Bus} {osz : OpSize} {r : Gpr}

theorem larOp_none (h : Probes rm [1, 2, 3, 4, 5, 9, 11, 12] s none b2) :
    larOp osz r rm s = .ok () { cpu := { s.cpu with fl.zf := false }, bus := b2 } := by
  unfold larOp
  rw [M.bind_ok h.run]
  rfl

theorem larOp_some {d : Desc} (h : Probes rm [1, 2, 3, 4, 5, 9, 11, 12] s (some d) b2) :
    larOp osz r rm s = .ok ()
      { cpu := { s.cpu with
          fl.zf := true, gpr := s.cpu.gpr.setV osz r ((d.larValue (Config.freeWord b2.freeCtr)).setWidth osz.bits) }
        bus := { b2 with freeCtr := b2.freeCtr + 1 } } := by
  unfold larOp
  rw [M.bind_ok h.run]
  rfl

theorem lslOp_none (h : Probes rm [1, 2, 3, 9, 11] s none b2) :
    lslOp osz r rm s = .ok () { cpu := { s.cpu with fl.zf := false }, bus := b2 } := by
  unfold lslOp
  rw [M.bind_ok h.run]
  rfl

theorem lslOp_some {d : Desc} (h : Probes rm [1, 2, 3, 9, 11] s (some d) b2) :
    lslOp osz r rm s = .ok ()
      { cpu := { s.cpu with fl.zf := true, gpr := s.cpu.gpr.setV osz r (d.limit.setWidth osz.bits) }, bus := b2 } := by
  unfold lslOp
  rw [M.bind_ok h.run]
  rfl

theorem verifyOp_ok {o : Option Desc} (h : Probes rm [] s o b2) (test : Desc → Bool) :
    verifyOp rm test s = .ok () { cpu := { s.cpu with fl.zf := o.any test }, bus := b2 } := by
  unfold verifyOp
  rw [M.bind_ok h.run]
  rfl

end

/-! ARPL. -/

/-- The end of ARPL: the destination is written, if it changes, and ZF says so. -/
def arplEnd (write : W16 → M Unit) (dst src : W16) : M Unit :=
  match arplValue dst src with
  | none => setZf false
  | some v => do
    write v
    setZf true

theorem arplEnd_kept {write : W16 → M Unit} {dst src : W16} (h : (selRpl src).toNat ≤ (selRpl dst).toNat) (s : State) :
    arplEnd write dst src s = .ok () { s with cpu := { s.cpu with fl.zf := false } } := by
  have kept : arplValue dst src = none := if_neg (Nat.not_lt.mpr h)
  unfold arplEnd
  rw [kept]
  rfl

theorem arplEnd_raised {write : W16 → M Unit} {dst src : W16} {s t : State}
    (h : (selRpl dst).toNat < (selRpl src).toNat) (hw : write (dst.extractLsb' 2 14 ++ selRpl src) s = .ok () t) :
    arplEnd write dst src s = .ok () { t with cpu := { t.cpu with fl.zf := true } } := by
  have raised : arplValue dst src = some (dst.extractLsb' 2 14 ++ selRpl src) := if_pos h
  unfold arplEnd
  rw [raised]
  exact M.bind_ok hw

section
variable {s : State} {r : Gpr}

theorem arplOp_reg (hp : s.cpu.prot = true) (x : Gpr) :
    arplOp (.reg x) r s = arplEnd (fun v => modGpr (·.setV .w16 x v))
      (s.cpu.gpr.getV .w16 x) (s.cpu.gpr.getV .w16 r) s := by
  unfold arplOp
  rw [M.bind_ok (protOnly_ok hp), M.bind_ok (run_getCpu s)]
  dsimp only
  rw [M.bind_ok (run_getCpu s)]
  unfold arplEnd
  rfl

theorem arplOp_mem {m : MemOp} {dst : W16} {p : Phys} {b1 : Bus} (hp : s.cpu.prot = true)
    (hr : memReadMayWrite 16 m.segment (m.off s.cpu) s.cpu s.bus = .ok (dst, p) b1) :
    arplOp (.mem m) r s = arplEnd (fun v => onBus (memWriteNow p v)) dst (s.cpu.gpr.getV .w16 r)
      { s with bus := b1 } := by
  unfold arplOp
  rw [M.bind_ok (protOnly_ok hp), M.bind_ok (run_getCpu s)]
  dsimp only
  rw [M.bind_ok (run_getCpu s), M.bind_ok (onBus_ok hr)]
  unfold arplEnd
  rfl

end

/-- Without paging, a place that may be written is mapped by no page entry. -/
theorem memReadMayWrite_leaves {w : Nat} {seg : Seg} {off : W32} {c : Cpu} {b b1 : Bus} {x : BitVec w} {p : Phys}
    (h : memReadMayWrite w seg off c b = .ok (x, p) b1) (hp : c.pg = false) : p.leaves = [] := by
  unfold memReadMayWrite at h
  obtain ⟨q, b2, hcheck, h⟩ := B.bind_eq_ok h
  obtain ⟨_, b3, -, h⟩ := B.bind_eq_ok h
  obtain ⟨_, b4, -, h⟩ := B.bind_eq_ok h
  cases h
  exact memCheck_leaves hcheck hp

theorem MayModify.stored {w : Nat} {c : Cpu} {b b2 : Bus} {seg : Seg} {off : W32} {x y : BitVec w} {p : Phys}
    (h : MayModify c b seg off x y p b2) : Stored c p.addrs b b2 := by
  obtain ⟨b1, hread, hwrite⟩ := h
  obtain ⟨_, b3, hnote, hput⟩ := B.bind_eq_ok hwrite
  have written : Stored c p.addrs b3 b2 := B.after_ok hput ▸ writePhys_stored _ b3 (memReadMayWrite_leaves hread)
  exact (quiet_memReadMayWrite _ _ _).then_stored hread ((quiet_noteAccess _ _ _).then_stored hnote written)

/-- Outside protected mode none of the five is recognized. -/
theorem exec_protOnly_error {i : Instr} {s : State} {osz : OpSize} {r : Gpr} {rm : Rm} (hp : s.cpu.prot = false)
    (hi : i ∈ [Instr.lar osz r rm, .lsl osz r rm, .verr rm, .verw rm, .arpl rm r]) : exec i s = s.raises .ud s.bus := by
  have refused := protOnly_error (s := s.past) hp
  have noProbe (types : List Nat) : probeRm rm types s.past = .error (.exc .ud) s.past := M.bind_error refused
  simp only [List.mem_cons, List.not_mem_nil, or_false] at hi
  rcases hi with rfl | rfl | rfl | rfl | rfl
  · exact exec_raises (x := larOp osz r rm) (M.bind_error (noProbe _)) rfl rfl
  · exact exec_raises (x := lslOp osz r rm) (M.bind_error (noProbe _)) rfl rfl
  · exact exec_raises (x := verifyOp rm (·.readable)) (M.bind_error (noProbe _)) rfl rfl
  · exact exec_raises (x := verifyOp rm (·.writable)) (M.bind_error (noProbe _)) rfl rfl
  · exact exec_raises (x := arplOp rm r) (M.bind_error refused) rfl rfl

/-- Settles O38: each probing instruction ends as its probe does, and ARPL as its two selectors compare. -/
theorem probesAndArplSetZeroFlag : Obligations.ProbesAndArplSetZeroFlag := by
  unfold Obligations.ProbesAndArplSetZeroFlag
  refine ⟨fun s rm sel b1 b2 hp hr => ?_, fun sel types c b b1 d => probe_eq_some,
    fun s osz r rm hp i hi => exec_protOnly_error hp hi, fun s r hp => ⟨fun x => ?_, fun m dst p b1 hr hle => ?_,
    fun m dst p b2 h hlt => ?_⟩⟩
  · have probes {types : List Nat} {o : Option Desc} (h : probe sel types s.past.cpu b1 = .ok o b2) :
        Probes rm types s.past o b2 := .of_finds hp hr h
    refine ⟨fun osz r => ⟨fun h => ⟨exec_next (larOp_none (probes h)), (probes h).stored.cpu rfl⟩,
      fun d h => ⟨⟨_, exec_next (larOp_some (probes h))⟩, (probes h).stored.cpu rfl⟩,
      fun h => ⟨exec_next (lslOp_none (probes h)), (probes h).stored.cpu rfl⟩,
      fun d h => ⟨exec_next (lslOp_some (probes h)), (probes h).stored.cpu rfl⟩⟩,
      fun o h => ⟨exec_next (verifyOp_ok (probes h) _), exec_next (verifyOp_ok (probes h) _),
        (probes h).stored.cpu rfl⟩⟩
  · intro dst
    split
    · next hlt =>
      have raised := arplEnd_raised (write := fun v => modGpr (·.setV .w16 x v)) hlt (run_modGpr _ s.past)
      exact exec_next ((arplOp_reg (s := s.past) hp x).trans raised)
    · next hle => exact exec_next ((arplOp_reg (s := s.past) hp x).trans (arplEnd_kept (Nat.not_lt.mp hle) _))
  · exact ⟨exec_next ((arplOp_mem (s := s.past) hp hr).trans (arplEnd_kept hle _)),
      ((quiet_memReadMayWrite _ _ _).ok hr).cpu rfl⟩
  · have stored := h.stored
    obtain ⟨b1, hr, hw⟩ := h
    have raised := arplEnd_raised (write := fun v => onBus (memWriteNow p v)) hlt
      (onBus_ok (s := { s.past with bus := b1 }) hw)
    exact ⟨exec_next ((arplOp_mem (s := s.past) hp hr).trans raised), stored.cpu rfl⟩

end Sys2Proof.Machine
end

section
namespace Sys2Proof.Machine

/-! CALL and RET near. -/

/-- An offset beyond the limit of the code segment. -/
theorem checkEip_error {off limit : W32} (h : limit.toNat < off.toNat) (c : Cpu) (b : Bus) :
    checkEip off limit c b = .error (.exc (.gp 0#32)) b := raiseIf_pos (by simpa using h) _ c b

/-- No room on the stack. -/
theorem stackRoom_error {n : Nat} {c : Cpu} (h : c.hasRoom n = false) (b : Bus) :
    stackRoom n c b = .error (.exc (.ss 0#32)) b := by
  have full : (!c.hasRoom n) = true := by rw [h]; rfl
  exact (B.bind_ok (run_regs c b)).trans (raiseIf_pos full _ c b)

/-- Pushes move the stack pointer, and change no other register. -/
theorem Pushes.regs {osz : OpSize} {vs : List Slot} {c : Cpu} {b : Bus} {as : List Nat} {c1 : Cpu} {b1 : Bus}
    (h : Pushes osz vs c b as c1 b1) : ∃ esp, c1 = c.setEsp esp := by
  induction vs generalizing c b as with
  | nil => exact ⟨c.gpr.esp, h.2.1⟩
  | cons v vs ih =>
    obtain ⟨p, b2, rest, -, hrest, -⟩ := h
    obtain ⟨esp, hc⟩ := ih hrest
    exact ⟨esp, hc⟩

/-- The first slot that is pushed has room. -/
theorem Pushes.room {osz : OpSize} {v : Slot} {vs : List Slot} {c : Cpu} {b : Bus} {as : List Nat} {c1 : Cpu} {b1 : Bus}
    (h : Pushes osz (v :: vs) c b as c1 b1) : c.hasRoom osz.bytes = true := by
  obtain ⟨p, b2, rest, hw, -⟩ := h
  exact hw.room

section
variable {osz : OpSize} {t : W32} {s : State}

theorem nearCall_ok {as : List Nat} {c1 : Cpu} {b1 : Bus} (h : t.toNat ≤ s.cpu.seg.cs.limit.toNat)
    (hp : Pushes osz [.word s.cpu.eip] s.cpu s.bus as c1 b1) :
    nearCall osz t s = .ok () { cpu := { c1 with eip := s.cpu.ipOf t }, bus := b1.jumped } := by
  obtain ⟨hpush, hc⟩ := Pushes.slotPush hp
  have hip : c1.cutEip t = s.cpu.ipOf t := by rw [Cpu.cutEip_eq, hc]; rfl
  have jump : goNear t ⟨c1, b1⟩ = .ok () { cpu := { c1 with eip := s.cpu.ipOf t }, bus := b1.jumped } := hip ▸ rfl
  unfold nearCall
  rw [M.bind_ok (run_getCpu s), M.bind_ok (onBus_ok (checkEip_ok h)), M.bind_ok (onBus_ok (stackRoom_ok hp.room))]
  exact (M.bind_ok hpush).trans jump

theorem nearCall_outside (h : s.cpu.seg.cs.limit.toNat < t.toNat) : nearCall osz t s = .error (.exc (.gp 0#32)) s :=
  (M.bind_ok (run_getCpu s)).trans (M.bind_error (onBus_error (checkEip_error h _ _)))

theorem nearCall_full (h : t.toNat ≤ s.cpu.seg.cs.limit.toNat) (hr : s.cpu.hasRoom osz.bytes = false) :
    nearCall osz t s = .error (.exc (.ss 0#32)) s := by
  unfold nearCall
  rw [M.bind_ok (run_getCpu s), M.bind_ok (onBus_ok (checkEip_ok h))]
  exact M.bind_error (onBus_error (stackRoom_error hr _))

end

/-- An offset on top of the stack, as far as the operand size reaches. -/
theorem peekW_top {osz : OpSize} {v : BitVec osz.bits} {s : State} {b1 : Bus}
    (h : memRead osz.bits .ss (s.cpu.stackOff s.cpu.gpr.esp) osz.bytes s.cpu s.bus = .ok v b1) :
    peekW osz 0 s = .ok (v.setWidth 32) { s with bus := b1 } := by
  rw [← stackMove_zero] at h
  cases osz with
  | w16 => exact M.bind_ok (peek_ok (w := 16) h)
  | w32 => exact (peek_ok (w := 32) h).trans (by rw [BitVec.setWidth_eq])

theorem retNearOp_ok {osz : OpSize} {t : W32} {s : State} {b1 : Bus}
    (hv : peekW osz 0 s = .ok t { s with bus := b1 }) (h : t.toNat ≤ s.cpu.seg.cs.limit.toNat) (imm : W16) :
    retNearOp osz imm s = .ok ()
      { cpu := { s.cpu.setEsp (s.cpu.stackMove (BitVec.ofNat 32 (osz.bytes + imm.toNat))) with eip := s.cpu.ipOf t }
        bus := b1.jumped } := by
  have jump := nearJump_ok (s := { s with bus := b1 }) h
  rw [Cpu.cutEip_eq] at jump
  exact (M.bind_ok hv).trans (M.bind_ok jump)

theorem retNearOp_outside {osz : OpSize} {t : W32} {s : State} {b1 : Bus}
    (hv : peekW osz 0 s = .ok t { s with bus := b1 }) (h : s.cpu.seg.cs.limit.toNat < t.toNat) (imm : W16) :
    retNearOp osz imm s = .error (.exc (.gp 0#32)) { s with bus := b1 } :=
  (M.bind_ok hv).trans (M.bind_error (nearJump_far (s := { s with bus := b1 }) h))

/-- A near CALL to `t`, memory and devices being `b1` once its operand is read. -/
structure NearCall (s : State) (i : Instr) (osz : OpSize) (t : W32) (b1 : Bus) : Prop where
  run : ∃ x : M Unit, (∀ s, exec i s = runInstr x s) ∧ x s.past = nearCall osz t { s.past with bus := b1 }
  read : Stored s.cpu [] s.bus b1

theorem nearCall_rel (s : State) (rel : ImmV) :
    NearCall s (.callRel rel) rel.size (truncEip rel.size (s.cpu.nextEip + rel.val.signExtend 32)) s.bus :=
  ⟨⟨do nearCall rel.size (relTarget (← getCpu) rel.size (relValue rel)), fun s => by unfold exec; rfl, rfl⟩, .refl _ _ _⟩

theorem nearCall_rm {s : State} {osz : OpSize} {rm : Rm} {v : BitVec osz.bits} {b1 : Bus}
    (h : readRm osz rm s.past = .ok v { s.past with bus := b1 }) : NearCall s (.callRm osz rm) osz (v.setWidth 32) b1 := by
  have target : rmTarget osz rm s.past = .ok (v.setWidth 32) { s.past with bus := b1 } := M.bind_ok h
  exact ⟨⟨do nearCall osz (← rmTarget osz rm), fun s => by unfold exec; rfl, M.bind_ok target⟩,
    ((reading_readRm osz rm).stored h).cpu rfl⟩

/-- Settles O20: a call pushes and jumps, a return jumps and releases. -/
theorem callAndRetNearUseStackTop : Obligations.CallAndRetNearUseStackTop := by
  unfold Obligations.CallAndRetNearUseStackTop
  refine ⟨fun s i osz target b1 hi => ?_, fun s osz imm v b1 hv => ?_⟩
  · have call : NearCall s i osz target b1 := by
      rcases hi with ⟨rel, rfl, rfl, rfl, rfl⟩ | ⟨rm, v, rfl, hv, rfl⟩
      · exact nearCall_rel s rel
      · exact nearCall_rm hv
    obtain ⟨⟨x, hi, hx⟩, read⟩ := call
    refine ⟨fun h as c1 b2 hp => ⟨?_, ?_, ?_⟩, read, fun h => ?_, fun h hr => ?_⟩
    · exact exec_next (hx.trans (nearCall_ok (s := { s.past with bus := b1 }) h hp)) hi
    · exact (Pushes.slotPush (s := { s.past with bus := b1 }) hp).2
    · exact hp.stored.cpu rfl
    · exact exec_raises (hx.trans (nearCall_outside (s := { s.past with bus := b1 }) h)) rfl rfl hi
    · exact exec_raises (hx.trans (nearCall_full (s := { s.past with bus := b1 }) h hr)) rfl rfl hi
  · have hw : (v.setWidth 32).toNat = v.toNat := BitVec.toNat_setWidth_of_le (by cases osz <;> decide)
    have top := peekW_top (s := s.past) hv
    have ret (i : Instr) (imm : W16) (hi : ∀ s, exec i s = runInstr (retNearOp osz imm) s) : exec i s =
        if v.toNat ≤ s.cpu.seg.cs.limit.toNat then
          .next { cpu := { s.past.cpu.setEsp (s.cpu.stackMove (BitVec.ofNat 32 (osz.bytes + imm.toNat))) with
                           eip := s.cpu.ipOf (v.setWidth 32) }
                  bus := b1.jumped }
        else s.raises (.gp 0#32) b1 := by
      rw [← hw]
      split
      · next h => exact exec_next (retNearOp_ok top h imm) hi
      · next h => exact exec_raises (retNearOp_outside top (Nat.not_le.mp h) imm) rfl rfl hi
    exact ⟨ret (.retNear osz) 0#16 fun s => by unfold exec; rfl, ret (.retNearImm osz imm) imm fun s => by unfold exec; rfl,
      ((quiet_memRead _ _ _ _).ok hv).cpu rfl⟩

/-! BOUND. -/

/-- Settles O27: both bounds are read, then the index is compared. -/
theorem boundChecksIndex : Obligations.BoundChecksIndex := by
  unfold Obligations.BoundChecksIndex
  intro s osz r m lo hi b1 b2 hlo hhi
  have hal : osz.bits / 8 = osz.bytes := by cases osz <;> rfl
  rw [← hal] at hlo
  dsimp only
  have compare : boundOp osz r m s.past =
      (if (s.past.cpu.gpr.getV osz r).toInt < lo.toInt ∨ (s.past.cpu.gpr.getV osz r).toInt > hi.toInt then raise .br
        else pure () : M Unit) { s.past with bus := b2 } :=
    (M.bind_ok hlo).trans ((M.bind_ok hhi).trans (M.bind_ok (run_getCpu _)))
  rw [State.past_gpr] at compare
  refine ⟨fun h => ?_, fun h => ?_, ?_⟩
  · exact exec_next (x := boundOp osz r m) (compare.trans (by rw [if_neg (by omega)]; rfl))
  · exact exec_raises (x := boundOp osz r m) (compare.trans (by rw [if_pos h]; rfl)) rfl rfl
  · obtain ⟨-, first, wf⟩ := (reading_loadMem _ _ _).ends _ _ _ hlo
    exact .trans wf (first.cpu rfl) (((reading_loadAt _ _ _).stored hhi).cpu rfl)

end Sys2Proof.Machine
end

section
namespace Sys2Proof.Machine

/-! Far JMP and CALL: the operand, and the ways that FarTransfer takes (R611). -/

/-- The instruction `i` is a far transfer with the operand `osz`, `sel`, `off`, memory and devices being `b1` once it is
read. -/
structure FarInstr (kind : FarKind) (s : State) (osz : OpSize) (sel : W16) (off : W32) (b1 : Bus) (i : Instr) : Prop where
  next : ∀ t, farTransfer kind osz sel off { s.past with bus := b1 } = .ok () t → exec i s = .next t
  read : Stored s.cpu [] s.bus b1
  wf : s.bus.mem.wf = true → b1.mem.wf = true

/-- A pointer in the instruction. -/
theorem farInstr_ptr {kind : FarKind} {s : State} {osz : OpSize} {sel : W16} {off : W32} {p : FarPtr} {i : Instr}
    (hp : farPtrParts p = (osz, sel, off)) (hi : ∀ s, exec i s = runInstr (farPtrOp kind p) s) :
    FarInstr kind s osz sel off s.bus i := by
  refine ⟨fun t h => exec_next ?_ hi, .refl _ _ _, id⟩
  unfold farPtrOp
  rw [hp]
  exact h

/-- A pointer in memory. -/
theorem farInstr_mem {kind : FarKind} {s : State} {osz : OpSize} {sel : W16} {m : MemOp} {v : BitVec osz.bits} {b1 : Bus}
    {i : Instr} (hm : loadFar osz m s.past = .ok (sel, v) { s.past with bus := b1 })
    (hi : ∀ s, exec i s = runInstr (farMemOp kind osz m) s) : FarInstr kind s osz sel (v.setWidth 32) b1 i := by
  obtain ⟨-, read, wf⟩ := (reading_loadFar osz m).ends _ _ _ hm
  exact ⟨fun t h => exec_next ((M.bind_ok hm).trans h) hi, read.cpu rfl, wf⟩

/-- The two far transfers with one operand. -/
theorem farInstr_both {s : State} {osz : OpSize} {sel : W16} {off : W32} {b1 : Bus} {jmp call : Instr}
    (h : (∃ p : FarPtr, jmp = .jmpFarPtr p ∧ call = .callFarPtr p ∧ farPtrParts p = (osz, sel, off) ∧ b1 = s.bus)
      ∨ (∃ (m : MemOp) (v : BitVec osz.bits), jmp = .jmpFarMem osz m ∧ call = .callFarMem osz m
        ∧ loadFar osz m s.past = .ok (sel, v) { s.past with bus := b1 } ∧ off = v.setWidth 32)) :
    FarInstr .jmp s osz sel off b1 jmp ∧ FarInstr .call s osz sel off b1 call := by
  rcases h with ⟨p, rfl, rfl, hp, rfl⟩ | ⟨m, v, rfl, rfl, hm, rfl⟩
  · exact ⟨farInstr_ptr hp fun s => by unfold exec; rfl, farInstr_ptr hp fun s => by unfold exec; rfl⟩
  · exact ⟨farInstr_mem hm fun s => by unfold exec; rfl, farInstr_mem hm fun s => by unfold exec; rfl⟩

/-- What an access after the operand stores. -/
theorem FarInstr.then_stored {kind : FarKind} {s : State} {osz : OpSize} {sel : W16} {off : W32} {b1 b2 : Bus} {i : Instr}
    (h : FarInstr kind s osz sel off b1 i) (hs : Stored s.cpu [] b1 b2) : Stored s.cpu [] s.bus b2 := h.read.trans h.wf hs

/-- CS and the return offset are pushed, then the rest runs. -/
theorem Pushes.pointer {α : Type} {osz : OpSize} {sel : W16} {eip : W32} {s : State} {as : List Nat} {c1 : Cpu} {b1 : Bus}
    (h : Pushes osz [.sel sel, .word eip] s.cpu s.bus as c1 b1) (f : Unit → M α) :
    (pushSel osz sel >>= fun _ => pushW osz eip >>= f) s = f () ⟨c1, b1⟩ := by
  obtain ⟨b2, rest, hsel, hrest⟩ := h.step
  obtain ⟨heip, -⟩ := Pushes.slotPush (s := ⟨_, b2⟩) hrest
  exact (M.bind_ok hsel).trans (M.bind_ok heip)

section
variable {kind : FarKind} {osz : OpSize} {sel : W16} {off : W32} {s : State}

/-! Real-address and virtual-8086 mode. -/

theorem farTransfer_real_jmp (h : s.cpu.prot = false) (ht : (truncEip osz off).toNat ≤ s.cpu.seg.cs.limit.toNat) :
    farTransfer .jmp osz sel off s = .ok ()
      { cpu := { s.cpu with seg.cs := s.cpu.seg.cs.paragraph sel, eip := truncEip osz off }, bus := s.bus.jumped } := by
  unfold farTransfer
  rw [M.bind_ok (run_getCpu s), h]
  exact farReal_ok ht

theorem farTransfer_real_call {as : List Nat} {c1 : Cpu} {b1 : Bus} (h : s.cpu.prot = false)
    (ht : (truncEip osz off).toNat ≤ s.cpu.seg.cs.limit.toNat)
    (hp : Pushes osz [.sel s.cpu.seg.cs.sel, .word s.cpu.eip] s.cpu s.bus as c1 b1) :
    farTransfer .call osz sel off s = .ok ()
      { cpu := { c1 with seg.cs := s.cpu.seg.cs.paragraph sel, eip := truncEip osz off }, bus := b1.jumped } := by
  obtain ⟨esp, hc⟩ := hp.regs
  have hcs : c1.seg.cs = s.cpu.seg.cs := by rw [hc]; rfl
  unfold farTransfer
  rw [M.bind_ok (run_getCpu s), h]
  refine (M.bind_ok (onBus_ok (checkEip_ok ht))).trans ((hp.pointer _).trans ?_)
  rw [← hcs] at ht ⊢
  exact farReal_ok ht

theorem retFarOp_real {v w : W32} {b1 b2 : Bus} (h : s.cpu.prot = false) (hv : peekW osz 0 s = .ok v { s with bus := b1 })
    (hw : peekW osz osz.bytes { s with bus := b1 } = .ok w { s with bus := b2 })
    (ht : (truncEip osz v).toNat ≤ s.cpu.seg.cs.limit.toNat) (imm : W16) :
    retFarOp osz imm s = .ok ()
      { cpu := { s.cpu.setEsp (s.cpu.stackMove (BitVec.ofNat 32 (2 * osz.bytes + imm.toNat))) with
                 seg.cs := s.cpu.seg.cs.paragraph (w.extractLsb' 0 16), eip := truncEip osz v }
        bus := b2.jumped } := by
  unfold retFarOp
  rw [M.bind_ok (run_getCpu s), h]
  refine (M.bind_ok hv).trans ((M.bind_ok hw).trans ((M.bind_ok (farReal_ok ?_)).trans rfl))
  exact ht

/-- Settles O21. -/
theorem farTransfersInRealMode : Obligations.FarTransfersInRealMode := by
  unfold Obligations.FarTransfersInRealMode
  refine ⟨fun s osz sel off b1 jmp call hreal hop => ?_, fun s osz imm off sel b1 b2 hreal hoff hsel => ?_⟩
  · obtain ⟨hjmp, hcall⟩ := farInstr_both hop
    refine ⟨hjmp.read, fun ht => ⟨hjmp.next _ (farTransfer_real_jmp hreal ht), fun as c1 b2 hp =>
      ⟨hcall.next _ (farTransfer_real_call hreal ht hp), hp.stored.cpu rfl⟩⟩⟩
  · intro target ret ht
    have run (imm : W16) := retFarOp_real (s := s.past) hreal hoff hsel ht imm
    obtain ⟨-, first, wf⟩ := (reading_peekW _ _).ends _ _ _ hoff
    exact ⟨exec_next (run 0#16), exec_next (run imm),
      .trans wf (first.cpu rfl) (((reading_peekW _ _).stored hsel).cpu rfl)⟩

end

end Sys2Proof.Machine
end

section
namespace Sys2Proof.Machine

/-! Stores one after the other. -/

/-- From `b` to `b1` only the bytes at `as` are stored to (`Stored`), and memory stays canonical. -/
structure Stores (c : Cpu) (as : List Nat) (b b1 : Bus) : Prop where
  stored : Stored c as b b1
  wf : b.mem.wf = true → b1.mem.wf = true

section
variable {c c' : Cpu} {as bs : List Nat} {b b1 b2 : Bus}

theorem Stores.refl (c : Cpu) (b : Bus) : Stores c [] b b := ⟨.refl _ _ _, id⟩

theorem Stores.trans (h : Stores c as b b1) (h' : Stores c bs b1 b2) : Stores c (as ++ bs) b b2 :=
  ⟨.trans h.wf (h.stored.mono fun _ => List.mem_append_left _) (h'.stored.mono fun _ => List.mem_append_right _),
    h'.wf ∘ h.wf⟩

theorem Stores.cpu (h : Stores c as b b1) (hc : c.ctl.cr0 = c'.ctl.cr0) : Stores c' as b b1 := ⟨h.stored.cpu hc, h.wf⟩

theorem Quiet.stores {α : Type} {x : B α} (hx : Quiet x) {a : α} (h : x c b = .ok a b1) : Stores c [] b b1 :=
  ⟨hx.ok h, hx.wf.ok h⟩

theorem Reading.stores {α : Type} {x : M α} (hx : Reading x) {s t : State} {a : α} (h : x s = .ok a t) :
    Stores s.cpu [] s.bus t.bus := (hx.ends s a t h).2 |> fun ⟨stored, wf⟩ => ⟨stored, wf⟩

theorem Pushes.stores {osz : OpSize} {vs : List Slot} {c1 : Cpu} (h : Pushes osz vs c b as c1 b1) : Stores c as b b1 :=
  ⟨h.stored, h.wf⟩

theorem setAccessed_stores {d : Desc} (h : setAccessed d c b = .ok () b1) : Stores c (accessedAddrs d c b) b b1 :=
  ⟨setAccessed_stored h, keepsWf_setAccessed' h⟩

end

/-! Far JMP and CALL in protected mode. -/

/-- DirectCodeChecks (R615): privilege, then presence. -/
theorem directCode_eq (sel : W16) (d : Desc) (c : Cpu) (b : Bus) :
    directCode sel d c b =
      if (if d.conforming then d.dpl.toNat > c.cpl.toNat
          else (selRpl sel).toNat > c.cpl.toNat ∨ d.dpl ≠ c.cpl) then .error (.exc (.gp (selCode sel))) b
      else if d.p = false then .error (.exc (.np (selCode sel))) b
      else .ok () b := by
  have present : raiseIf (!d.p) (.np (selCode sel)) c b =
      if d.p = false then .error (.exc (.np (selCode sel))) b else .ok () b := by
    rw [run_raiseIf]; cases d.p <;> rfl
  unfold directCode
  rw [B.bind_ok (run_regs c b)]
  cases d.conforming with
  | true =>
    simp only [if_true]
    split
    · next h => exact B.bind_error (raiseIf_pos (by simpa using h) _ c b)
    · next h => exact (B.bind_ok (raiseIf_neg (by simpa using h) _ c b)).trans present
  | false =>
    simp only [Bool.false_eq_true, if_false]
    split
    · next h => exact B.bind_error (raiseIf_pos (by simpa using h) _ c b)
    · next h => exact (B.bind_ok (raiseIf_neg (by simpa using h) _ c b)).trans present

section
variable {kind : FarKind} {osz : OpSize} {sel : W16} {off : W32} {s : State} {d : Desc} {b1 : Bus}

/-- FarTransfer finds a descriptor: what follows depends on its type (R611). -/
theorem farTransfer_found (h : s.cpu.prot = true) (hn : selNull sel = false)
    (hd : fetchDesc sel s.cpu s.bus = .ok (some d) b1) :
    farTransfer kind osz sel off s =
      (if d.isCode then farDirect kind osz sel d off
        else if d.isSys [4, 12] then farGate kind sel d
        else if d.isSys [1, 5, 9] then
          onBus (farTaskSel sel d) >>= fun t => taskSwitch kind.task t s.cpu.fl s.cpu.eip s.cpu.seg.cs.sel
        else raise (.gp (selCode sel)) : M Unit) { s with bus := b1 } := by
  unfold farTransfer
  rw [M.bind_ok (run_getCpu s), h]
  exact (M.bind_ok (onBus_ok (raiseIf_neg hn _ _ _))).trans (M.bind_ok (onBus_ok (fetchOr_some hd)))

/-- A system descriptor is no code segment. -/
theorem Desc.isCode_of_isSys {l : List Nat} (h : d.isSys l = true) : d.isCode = false := by
  simp only [Desc.isSys, Bool.and_eq_true, Bool.not_eq_true'] at h
  simp [Desc.isCode, h.1]

/-! Directly to a code segment. -/

theorem farDirect_jmp {b2 : Bus} (hc : directCode sel d s.cpu s.bus = .ok () s.bus)
    (ht : (truncEip osz off).toNat ≤ d.limit.toNat) (ha : setAccessed d s.cpu s.bus = .ok () b2) :
    farDirect .jmp osz sel d off s = .ok ()
      { cpu := { s.cpu.setCs sel d s.cpu.cpl with eip := d.ipOf (truncEip osz off) }, bus := b2.jumped } := by
  unfold farDirect
  rw [M.bind_ok (run_getCpu s), M.bind_ok (onBus_ok hc)]
  exact (M.bind_ok (onBus_ok (checkEip_ok ht))).trans (loadCs_ok ha)

theorem farDirect_call {as : List Nat} {c1 : Cpu} {b2 b3 : Bus} (hc : directCode sel d s.cpu s.bus = .ok () s.bus)
    (hr : s.cpu.hasRoom (2 * osz.bytes) = true) (ht : (truncEip osz off).toNat ≤ d.limit.toNat)
    (hp : Pushes osz [.sel s.cpu.seg.cs.sel, .word s.cpu.eip] s.cpu s.bus as c1 b2)
    (ha : setAccessed d c1 b2 = .ok () b3) :
    farDirect .call osz sel d off s = .ok ()
      { cpu := { c1.setCs sel d s.cpu.cpl with eip := d.ipOf (truncEip osz off) }, bus := b3.jumped } := by
  unfold farDirect
  rw [M.bind_ok (run_getCpu s), M.bind_ok (onBus_ok hc)]
  refine (M.bind_ok (onBus_ok (stackRoom_ok hr))).trans ((M.bind_ok (onBus_ok (checkEip_ok ht))).trans ?_)
  exact (hp.pointer _).trans (loadCs_ok (s := ⟨c1, b2⟩) ha)

end

/-- Settles O22. -/
theorem farTransfersInProtectedMode : Obligations.FarTransfersInProtectedMode := by
  unfold Obligations.FarTransfersInProtectedMode
  refine ⟨directCode_eq, fun s osz sel off d b1 b2 jmp call hprot hop hn hd hcode hc ht => ?_⟩
  obtain ⟨hjmp, hcall⟩ := farInstr_both hop
  have direct (kind : FarKind) : farTransfer kind osz sel off { s.past with bus := b1 }
      = farDirect kind osz sel d off { s.past with bus := b2 } := by
    rw [farTransfer_found (s := { s.past with bus := b1 }) hprot hn hd, if_pos hcode]
  refine ⟨hjmp.then_stored (((quiet_fetchDesc sel).ok hd).cpu rfl), fun b3 ha => ⟨?_, ?_⟩,
    fun as c1 b3 b4 hr hp ha => ⟨?_, ?_, ?_⟩⟩
  · exact hjmp.next _ ((direct .jmp).trans (farDirect_jmp (s := { s.past with bus := b2 }) hc ht ha))
  · exact (setAccessed_stored ha).cpu rfl
  · exact hcall.next _ ((direct .call).trans (farDirect_call (s := { s.past with bus := b2 }) hc hr ht hp ha))
  · exact hp.stored.cpu rfl
  · obtain ⟨esp, rfl⟩ := hp.regs
    exact (setAccessed_stored ha).cpu rfl

/-! Through a call gate (R622, R624). -/

section
variable {kind : FarKind} {gs : W16} {g d : Desc} {c : Cpu} {b b1 : Bus}

theorem callGateCode_level (h : g.dpl.toNat < c.cpl.toNat ∨ g.dpl.toNat < (selRpl gs).toNat) :
    callGateCode kind gs g c b = .error (.exc (.gp (selCode gs))) b :=
  (B.bind_ok (run_regs c b)).trans (B.bind_error (raiseIf_pos (by simpa using h) _ c b))

theorem callGateCode_absent (hc : c.cpl.toNat ≤ g.dpl.toNat) (hr : (selRpl gs).toNat ≤ g.dpl.toNat) (hp : g.p = false) :
    callGateCode kind gs g c b = .error (.exc (.np (selCode gs))) b :=
  (B.bind_ok (run_regs c b)).trans ((B.bind_ok (raiseIf_neg (by simp [hc, hr]) _ c b)).trans
    (B.bind_error (raiseIf_pos (by rw [hp]; rfl) _ c b)))

/-- The checks on the gate itself pass. -/
theorem callGateCode_present (hc : c.cpl.toNat ≤ g.dpl.toNat) (hr : (selRpl gs).toNat ≤ g.dpl.toNat) (hp : g.p = true) :
    callGateCode kind gs g c b = (do
      raiseIf (selNull g.gateSel) (.gp 0#32)
      let d ← fetchOr g.gateSel (.gp (selCode g.gateSel))
      raiseIf (!d.isCode || d.dpl.toNat > c.cpl.toNat
        || (kind == .jmp && !d.conforming && d.dpl != c.cpl)) (.gp (selCode g.gateSel))
      raiseIf (!d.p) (.np (selCode g.gateSel))
      return d : B Desc) c b :=
  (B.bind_ok (run_regs c b)).trans ((B.bind_ok (raiseIf_neg (by simp [hc, hr]) _ c b)).trans
    (B.bind_ok (raiseIf_neg (by rw [hp]; rfl) _ c b)))

/-- The checks on the code segment that the gate names. -/
theorem callGateCode_found (hc : c.cpl.toNat ≤ g.dpl.toNat) (hr : (selRpl gs).toNat ≤ g.dpl.toNat) (hp : g.p = true)
    (hn : selNull g.gateSel = false) (hd : fetchDesc g.gateSel c b = .ok (some d) b1) :
    callGateCode kind gs g c b =
      if d.isCode = false ∨ c.cpl.toNat < d.dpl.toNat ∨ (kind = .jmp ∧ d.conforming = false ∧ d.dpl ≠ c.cpl) then
        .error (.exc (.gp (selCode g.gateSel))) b1
      else if d.p = false then .error (.exc (.np (selCode g.gateSel))) b1
      else .ok d b1 := by
  have bad : (!d.isCode || decide (d.dpl.toNat > c.cpl.toNat) || (kind == .jmp && !d.conforming && d.dpl != c.cpl)) = true
      ↔ d.isCode = false ∨ c.cpl.toNat < d.dpl.toNat ∨ (kind = .jmp ∧ d.conforming = false ∧ d.dpl ≠ c.cpl) := by
    simp [or_assoc, and_assoc]
  rw [callGateCode_present hc hr hp, B.bind_ok (raiseIf_neg hn _ c b), B.bind_ok (fetchOr_some hd)]
  split
  · next h => exact B.bind_error (raiseIf_pos (bad.mpr h) _ c b1)
  · next h =>
    rw [B.bind_ok (raiseIf_neg (Bool.eq_false_iff.mpr (mt bad.mp h)) _ c b1)]
    split
    · next hp => exact B.bind_error (raiseIf_pos (by simp [hp]) _ c b1)
    · next hp => exact B.bind_ok (raiseIf_neg (by simpa using hp) _ c b1)

end

section
variable {osz : OpSize} {sel : W16} {s : State} {g d : Desc} {b1 : Bus}

/-- JMP through a call gate. -/
theorem farGate_jmp {b2 : Bus} (hg : callGateCode .jmp sel g s.cpu s.bus = .ok d b1)
    (ht : g.gateOff.toNat ≤ d.limit.toNat) (ha : setAccessed d s.cpu b1 = .ok () b2) :
    farGate .jmp sel g s = .ok ()
      { cpu := { s.cpu.setCs g.gateSel d s.cpu.cpl with eip := d.ipOf g.gateOff }, bus := b2.jumped } := by
  unfold farGate
  rw [M.bind_ok (run_getCpu s), M.bind_ok (onBus_ok hg)]
  exact (M.bind_ok (onBus_ok (checkEip_ok ht))).trans (M.bind_ok (loadCs_ok (s := { s with bus := b1 }) ha))

/-- CALL through a call gate at the same level. -/
theorem farGate_call_same {as : List Nat} {c1 : Cpu} {b2 b3 : Bus} (hg : callGateCode .call sel g s.cpu s.bus = .ok d b1)
    (hs : d.conforming = true ∨ s.cpu.cpl.toNat ≤ d.dpl.toNat) (hr : s.cpu.hasRoom (2 * g.gateSize.bytes) = true)
    (ht : g.gateOff.toNat ≤ d.limit.toNat)
    (hp : Pushes g.gateSize [.sel s.cpu.seg.cs.sel, .word s.cpu.eip] s.cpu b1 as c1 b2)
    (ha : setAccessed d c1 b2 = .ok () b3) :
    farGate .call sel g s = .ok ()
      { cpu := Cpu.noteGate16 { c1.setCs g.gateSel d s.cpu.cpl with eip := d.ipOf g.gateOff } s.cpu g d
        bus := b3.jumped } := by
  have same : ¬(FarKind.call = .call ∧ (!d.conforming) = true ∧ d.dpl.toNat < s.cpu.cpl.toNat) := fun ⟨_, hc, hl⟩ => by
    rcases hs with hs | hs
    · rw [hs] at hc; cases hc
    · omega
  unfold farGate
  rw [M.bind_ok (run_getCpu s), M.bind_ok (onBus_ok hg), run_ite, if_neg same]
  refine (M.bind_ok (onBus_ok (s := { s with bus := b1 }) (stackRoom_ok hr))).trans
    ((M.bind_ok (onBus_ok (checkEip_ok ht))).trans ?_)
  exact (hp.pointer (s := { s with bus := b1 }) _).trans (M.bind_ok (loadCs_ok (s := ⟨c1, b2⟩) ha))

/-- Registers after the switch to an inner stack. -/
theorem switchStack_ok {level : BitVec 2} {st : W16 × Desc × W32} {b2 : Bus}
    (h : setAccessed st.2.1 s.cpu s.bus = .ok () b2) :
    switchStack level st s = .ok () ⟨s.cpu.onInnerStack level st, b2⟩ := M.bind_ok (onBus_ok h)

/-- The parameters are copied. -/
theorem copyParams_ok {c0 : Cpu} {n : Nat} {as : List Nat} {c1 : Cpu} (h : CopiesParams c0 osz n s.cpu s.bus as c1 b1) :
    copyParams c0 osz n s = .ok () ⟨c1, b1⟩ := by
  induction n generalizing s as with
  | zero => obtain ⟨-, rfl, rfl⟩ := h; rfl
  | succ n ih =>
    obtain ⟨v, b2, c2, b3, as1, as2, hread, hpush, hrest, -⟩ := h
    have read : onBusAs c0 (readParam c0 osz n) s = .ok v { s with bus := b2 } := by unfold onBusAs; rw [hread]
    exact (M.bind_ok read).trans ((M.bind_ok (Pushes.slotPush (s := { s with bus := b2 }) hpush).1).trans (ih hrest))

/-- Copying parameters moves the stack pointer, and stores at their new places only. -/
theorem CopiesParams.regs {c0 c : Cpu} {b : Bus} {n : Nat} {as : List Nat} {c1 : Cpu}
    (h : CopiesParams c0 osz n c b as c1 b1) : ∃ esp, c1 = c.setEsp esp := by
  induction n generalizing c b as with
  | zero => exact ⟨c.gpr.esp, h.2.1⟩
  | succ n ih =>
    obtain ⟨v, b2, c2, b3, as1, as2, -, hpush, hrest, -⟩ := h
    obtain ⟨esp, rfl⟩ := hpush.regs
    obtain ⟨esp', hc⟩ := ih hrest
    exact ⟨esp', hc⟩

theorem CopiesParams.stores {c0 c : Cpu} {b : Bus} {n : Nat} {as : List Nat} {c1 : Cpu} (hc0 : c0.ctl.cr0 = c.ctl.cr0)
    (h : CopiesParams c0 osz n c b as c1 b1) : Stores c as b b1 := by
  induction n generalizing c b as with
  | zero => obtain ⟨rfl, rfl, rfl⟩ := h; exact .refl _ _
  | succ n ih =>
    obtain ⟨v, b2, c2, b3, as1, as2, hread, hpush, hrest, rfl⟩ := h
    obtain ⟨esp, rfl⟩ := hpush.regs
    have rest : Stores c as2 b3 b1 := (ih (c := c.setEsp esp) hc0 hrest).cpu rfl
    exact (((quiet_readParam c0 osz n).stores hread).cpu hc0).trans (hpush.stores.trans rest)

/-- A call to an inner level pushes on the stack of that level (R624). -/
theorem callInner_ok {as : List Nat} {c1 : Cpu} {b2 : Bus} (ht : g.gateOff.toNat ≤ d.limit.toNat)
    (h : InnerCall g d s.cpu s.bus as c1 b2) :
    callInner g.gateSel d g.gateOff g.gateSize g.gateCount s = .ok ()
      { cpu := { c1.setCs g.gateSel d d.dpl with eip := d.ipOf g.gateOff }, bus := b2.jumped } := by
  obtain ⟨st, b1, b2, b3, b4, b5, c2, c3, as1, as2, as3, hst, hroom, hacc, hold, hparams, hret, hcode, -⟩ := h
  unfold callInner
  rw [M.bind_ok (run_getCpu s), M.bind_ok (onBus_ok hst), M.bind_ok (onBus_ok (s := { s with bus := b1 }) hroom),
    M.bind_ok (onBus_ok (checkEip_ok ht)), M.bind_ok (switchStack_ok (s := { s with bus := b1 }) hacc)]
  refine (hold.pointer (s := ⟨_, b2⟩) _).trans ((M.bind_ok (copyParams_ok (s := ⟨c2, b3⟩) hparams)).trans ?_)
  exact (hret.pointer (s := ⟨c3, b4⟩) _).trans (loadCs_ok (s := ⟨c1, b5⟩) hcode)

theorem InnerCall.stored {c c1 : Cpu} {b b6 : Bus} {as : List Nat} (h : InnerCall g d c b as c1 b6) : Stored c as b b6 := by
  obtain ⟨st, b1, b2, b3, b4, b5, c2, c3, as1, as2, as3, hst, hroom, hacc, hold, hparams, hret, hcode, rfl⟩ := h
  obtain ⟨_, rfl⟩ := hold.regs
  obtain ⟨_, rfl⟩ := hparams.regs
  obtain ⟨_, rfl⟩ := hret.regs
  have params : Stores c as2 b3 b4 :=
    (CopiesParams.stores (c0 := c) (c := (c.onInnerStack d.dpl st).setEsp _) rfl hparams).cpu rfl
  exact (((quiet_innerStack _).stores hst).trans ((quiet_roomOn _ _).stores hroom) |>.trans (setAccessed_stores hacc)
    |>.trans (hold.stores.cpu rfl) |>.trans params |>.trans (hret.stores.cpu rfl)
    |>.trans ((setAccessed_stores hcode).cpu rfl)).stored

/-- Of the registers after the pushes, those that are neither SS, ESP nor CPL are the caller's. -/
theorem InnerCall.regs {c c1 : Cpu} {b b6 : Bus} {as : List Nat} (h : InnerCall g d c b as c1 b6) :
    ∃ st esp, c1 = (c.onInnerStack d.dpl st).setEsp esp := by
  obtain ⟨st, b1, b2, b3, b4, b5, c2, c3, as1, as2, as3, -, -, -, hold, hparams, hret, -⟩ := h
  obtain ⟨_, rfl⟩ := hold.regs
  obtain ⟨_, rfl⟩ := hparams.regs
  obtain ⟨esp, rfl⟩ := hret.regs
  exact ⟨st, esp, rfl⟩

/-- CALL through a call gate to an inner level. -/
theorem farGate_call_inner {as : List Nat} {c1 : Cpu} {b2 : Bus} (hg : callGateCode .call sel g s.cpu s.bus = .ok d b1)
    (hc : d.conforming = false) (hl : d.dpl.toNat < s.cpu.cpl.toNat) (ht : g.gateOff.toNat ≤ d.limit.toNat)
    (h : InnerCall g d s.cpu b1 as c1 b2) :
    farGate .call sel g s = .ok ()
      { cpu := Cpu.noteGate16 { c1.setCs g.gateSel d d.dpl with eip := d.ipOf g.gateOff } s.cpu g d
        bus := b2.jumped } := by
  have inner : FarKind.call = .call ∧ (!d.conforming) = true ∧ d.dpl.toNat < s.cpu.cpl.toNat := ⟨rfl, by rw [hc]; rfl, hl⟩
  unfold farGate
  rw [M.bind_ok (run_getCpu s), M.bind_ok (onBus_ok hg), run_ite, if_pos inner]
  exact M.bind_ok (callInner_ok (s := { s with bus := b1 }) ht h)

end

theorem GateFrame.filter_ne (l : List GateFrame) (f : GateFrame) : l.filter (· != f) = l.filter (· ≠ f) :=
  List.filter_congr fun x _ => by rw [bne, beq_eq_decide, decide_not]

/-- What a call through a gate notes, as a condition on the sizes. -/
theorem Cpu.noteGate16_eq (c old : Cpu) (g d : Desc) : c.noteGate16 old g d =
    let f := c.gateFrame old.seg.cs.sel (old.eip.extractLsb' 0 16)
    { c with hid.gate16 :=
        if g.gateSize = .w16 ∧ old.seg.cs.db = true ∧ bit d.dw2 22 = false then f :: c.hid.gate16.filter (· ≠ f)
        else c.hid.gate16 } := by
  have sizes : (g.gateSize == .w16 && old.seg.cs.db && !bit d.dw2 22) = true
      ↔ g.gateSize = .w16 ∧ old.seg.cs.db = true ∧ bit d.dw2 22 = false := by simp [and_assoc]
  unfold Cpu.noteGate16
  simp only [sizes, GateFrame.filter_ne]

/-- Settles O23. -/
theorem callGatesEnterCode : Obligations.CallGatesEnterCode := by
  unfold Obligations.CallGatesEnterCode
  refine ⟨fun kind gs g d c b b1 => ⟨callGateCode_level, fun hc hr => ⟨callGateCode_absent hc hr, fun hp hn => ?_,
    fun hp hn hd => callGateCode_found hc hr hp hn hd⟩⟩,
    fun s osz sel off g d b1 b2 b3 jmp call hprot hop hn hg hsys ht => ?_⟩
  · rw [callGateCode_present hc hr hp]
    exact B.bind_error (raiseIf_pos hn _ c b)
  · obtain ⟨hjmp, hcall⟩ := farInstr_both hop
    have gate (kind : FarKind) : farTransfer kind osz sel off { s.past with bus := b1 }
        = farGate kind sel g { s.past with bus := b2 } := by
      rw [farTransfer_found (s := { s.past with bus := b1 }) hprot hn hg, if_neg (by simp [Desc.isCode_of_isSys hsys]),
        if_pos hsys]
    have checked {kind : FarKind} (h : callGateCode kind sel g s.past.cpu b2 = .ok d b3) : Stored s.cpu [] s.bus b3 :=
      hjmp.then_stored ((((quiet_fetchDesc sel).stores hg).trans ((quiet_callGateCode _ _ _).stores h)).stored.cpu rfl)
    refine ⟨fun hc => ⟨checked hc, fun b4 ha => ⟨?_, (setAccessed_stored ha).cpu rfl⟩⟩,
      fun hc => ⟨checked hc, fun as c1 b4 b5 hs hr hp ha => ⟨?_, hp.stored.cpu rfl, ?_⟩,
        fun as c1 b4 hconf hl h => ⟨?_, h.stored.cpu rfl⟩⟩⟩
    · exact hjmp.next _ ((gate .jmp).trans (farGate_jmp (s := { s.past with bus := b2 }) hc ht ha))
    · have run := (gate .call).trans (farGate_call_same (s := { s.past with bus := b2 }) hc hs hr ht hp ha)
      obtain ⟨esp, rfl⟩ := hp.regs
      rw [Cpu.noteGate16_eq] at run
      exact hcall.next _ run
    · obtain ⟨esp, rfl⟩ := hp.regs
      exact (setAccessed_stored ha).cpu rfl
    · have run := (gate .call).trans (farGate_call_inner (s := { s.past with bus := b2 }) hc hconf hl ht h)
      obtain ⟨st, esp, rfl⟩ := h.regs
      rw [Cpu.noteGate16_eq] at run
      exact hcall.next _ run

end Sys2Proof.Machine
end

section
namespace Sys2Proof.Machine

/-! Far RET and IRET in protected mode, to the same level. -/

/-- TruncEIP keeps the low 16 bits. -/
theorem truncEip_low (osz : OpSize) (v : W32) : (truncEip osz v).extractLsb' 0 16 = v.extractLsb' 0 16 := by
  cases osz with
  | w16 => exact (BitVec.extractLsb'_and ..).trans (BitVec.and_allOnes ..)
  | w32 => rfl

/-- When ESP[31:16] is open after a far return. -/
theorem looseEsp_iff {c : Cpu} {osz : OpSize} {d : Desc} {f : GateFrame} : (looseEsp c osz d f && c.seg.ss.db) = true
    ↔ osz = .w16 ∧ bit d.dw2 22 = true ∧ f ∈ c.hid.gate16 ∧ c.seg.ss.db = true := by
  simp [looseEsp, and_assoc]

/-- Releasing n bytes of the stack, then opening ESP[31:16] if `loose`. -/
theorem release_loosen {α : Type} (n : Nat) {loose : Bool} {q : Prop} [Decidable q] (hq : loose = true ↔ q) (s : State)
    (f : Unit → M α) :
    (release n >>= fun _ => loosenEsp loose >>= f) s =
      let esp := s.cpu.stackMove (BitVec.ofNat 32 n)
      f () { cpu := s.cpu.setEsp
               (if q then (Config.freeWord s.bus.freeCtr).extractLsb' 16 16 ++ esp.extractLsb' 0 16 else esp)
             bus := { s.bus with freeCtr := s.bus.freeCtr + if q then 1 else 0 } } := by
  by_cases h : q
  · simp only [hq.mpr h, if_pos h]; rfl
  · simp only [Bool.eq_false_iff.mpr (mt hq.mp h), if_neg h]; rfl

section
variable {osz : OpSize} {s : State} {v w : W32} {d : Desc} {b1 b2 b3 : Bus}

/-- Far RET reads its two slots and checks the code segment; the level of its selector decides how it goes on. -/
theorem retFarOp_prot (h : s.cpu.prot = true) (hh : s.cpu.holds 0 (2 * osz.bytes) = true)
    (hv : peekW osz 0 s = .ok v { s with bus := b1 })
    (hw : peekW osz osz.bytes { s with bus := b1 } = .ok w { s with bus := b2 })
    (hc : returnCode (w.extractLsb' 0 16) s.cpu b2 = .ok d b3) (imm : W16) :
    let sel := w.extractLsb' 0 16
    let eip := truncEip osz v
    let f := s.cpu.gateFrame sel (v.extractLsb' 0 16)
    let loose := looseEsp s.cpu osz d f
    retFarOp osz imm s =
      (if selRpl sel = s.cpu.cpl then do
        onBus (checkEip eip d.limit)
        release (2 * osz.bytes + imm.toNat)
        loosenEsp (loose && s.cpu.seg.ss.db)
        loadCs sel d s.cpu.cpl eip
        modCpu (·.dropGate16 f)
      else do
        returnOuter loose osz sel d eip (2 * osz.bytes + imm.toNat) (imm.setWidth 32)
        modCpu (·.dropGate16 f) : M Unit) { s with bus := b3 } := by
  dsimp only
  rw [← truncEip_low osz v]
  unfold retFarOp
  rw [M.bind_ok (run_getCpu s), h]
  exact (M.bind_ok (onBus_ok (stackHolds_ok hh))).trans ((M.bind_ok hv).trans ((M.bind_ok hw).trans
    (M.bind_ok (onBus_ok (s := { s with bus := b2 }) hc))))

/-- What the reads and the checks of a far return store. -/
theorem retFar_read (hv : peekW osz 0 s = .ok v { s with bus := b1 })
    (hw : peekW osz osz.bytes { s with bus := b1 } = .ok w { s with bus := b2 })
    (hc : returnCode (w.extractLsb' 0 16) s.cpu b2 = .ok d b3) : Stores s.cpu [] s.bus b3 :=
  (((reading_peekW _ _).stores hv).trans ((reading_peekW _ _).stores hw)).trans ((quiet_returnCode _).stores hc)

end

/-- Settles O25. -/
theorem farReturnToSameLevel : Obligations.FarReturnToSameLevel := by
  unfold Obligations.FarReturnToSameLevel
  intro s osz imm off selW d b1 b2 b3 hprot hh hoff hsel sel hcode hl ht f loose
  refine ⟨(retFar_read hoff hsel hcode).stored.cpu rfl, fun k i hi => ?_⟩
  intro esp moved b4 b5 ha
  refine ⟨?_, (setAccessed_stored ha).cpu rfl⟩
  have level : selRpl sel = s.past.cpu.cpl := hl
  have run (imm : W16) (hk : k = imm.toNat) : retFarOp osz imm s.past = .ok ()
      { cpu := { moved.setCs sel d s.cpu.cpl with
                  eip := d.ipOf (truncEip osz off), hid.gate16 := s.cpu.hid.gate16.filter (· ≠ f) }
        bus := b5.jumped } := by
    subst hk
    rw [retFarOp_prot (s := s.past) hprot hh hoff hsel hcode, run_ite, if_pos level,
      M.bind_ok (onBus_ok (checkEip_ok ht)), release_loosen _ (looseEsp_iff (c := s.past.cpu)), ← GateFrame.filter_ne]
    exact M.bind_ok (loadCs_ok (s := ⟨moved, b4⟩) ha)
  rcases hi with ⟨hk, rfl⟩ | ⟨hk, rfl⟩
  · exact exec_next (run 0#16 hk)
  · exact exec_next (run imm hk)

/-! IRET. -/

section
variable {osz : OpSize} {s t : State}

/-- The end of IRET: NMIs are enabled before, and what it left is serialized after. -/
theorem iret_prot (h : s.cpu.prot = true) (hnt : s.cpu.fl.nt = false)
    (hx : iretProt osz ⟨s.cpu.nmiEnabled, s.bus⟩ = .ok () t) : iret osz s = .ok ()
      { cpu := { t.cpu with notes.keepRf := t.cpu.notes.keepRf || osz == .w32 }, bus := t.bus.serialized } := by
  obtain ⟨hpe, hvm⟩ := Cpu.prot_iff.mp h
  unfold iret
  rw [M.bind_ok (run_getCpu s), M.bind_ok (run_modCpu _ s), run_ite, if_neg (by simp [hpe]), run_ite, if_neg (by simp [hvm]),
    run_ite, if_neg (by simp [hnt])]
  exact M.bind_ok hx

/-- IRETD keeps the RF of its image. -/
theorem iret_prot_w32 (h : s.cpu.prot = true) (hnt : s.cpu.fl.nt = false)
    (hx : iretProt .w32 ⟨s.cpu.nmiEnabled, s.bus⟩ = .ok () t) : iret .w32 s = .ok ()
      { cpu := { t.cpu with notes.keepRf := true }, bus := t.bus.serialized } := by
  have run := iret_prot h hnt hx
  rwa [beq_self_eq_true, Bool.or_true] at run

variable {v w img : W32} {d : Desc} {b1 b2 b3 b4 : Bus}

/-- IRET reads its three slots. -/
theorem iretProt_read (hh : s.cpu.holds 0 (3 * osz.bytes) = true) (hv : peekW osz 0 s = .ok v { s with bus := b1 })
    (hw : peekW osz osz.bytes { s with bus := b1 } = .ok w { s with bus := b2 })
    (hi : peekW osz (2 * osz.bytes) { s with bus := b2 } = .ok img { s with bus := b3 }) :
    iretProt osz s =
      (if osz = .w32 ∧ bit img 17 ∧ s.cpu.cpl = 0#2 then iretToV86 (truncEip osz v) w img
      else do
        let d ← onBus (returnCode (w.extractLsb' 0 16))
        if selRpl (w.extractLsb' 0 16) = s.cpu.cpl then
          onBus (checkEip (truncEip osz v) d.limit)
          release (3 * osz.bytes)
          loadCs (w.extractLsb' 0 16) d s.cpu.cpl (truncEip osz v)
        else
          onBus (stackHolds 0 (5 * osz.bytes))
          returnOuter (osz == .w16) osz (w.extractLsb' 0 16) d (truncEip osz v) (3 * osz.bytes) 0#32
        modFl fun f => f.merge (.ofBits img) (iretMask s.cpu osz) : M Unit) { s with bus := b3 } := by
  unfold iretProt
  rw [M.bind_ok (run_getCpu s)]
  exact (M.bind_ok (onBus_ok (stackHolds_ok hh))).trans ((M.bind_ok hv).trans ((M.bind_ok hw).trans (M.bind_ok hi)))

/-- What the three reads store. -/
theorem iret_reads {n : Nat} (hv : peekW osz 0 s = .ok v { s with bus := b1 })
    (hw : peekW osz osz.bytes { s with bus := b1 } = .ok w { s with bus := b2 })
    (hi : peekW osz n { s with bus := b2 } = .ok img { s with bus := b3 }) : Stores s.cpu [] s.bus b3 :=
  (((reading_peekW _ _).stores hv).trans ((reading_peekW _ _).stores hw)).trans ((reading_peekW _ _).stores hi)

end

/-- Settles O33. -/
theorem iretToSameLevelAndToVirtual8086 : Obligations.IretToSameLevelAndToVirtual8086 := by
  unfold Obligations.IretToSameLevelAndToVirtual8086
  refine ⟨fun s osz eip csW img d b1 b2 b3 b4 b5 hprot hnt => ?_,
    fun s eip cs img esp ss es ds fs gs b1 b2 b3 b4 b5 b6 b7 b8 b9 hprot hnt hcpl hvm => ?_⟩
  · intro c cs c1 hh hv hw hi hnv hcode hl ht ha
    have virtual : ¬(osz = .w32 ∧ bit img 17 = true ∧ (⟨c, s.bus⟩ : State).cpu.cpl = 0#2) := hnv
    have level : selRpl cs = (⟨c, s.bus⟩ : State).cpu.cpl := hl
    have prot : iretProt osz ⟨c, s.bus⟩ = .ok ()
        { cpu := { c1.setCs cs d s.cpu.cpl with
            fl := s.cpu.fl.merge (.ofBits img) (iretMask s.cpu osz), eip := d.ipOf (truncEip osz eip) }
          bus := b5.jumped } := by
      rw [iretProt_read (s := ⟨c, s.bus⟩) hh hv hw hi, run_ite, if_neg virtual,
        M.bind_ok (onBus_ok (s := ⟨c, b3⟩) hcode), run_ite, if_pos level, M.bind_ok (onBus_ok (checkEip_ok ht))]
      exact M.bind_ok (loadCs_ok (s := ⟨c1, b4⟩) ha)
    refine ⟨exec_next (iret_prot (s := s.past) hprot hnt prot), ?_⟩
    exact (((iret_reads (s := ⟨c, s.bus⟩) hv hw hi).cpu rfl).trans (((quiet_returnCode _).stores hcode).cpu rfl)
      |>.trans ((setAccessed_stores ha).cpu rfl)).stored
  · intro c w hh hh9 h1 h2 h3 h4 h5 h6 h7 h8 h9
    have prot : iretProt .w32 ⟨c, s.bus⟩ = .ok ()
        { cpu := { c with
            fl := .ofBits img, cpl := 3#2, eip := eip &&& 0xFFFF#32, gpr := { s.cpu.gpr with esp := esp }
            seg := { es := w es, cs := w cs, ss := w ss, ds := w ds, fs := w fs, gs := w gs } }
          bus := b9 } := by
      rw [iretProt_read (osz := .w32) (s := ⟨c, s.bus⟩) hh h1 h2 h3, run_ite, if_pos ⟨rfl, hvm, hcpl⟩]
      unfold iretToV86
      exact (M.bind_ok (onBus_ok (s := ⟨c, b3⟩) (stackHolds_ok hh9))).trans ((M.bind_ok h4).trans ((M.bind_ok h5).trans
        ((M.bind_ok h6).trans ((M.bind_ok h7).trans ((M.bind_ok h8).trans (M.bind_ok h9))))))
    refine ⟨exec_next (iret_prot_w32 (s := s.past) hprot hnt prot), ?_⟩
    have next {k : Nat} {v : W32} {b b' : Bus} (h : peekW .w32 k ⟨c, b⟩ = .ok v ⟨c, b'⟩) : Stores c [] b b' :=
      (reading_peekW _ _).stores h
    exact (((iret_reads (s := ⟨c, s.bus⟩) h1 h2 h3).trans (next h4) |>.trans (next h5) |>.trans (next h6) |>.trans (next h7)
      |>.trans (next h8) |>.trans (next h9)).cpu rfl).stored

end Sys2Proof.Machine
end

section
namespace Sys2Proof.Machine

/-! Far RET and IRET in protected mode, to an outer level. -/

/-- A selector is its index and table bit above its RPL. -/
theorem selector_eq (cs : W16) : cs.extractLsb' 2 14 ++ selRpl cs = cs :=
  (BitVec.extractLsb'_append_extractLsb'_eq_extractLsb' rfl).trans BitVec.extractLsb'_eq_self

/-- What is stored shows in memory alone. -/
theorem Stores.mem_eq {c : Cpu} {as : List Nat} {b b1 b2 : Bus} (h : Stores c as b b1) (hm : b2.mem = b1.mem) :
    Stores c as b b2 := by
  obtain ⟨stored, wf⟩ := h
  unfold Stored at stored
  exact ⟨by unfold Stored; rwa [hm], by rwa [hm]⟩

section
variable {loose : Bool} {osz : OpSize} {cs : W16} {d : Desc} {eip : W32} {k : Nat} {extra : W32} {as : List Nat} {t : State}

/-- A possible return to an outer level ends as `OuterReturn` says. -/
theorem returnOuter_ok {s : State} (h : OuterReturn loose osz cs d eip k extra s.cpu s.bus as t) :
    returnOuter loose osz cs d eip k extra s = .ok () t := by
  obtain ⟨hh, ht, esp, ssW, sd, b1, b2, b3, b4, b5, he, hw, hs, ha, hb, -, rfl⟩ := h
  unfold returnOuter
  refine (M.bind_ok (onBus_ok (stackHolds_ok hh))).trans ((M.bind_ok he).trans ((M.bind_ok hw).trans
    ((M.bind_ok (onBus_ok (s := { s with bus := b2 }) hs)).trans ((M.bind_ok (onBus_ok (checkEip_ok ht))).trans
    ((M.bind_ok (loadCs_ok (s := { s with bus := b3 }) ha)).trans
    ((M.bind_ok (onBus_ok (s := ⟨_, b4.jumped⟩) hb)).trans ((M.bind_ok (run_modCpu _ _)).trans
    (M.bind_ok (loosenEsp_ok _ _)))))))))

variable {c : Cpu} {b : Bus}

/-- What a return to an outer level stores. -/
theorem OuterReturn.stores (h : OuterReturn loose osz cs d eip k extra c b as t) : Stores c as b t.bus := by
  obtain ⟨-, -, esp, ssW, sd, b1, b2, b3, b4, b5, he, hw, hs, ha, hb, rfl, rfl⟩ := h
  have reads : Stores c [] b b3 := (((reading_peekW _ _).stores he).trans ((reading_peekW _ _).stores hw)).trans
    ((quiet_stackSegment _ _ _).stores hs)
  have code : Stores c (accessedAddrs d c b3) b3 b4.jumped := (setAccessed_stores ha).mem_eq rfl
  exact (reads.trans (code.trans ((setAccessed_stores hb).cpu rfl))).mem_eq rfl

/-- Where a return to an outer level goes. -/
theorem OuterReturn.target (h : OuterReturn loose osz cs d eip k extra c b as t) :
    t.cpu.cpl = selRpl cs ∧ t.cpu.eip = d.ipOf eip ∧ t.cpu.seg.cs = d.reg cs := by
  obtain ⟨-, -, esp, ssW, sd, b1, b2, b3, b4, b5, he, hw, hs, ha, hb, -, rfl⟩ := h
  refine ⟨?_, ?_, ?_⟩
  · cases loose && bit sd.dw2 22 <;> rfl
  · cases loose && bit sd.dw2 22 <;> rfl
  · refine .trans ?_ (congrArg d.reg (selector_eq cs))
    cases loose && bit sd.dw2 22 <;> rfl

/-- What a return to an outer level leaves for the instruction to set. -/
theorem OuterReturn.keeps (h : OuterReturn loose osz cs d eip k extra c b as t) :
    t.cpu.fl = c.fl ∧ t.cpu.hid = c.hid ∧ t.cpu.notes = c.notes := by
  obtain ⟨-, -, esp, ssW, sd, b1, b2, b3, b4, b5, he, hw, hs, ha, hb, -, rfl⟩ := h
  cases loose && bit sd.dw2 22 <;> exact ⟨rfl, rfl, rfl⟩

/-- A return to an outer level leaves the data segment registers but for NullIfInner. -/
theorem OuterReturn.data (h : OuterReturn loose osz cs d eip k extra c b as t) {sr : Seg}
    (hsr : sr = .es ∨ sr = .ds ∨ sr = .fs ∨ sr = .gs) : t.cpu.seg.get sr = (c.seg.get sr).nullIfInner (selRpl cs) := by
  obtain ⟨-, -, esp, ssW, sd, b1, b2, b3, b4, b5, he, hw, hs, ha, hb, -, rfl⟩ := h
  cases loose && bit sd.dw2 22 <;> rcases hsr with rfl | rfl | rfl | rfl <;> rfl

end

/-- When NullIfInner makes a segment register null. -/
theorem SegReg.nullIfInner_eq (r : SegReg) (level : BitVec 2) :
    r.nullIfInner level =
      if r.unusable = false ∧ (r.isData = true ∨ (r.isCode = true ∧ r.conforming = false)) ∧ r.dpl.toNat < level.toNat
      then r.nulled 0#16 else r := by
  simp only [SegReg.nullIfInner, Bool.and_eq_true, Bool.or_eq_true, Bool.not_eq_true', and_assoc, decide_eq_true_eq]

/-- Settles O26. -/
theorem outerReturnSwitchesStackAndNullsInnerData : Obligations.OuterReturnSwitchesStackAndNullsInnerData := by
  unfold Obligations.OuterReturnSwitchesStackAndNullsInnerData
  intro s osz off csW d b1 b2 b3 hprot cs eip
  refine ⟨fun loose c b k extra as t h => ?_, fun imm k i as t hi hh hoff hcs hcode hl => ?_, fun img b4 as t => ?_⟩
  · obtain ⟨hcpl, heip, hseg⟩ := h.target
    refine ⟨hcpl, heip, hseg, h.stores.stored, fun sr hsr => ?_⟩
    intro r inner
    rw [h.data hsr, SegReg.nullIfInner_eq]
    exact ⟨fun hin => (if_pos hin) ▸ ⟨rfl, rfl⟩, fun hout => if_neg hout⟩
  · intro f loose h
    refine ⟨?_, (retFar_read (s := s.past) hoff hcs hcode).stored.cpu rfl⟩
    have level : ¬selRpl cs = s.past.cpu.cpl := hl
    have frames : t.cpu.hid.gate16 = s.cpu.hid.gate16 := congrArg (·.gate16) h.keeps.2.1
    have run (imm : W16) (hk : k = imm.toNat) : retFarOp osz imm s.past = .ok ()
        { cpu := { t.cpu with hid.gate16 := s.cpu.hid.gate16.filter (· ≠ f) }, bus := t.bus } := by
      subst hk
      rw [retFarOp_prot (s := s.past) hprot hh hoff hcs hcode, run_ite, if_neg level, ← GateFrame.filter_ne, ← frames]
      rw [BitVec.ofNat_toNat] at h
      exact M.bind_ok (returnOuter_ok (s := ⟨s.past.cpu, b3⟩) h)
    rcases hi with ⟨hk, rfl⟩ | ⟨hk, rfl⟩
    · exact exec_next (run 0#16 hk)
    · exact exec_next (run imm hk)
  · intro c hnt hh hh5 hoff hcs himg hnv hcode hl h
    obtain ⟨fl, -, notes⟩ := h.keeps
    have fl : t.cpu.fl = s.cpu.fl := fl
    have keep : t.cpu.notes.keepRf = s.cpu.notes.keepRf := congrArg (·.keepRf) notes
    refine ⟨?_, (((iret_reads (s := ⟨c, s.bus⟩) hoff hcs himg).trans ((quiet_returnCode _).stores hcode)).cpu rfl).stored⟩
    have virtual : ¬(osz = .w32 ∧ bit img 17 = true ∧ (⟨c, s.bus⟩ : State).cpu.cpl = 0#2) := hnv
    have level : ¬selRpl cs = (⟨c, s.bus⟩ : State).cpu.cpl := hl
    have prot : iretProt osz ⟨c, s.bus⟩ = .ok ()
        { t with cpu.fl := t.cpu.fl.merge (.ofBits img) (iretMask s.cpu osz) } := by
      rw [iretProt_read (s := ⟨c, s.bus⟩) hh hoff hcs himg, run_ite, if_neg virtual,
        M.bind_ok (onBus_ok (s := ⟨c, b3⟩) hcode), run_ite, if_neg level]
      exact (M.bind_ok (onBus_ok (s := ⟨c, b4⟩) (stackHolds_ok hh5))).trans (M.bind_ok (returnOuter_ok (s := ⟨c, b4⟩) h))
    rw [← fl, ← keep]
    exact exec_next (iret_prot (s := s.past) hprot hnt prot)

end Sys2Proof.Machine
end

section
namespace Sys2Proof.Machine

/-! Taking an event. -/

section
variable {d : Delivery} {s t : State}

/-- A delivery that its table allows and that raises nothing ends in `afterDelivery`. -/
theorem deliverOnce_ok (hr : d.tableReady s.cpu = true)
    (h : (if s.cpu.pe then deliverProt d else deliverReal d) s = .ok () t) :
    deliverOnce d s = .ok () { cpu := t.cpu.afterDelivery d, bus := t.bus.jumped } := by
  have allowed : ¬(s.cpu.smm.inSmm && !s.cpu.smm.lidtDone && !d.irq) = true := by
    unfold Delivery.tableReady at hr
    revert hr
    cases s.cpu.smm.inSmm <;> cases s.cpu.smm.lidtDone <;> cases d.irq <;> decide
  have marked : markExt d.ext (if s.cpu.pe then deliverProt d else deliverReal d) s = .ok () t := by
    unfold markExt; rw [h]
  unfold deliverOnce
  rw [M.bind_ok (run_getCpu s), if_neg allowed]
  exact M.bind_ok marked

/-- An instruction that raises an exception ends in its delivery. -/
theorem raises_delivered {e : Exc} {b : Bus}
    (h : deliverOnce (.ofExc e false (s.cpu.taking e)) ⟨s.cpu.taking e, b⟩ = .ok () t) :
    s.raises e b = .next t := by
  have delivered : takeException e ⟨s.cpu, b⟩ = .ok () t := by
    refine (M.bind_ok (run_modCpu _ _)).trans ((M.bind_ok (run_getCpu _)).trans ?_)
    refine (deliver_of_not_exc (s := ⟨s.cpu.taking e, b⟩) deliverFuel fun e' t' he => ?_).trans h
    cases h.symm.trans he
  unfold State.raises stopped
  simp only [ite_self, delivered]

/-- A software interrupt, whose mode gives it to the table, ends in its delivery. -/
theorem softInterrupt_delivered {i : Instr} {v : Byte} (hi : SoftInterrupt i s v) (hv : s.cpu.v86 = false)
    (h : deliverOnce (.software v s.past.cpu) s.past = .ok () t) : exec i s = .next t := by
  have soft : softInt v s.past = .ok () t := (M.bind_ok (run_getCpu _)).trans h
  rcases hi with rfl | ⟨rfl, rfl⟩ | ⟨rfl, rfl, hof⟩
  · refine exec_next (x := intOp v) ?_
    unfold intOp
    rw [M.bind_ok (run_getCpu _), run_ite, if_neg (by rw [show s.past.cpu.v86 = false from hv]; decide), soft]
  · exact exec_next (x := softInt 3#8) soft
  · refine exec_next (x := do if (← getCpu).fl.of then softInt 4#8) ?_
    rw [M.bind_ok (run_getCpu _), run_ite, if_pos (c := s.past.cpu.fl.of = true) hof, soft]

end

/-! Delivery in real-address mode. -/

/-- A possible delivery in real-address mode. -/
theorem deliverReal_ok {d : Delivery} {s : State} {as : List Nat} {c1 : Cpu} {entry : Nat} {b2 : Bus}
    (h : RealDelivery d s.cpu s.bus as c1 entry b2) :
    deliverOnce d s = .ok () { cpu := c1.inRealHandler d entry, bus := b2.jumped } := by
  obtain ⟨hpe, hr, hvec, b1, hp, he⟩ := h
  obtain ⟨b3, rest, hfl, hp⟩ := hp.step
  obtain ⟨b4, rest, hcs, hp⟩ := Pushes.step (s := ⟨_, b3⟩) hp
  obtain ⟨heip, -⟩ := Pushes.slotPush (s := ⟨_, b4⟩) hp
  have vector : raiseIf (4 * d.vec.toNat + 3 > s.cpu.idtr.limit.toNat) (.gp (idtCode d.vec)) s.cpu s.bus = .ok () s.bus := by
    rw [run_raiseIf, if_neg (by simp; omega)]
  let e : W32 := BitVec.ofNat 32 entry
  refine deliverOnce_ok (t := ⟨{ c1 with
      fl := { c1.fl with if_ := false, tf := false, rf := false, ac := false }
      seg.cs := c1.seg.cs.paragraph (e.extractLsb' 16 16)
      eip := (e.extractLsb' 0 16).setWidth 32 }, b2⟩) hr ?_
  rw [hpe]
  exact (M.bind_ok (run_getCpu s)).trans ((M.bind_ok (onBus_ok vector)).trans
    ((M.bind_ok hfl).trans ((M.bind_ok hcs).trans ((M.bind_ok heip).trans (M.bind_ok (onBus_ok (s := ⟨c1, b1⟩) he))))))

/-- What a delivery in real-address mode stores. -/
theorem RealDelivery.stored {d : Delivery} {c : Cpu} {b : Bus} {as : List Nat} {c1 : Cpu} {entry : Nat} {b2 : Bus}
    (h : RealDelivery d c b as c1 entry b2) : Stored c as b b2 := by
  obtain ⟨-, -, -, b1, hp, he⟩ := h
  obtain ⟨esp, rfl⟩ := hp.regs
  have all := hp.stores.trans (((quiet_sysRead _ _).stores he).cpu rfl)
  rw [List.append_nil] at all
  exact all.stored

/-- Settles O28. -/
theorem realModeDeliveryUsesTable : Obligations.RealModeDeliveryUsesTable := by
  unfold Obligations.RealModeDeliveryUsesTable
  refine ⟨fun s i v as c1 entry b2 hi => ?_, fun s e b as c1 entry b2 => ?_, fun s hof => ?_⟩
  · intro d h
    have hv : s.cpu.v86 = false := by
      have hpe : s.cpu.pe = false := h.1
      unfold Cpu.v86; rw [hpe]; rfl
    exact ⟨softInterrupt_delivered hi hv (deliverReal_ok h), h.stored.cpu rfl⟩
  · intro d h
    exact ⟨raises_delivered (deliverReal_ok (s := ⟨s.cpu.taking e, b⟩) h), rfl, h.stored.cpu rfl⟩
  · refine exec_next (x := do if (← getCpu).fl.of then softInt 4#8) ?_
    rw [M.bind_ok (run_getCpu _), run_ite, if_neg (by rw [show s.past.cpu.fl.of = false from hof]; decide)]
    rfl

end Sys2Proof.Machine
end

section
namespace Sys2Proof.Machine

/-! What leads to a task switch. -/

section
variable {s t : State}

/-- A far transfer to a TSS or a task gate is a task switch (R632). -/
theorem farTransfer_task {kind : FarKind} {osz : OpSize} {sel tss : W16} {off : W32} {d : Desc} {b2 : Bus}
    (h : s.cpu.prot = true) (hn : selNull sel = false) (hd : fetchDesc sel s.cpu s.bus = .ok (some d) b2)
    (hsys : d.isSys [1, 5, 9] = true) (hsel : farTaskSel sel d s.cpu b2 = .ok tss b2)
    (hx : taskSwitch kind.task tss s.cpu.fl s.cpu.eip s.cpu.seg.cs.sel ⟨s.cpu, b2⟩ = .ok () t) :
    farTransfer kind osz sel off s = .ok () t := by
  have gate : d.isSys [4, 12] = false := by
    simp only [Desc.isSys, Bool.and_eq_true, List.contains_eq_mem, decide_eq_true_eq, List.mem_cons,
      List.not_mem_nil, or_false] at hsys
    simp only [Desc.isSys, Bool.and_eq_false_iff, List.contains_eq_mem, decide_eq_false_iff_not, List.mem_cons,
      List.not_mem_nil, or_false]
    exact .inr (by omega)
  rw [farTransfer_found h hn hd, if_neg (by simp [Desc.isCode_of_isSys hsys]), if_neg (by simp [gate]), if_pos hsys]
  exact (M.bind_ok (onBus_ok (s := ⟨s.cpu, b2⟩) hsel)).trans hx

/-- IRET with NT = 1 is a task switch to the task that the link names (R703). -/
theorem iret_nested {osz : OpSize} {link : Nat} {b1 : Bus} (h : s.cpu.prot = true) (hnt : s.cpu.fl.nt = true)
    (hl : 1 ≤ s.cpu.tr.limit.toNat) (hlink : sysRead s.cpu.tr.base 2 s.cpu.nmiEnabled s.bus = .ok link b1)
    (hx : taskSwitch .iret (BitVec.ofNat 16 link) s.cpu.fl s.cpu.eip s.cpu.seg.cs.sel ⟨s.cpu.nmiEnabled, b1⟩ = .ok () t) :
    iret osz s = .ok ()
      { cpu := { t.cpu with notes.keepRf := t.cpu.notes.keepRf || osz == .w32 }, bus := t.bus.serialized } := by
  obtain ⟨hpe, hvm⟩ := Cpu.prot_iff.mp h
  have holds : tssHolds 2 s.cpu.nmiEnabled s.bus = .ok () s.bus :=
    (B.bind_ok (run_regs _ _)).trans (raiseIf_neg (by
      have : ¬2 > s.cpu.tr.limit.toNat + 1 := by omega
      exact decide_eq_false this) _ _ _)
  unfold iret
  rw [M.bind_ok (run_getCpu s), M.bind_ok (run_modCpu _ s), run_ite, if_neg (by simp [hpe]), run_ite, if_neg (by simp [hvm]),
    run_ite, if_pos hnt]
  exact (M.bind_ok (onBus_ok (s := ⟨s.cpu.nmiEnabled, s.bus⟩) holds)).trans
    ((M.bind_ok (onBus_ok (s := ⟨s.cpu.nmiEnabled, s.bus⟩) hlink)).trans (M.bind_ok hx))

/-- Delivery through a task gate (R914). -/
theorem deliverTask_ok {d : Delivery} {g : Desc} (h : TaskGate d s.cpu s.bus g t) :
    deliverOnce d s = .ok () { cpu := t.cpu.afterDelivery d, bus := t.bus.jumped } := by
  obtain ⟨hpe, hr, hg, b1, t1, hgate, hswitch, hcode⟩ := h
  have code : inNewTask (pushCode (if wideTss t1.cpu.tr.typ then .w32 else .w16) d) t1 = .ok () t := by
    unfold inNewTask; rw [hcode]
  refine deliverOnce_ok hr ?_
  rw [hpe]
  unfold deliverProt
  refine (M.bind_ok (run_getCpu s)).trans ((M.bind_ok (onBus_ok hgate)).trans ?_)
  rw [if_pos hg]
  exact (M.bind_ok (run_getCpu _)).trans ((M.bind_ok hswitch).trans ((M.bind_ok (run_getCpu _)).trans code))

end

end Sys2Proof.Machine
end

section
namespace Sys2Proof.Machine

/-! Accesses of protected mode without paging. -/

/-- Protected mode without paging: bytes lie at their linear addresses. -/
def Cpu.Flat (c : Cpu) : Prop := c.pe = true ∧ c.pg = false

section
variable {c : Cpu} {b b1 : Bus} {la : W32} {n : Nat} {write user : Bool} {p : Phys}

theorem typeOrRefuse_bus {attr : Option PageAttr} {pa : Nat} {t : MemType} (h : typeOrRefuse attr pa c b = .ok t b1) :
    b1 = b := by
  unfold typeOrRefuse at h
  rw [B.bind_ok (run_regs c b)] at h
  cases ht : memType c attr pa with
  | ok v => rw [ht] at h; cases h; rfl
  | error r => rw [ht] at h; cases h

theorem physicalPage_flat (hc : c.Flat) (h : physicalPage la n write user c b = .ok p b1) :
    b1 = b ∧ ∃ ts, p = .identity la n ts := by
  obtain ⟨hpe, hpg⟩ := hc
  have ha : a20 c b la.toNat = la.toNat := by simp [a20, hpe]
  unfold physicalPage at h
  rw [B.bind_ok (run_regs c b), B.bind_ok (run_getBus c b)] at h
  simp only [hpg, Bool.false_eq_true, if_false] at h
  split at h
  · obtain ⟨_, _, hrefuse, -⟩ := B.bind_eq_ok h
    cases hrefuse
  · rw [B.bind_ok (run_getBus c b), ha] at h
    obtain ⟨t, b2, ht, hp⟩ := B.bind_eq_ok h
    cases hp
    exact ⟨typeOrRefuse_bus ht, _, rfl⟩

theorem firstPart_one (la : W32) : firstPart la 1 = 1 := by unfold firstPart; omega

theorem physical_byte (hc : c.Flat) (h : physical la 1 write user c b = .ok p b1) :
    b1 = b ∧ ∃ ts, p = .identity la 1 ts := by
  unfold physical at h
  rw [firstPart_one] at h
  obtain ⟨q, b2, hq, h⟩ := B.bind_eq_ok h
  rw [if_pos rfl] at h
  cases h
  exact physicalPage_flat hc hq

/-- Setting the accessed bit stores to the access-rights byte of the descriptor. -/
theorem setAccessed_flat (hc : c.Flat) {d : Desc} (h : setAccessed d c b = .ok () b1) {a : Nat}
    (ha : a ≠ (d.la + 5#32).toNat) : b1.mem.read a = b.mem.read a := by
  refine (setAccessed_stored h).2 hc.2 a fun hmem => ?_
  unfold accessedAddrs rightsAddrs at hmem
  split at hmem
  · cases hmem
  · split at hmem
    · next p b2 hp =>
      obtain ⟨-, ts, rfl⟩ := physical_byte hc hp
      exact ha (by simpa [Phys.identity] using hmem)
    · cases hmem

end

/-- An access that completes changes the bus alone. -/
theorem onBus_eq_ok {α : Type} {x : B α} {s t : State} {a : α} (h : onBus x s = .ok a t) :
    ∃ b, x s.cpu s.bus = .ok a b ∧ t = { s with bus := b } := by
  rw [run_onBus] at h
  split at h
  · next a' b hb => cases h; exact ⟨b, hb, rfl⟩
  · cases h

/-! The descriptors that the new task loads. -/

/-- A descriptor that is found lies where its selector says. -/
theorem fetchDesc_at {sel : W16} {c : Cpu} {b b1 : Bus} {d : Desc} (h : fetchDesc sel c b = .ok (some d) b1) :
    d.la + 5#32 = c.rightsAt sel := by
  have offset (k : Nat) (base : W32) : base + BitVec.ofNat 32 k + 5#32 = base + BitVec.ofNat 32 (k + 5) := by
    rw [BitVec.add_assoc, BitVec.ofNat_add]
  unfold fetchDesc at h
  rw [B.bind_ok (run_regs c b)] at h
  rw [B.run_ite] at h
  obtain ⟨-, h⟩ | ⟨-, h⟩ := ite_eq_iff.mp h
  · cases h
  rw [B.run_ite] at h
  obtain ⟨-, h⟩ | ⟨-, h⟩ := ite_eq_iff.mp h
  · cases h
  obtain ⟨d', b2, hd, h⟩ := B.bind_eq_ok h
  cases h
  unfold descAt at hd
  obtain ⟨v, b3, -, hd⟩ := B.bind_eq_ok hd
  cases hd
  exact offset _ _

theorem fetchOr_eq_ok {sel : W16} {e : Exc} {c : Cpu} {b b1 : Bus} {d : Desc} (h : fetchOr sel e c b = .ok d b1) :
    fetchDesc sel c b = .ok (some d) b1 := by
  unfold fetchOr at h
  obtain ⟨o, b2, ho, h⟩ := B.bind_eq_ok h
  cases o with
  | none => cases h
  | some d' => cases h; exact ho

/-- A check that ends well has changed nothing. -/
theorem raiseIf_eq_ok {q : Bool} {e : Exc} {c : Cpu} {b b1 : Bus} (h : raiseIf q e c b = .ok () b1) :
    q = false ∧ b1 = b := by
  rw [run_raiseIf] at h
  split at h
  · cases h
  · next hq => cases h; exact ⟨by simpa using hq, rfl⟩

theorem taskStack_at {sel : W16} {c : Cpu} {b b1 : Bus} {d : Desc} (h : taskStack sel c b = .ok d b1) :
    d.la + 5#32 = c.rightsAt sel := by
  unfold taskStack at h
  rw [B.bind_ok (run_regs c b)] at h
  obtain ⟨_, b2, -, h⟩ := B.bind_eq_ok h
  obtain ⟨d', b3, hd, h⟩ := B.bind_eq_ok h
  obtain ⟨_, b4, -, h⟩ := B.bind_eq_ok h
  obtain ⟨_, b5, -, h⟩ := B.bind_eq_ok h
  obtain ⟨_, b6, -, h⟩ := B.bind_eq_ok h
  cases h
  exact fetchDesc_at (fetchOr_eq_ok hd)

theorem taskCode_at {sel : W16} {c : Cpu} {b b1 : Bus} {d : Desc} (h : taskCode sel c b = .ok d b1) :
    d.la + 5#32 = c.rightsAt sel := by
  unfold taskCode at h
  obtain ⟨_, b2, -, h⟩ := B.bind_eq_ok h
  obtain ⟨d', b3, hd, h⟩ := B.bind_eq_ok h
  obtain ⟨_, b4, -, h⟩ := B.bind_eq_ok h
  obtain ⟨_, b5, -, h⟩ := B.bind_eq_ok h
  cases h
  exact fetchDesc_at (fetchOr_eq_ok hd)

/-! The segment registers of the new task. -/

/-- The segment registers hold the selectors of the new task; a 16-bit TSS has none for FS and GS. -/
structure TaskSels.Loaded (t : TaskSels) (wide : Bool) (r : SegRegs) : Prop where
  es : r.es.sel = t.es
  cs : r.cs.sel = t.cs
  ss : r.ss.sel = t.ss
  ds : r.ds.sel = t.ds
  fs : wide = true → r.fs.sel = t.fs
  gs : wide = true → r.gs.sel = t.gs

/-- The selector for a segment register. -/
def TaskSels.get (t : TaskSels) : Seg → W16
  | .es => t.es
  | .cs => t.cs
  | .ss => t.ss
  | .ds => t.ds
  | .fs => t.fs
  | .gs => t.gs

theorem TaskSels.Loaded.set {t : TaskSels} {wide : Bool} {r : SegRegs} (h : t.Loaded wide r) {sr : Seg} {v : SegReg}
    (hv : v.sel = t.get sr) : t.Loaded wide (r.set sr v) := by
  obtain ⟨es, cs, ss, ds, fs, gs⟩ := h
  cases sr with
  | es => exact ⟨hv, cs, ss, ds, fs, gs⟩
  | cs => exact ⟨es, hv, ss, ds, fs, gs⟩
  | ss => exact ⟨es, cs, hv, ds, fs, gs⟩
  | ds => exact ⟨es, cs, ss, hv, fs, gs⟩
  | fs => exact ⟨es, cs, ss, ds, fun _ => hv, gs⟩
  | gs => exact ⟨es, cs, ss, ds, fs, fun _ => hv⟩

/-- A segment register whose selector a TSS of this size names. -/
def TaskSels.Names (wide : Bool) (sr : Seg) : Prop := (sr = .fs ∨ sr = .gs) → wide = true

theorem TaskSels.Loaded.get {t : TaskSels} {wide : Bool} {r : SegRegs} (h : t.Loaded wide r) {sr : Seg}
    (hw : TaskSels.Names wide sr) : (r.get sr).sel = t.get sr := by
  obtain ⟨es, cs, ss, ds, fs, gs⟩ := h
  cases sr with
  | es => exact es
  | cs => exact cs
  | ss => exact ss
  | ds => exact ds
  | fs => exact fs (hw (.inl rfl))
  | gs => exact gs (hw (.inr rfl))

/-- A step of the load of the segment registers: it leaves the other registers, but that the last one cuts EIP, and stores
to the descriptors alone that the selectors name. -/
structure SegStep (t : TaskSels) (wide cut : Bool) (s u : State) : Prop where
  rest : u.cpu = { s.cpu with
    seg := u.cpu.seg, eip := if cut then u.cpu.seg.cs.cutEip s.cpu.eip else s.cpu.eip }
  sels : t.Loaded wide s.cpu.seg → t.Loaded wide u.cpu.seg
  mem : s.cpu.Flat → ∀ a, (∀ sr, TaskSels.Names wide sr → a ≠ (s.cpu.rightsAt (t.get sr)).toNat) →
    u.bus.mem.read a = s.bus.mem.read a

section
variable {t : TaskSels} {wide cut : Bool} {s u v : State}

theorem SegStep.trans (h : SegStep t wide false s u) (h' : SegStep t wide cut u v) : SegStep t wide cut s v := by
  have tables (sel : W16) : u.cpu.rightsAt sel = s.cpu.rightsAt sel := by rw [h.rest]; rfl
  have flat (hf : s.cpu.Flat) : u.cpu.Flat := by rw [h.rest]; exact hf
  refine ⟨?_, h'.sels ∘ h.sels, fun hf a ha => (h'.mem (flat hf) a fun sr hw => ?_).trans (h.mem hf a ha)⟩
  · rw [h'.rest, h.rest]; rfl
  · rw [tables]; exact ha sr hw

theorem SegStep.quiet {b : Bus} (h : Stored s.cpu [] s.bus b) : SegStep t wide false s { s with bus := b } :=
  ⟨rfl, id, fun hf a _ => h.2 hf.2 a (List.not_mem_nil)⟩

end

theorem SegStep.rightsAt {t : TaskSels} {wide cut : Bool} {s u : State} (h : SegStep t wide cut s u) :
    u.cpu.rightsAt = s.cpu.rightsAt := by
  rw [h.rest]; rfl

/-- Every run of `x` that completes, the access-rights bytes being at `rights`, is a step of the load. -/
structure Seats {α : Type} (rights : W16 → W32) (t : TaskSels) (wide cut : Bool) (x : M α) : Prop where
  step (s : State) (r : α) (u : State) : s.cpu.rightsAt = rights → x s = .ok r u → SegStep t wide cut s u

section
variable {α β : Type} {rights : W16 → W32} {t : TaskSels} {wide cut : Bool}

theorem Seats.bind {x : M α} {f : α → M β} (hx : Seats rights t wide false x) (hf : ∀ a, Seats rights t wide cut (f a)) :
    Seats rights t wide cut (x >>= f) := by
  refine ⟨fun s r v hr h => ?_⟩
  obtain ⟨a, u, hxa, hfa⟩ := M.bind_eq_ok h
  have first := hx.step s a u hr hxa
  exact first.trans ((hf a).step u r v (first.rightsAt.trans hr) hfa)

theorem Seats.ite {q : Prop} [Decidable q] {x y : M α} (hx : Seats rights t wide cut x) (hy : Seats rights t wide cut y) :
    Seats rights t wide cut (if q then x else y) := by
  split <;> assumption

theorem Seats.pure (r : α) : Seats rights t wide false (pure r : M α) := by
  refine ⟨fun s _ u _ h => ?_⟩
  cases h
  exact .quiet (.refl _ _ _)

theorem Seats.quiet {x : B α} (hx : Quiet x) : Seats rights t wide false (onBus x) := by
  refine ⟨fun s _ u _ h => ?_⟩
  obtain ⟨b, hb, rfl⟩ := onBus_eq_ok h
  exact .quiet (hx.ok hb)

theorem Seats.withCpu {f : Cpu → M α} (h : ∀ c, Seats rights t wide cut (f c)) : Seats rights t wide cut (getCpu >>= f) :=
  ⟨fun s r u hr hu => (h s.cpu).step s r u hr hu⟩

/-- A register takes the selector meant for it. -/
theorem Seats.setSeg {sr : Seg} {v : SegReg} (hv : v.sel = t.get sr) :
    Seats rights t wide false (modCpu (·.setSeg sr v)) := by
  refine ⟨fun s _ u _ h => ?_⟩
  cases h
  exact ⟨rfl, fun hl => hl.set hv, fun _ _ _ => rfl⟩

/-- A descriptor that a selector of the new task names becomes accessed. -/
theorem SegStep.accessed {s : State} {b : Bus} {d : Desc} {sr : Seg} (hw : TaskSels.Names wide sr)
    (hd : d.la + 5#32 = s.cpu.rightsAt (t.get sr)) (h : setAccessed d s.cpu s.bus = .ok () b) :
    SegStep t wide false s { s with bus := b } :=
  ⟨rfl, id, fun hf _ ha => setAccessed_flat hf h (hd ▸ ha sr hw)⟩

theorem Seats.accessed {d : Desc} {sr : Seg} (hw : TaskSels.Names wide sr) (hd : d.la + 5#32 = rights (t.get sr)) :
    Seats rights t wide false (onBus (setAccessed d)) := by
  refine ⟨fun s _ u hr h => ?_⟩
  obtain ⟨b, hb, rfl⟩ := onBus_eq_ok h
  exact .accessed hw (hr ▸ hd) hb

/-- A descriptor that a selector names is found, then the rest runs. -/
theorem Seats.found {x : B Desc} {f : Desc → M α} {sel : W16} (hx : Quiet x)
    (hat : ∀ {c b b1 d}, x c b = .ok d b1 → d.la + 5#32 = c.rightsAt sel)
    (hf : ∀ d, d.la + 5#32 = rights sel → Seats rights t wide cut (f d)) : Seats rights t wide cut (onBus x >>= f) := by
  refine ⟨fun s r v hr h => ?_⟩
  obtain ⟨d, u, hd, hfd⟩ := M.bind_eq_ok h
  obtain ⟨b, hb, rfl⟩ := onBus_eq_ok hd
  exact (SegStep.quiet (hx.ok hb)).trans ((hf d (hr ▸ hat hb)).step _ r v hr hfd)

/-- One data segment register (R701). -/
theorem seats_taskData {sr : Seg} (hw : TaskSels.Names wide sr) : Seats rights t wide false (taskData sr (t.get sr)) := by
  refine .ite ⟨fun s _ v hr h => ?_⟩ (.pure _)
  obtain ⟨r, u, hx, hset⟩ := M.bind_eq_ok h
  obtain ⟨b, checks, rfl⟩ := onBus_eq_ok hx
  rw [B.bind_ok (run_regs _ _)] at checks
  obtain ⟨d, b1, hd, checks⟩ := B.bind_eq_ok checks
  obtain ⟨_, b2, readable, checks⟩ := B.bind_eq_ok checks
  obtain ⟨_, b3, present, checks⟩ := B.bind_eq_ok checks
  obtain ⟨_, b4, level, checks⟩ := B.bind_eq_ok checks
  obtain ⟨_, b5, ha, checks⟩ := B.bind_eq_ok checks
  cases checks
  obtain ⟨-, rfl⟩ := raiseIf_eq_ok readable
  obtain ⟨-, rfl⟩ := raiseIf_eq_ok present
  obtain ⟨-, rfl⟩ := raiseIf_eq_ok level
  have found : SegStep t wide false s { s with bus := b4 } := .quiet ((quiet_fetchOr _ _).ok hd)
  have accessed : SegStep t wide false { s with bus := b4 } { s with bus := b } :=
    .accessed hw (fetchDesc_at (fetchOr_eq_ok hd)) ha
  have set := (Seats.setSeg (rights := rights) (t := t) (wide := wide) (sr := sr) (v := d.reg (t.get sr)) rfl).step
  exact (found.trans accessed).trans (set _ _ _ hr hset)

end

end Sys2Proof.Machine
end

section
namespace Sys2Proof.Machine

/-! The load of a new task (R700, R701). -/

section
variable {rights : W16 → W32} {t : TaskSels} {wide : Bool}

/-- The end of the load of the segment registers: EIP is cut and checked. -/
theorem seats_cut : Seats rights t wide true (do
    modCpu fun c => { c with eip := c.seg.cs.cutEip c.eip }
    let c ← getCpu
    onBus (checkEip c.eip c.seg.cs.limit)) := by
  refine ⟨fun s _ u hr h => ?_⟩
  rw [M.bind_ok (run_modCpu _ s)] at h
  obtain ⟨_, v, hv, h⟩ := M.bind_eq_ok h
  cases hv
  obtain ⟨b, hb, rfl⟩ := onBus_eq_ok h
  exact ⟨rfl, id, fun hf a _ => ((quiet_checkEip _ _).ok hb).2 hf.2 a List.not_mem_nil⟩

/-- The segments of a virtual-8086 task. -/
theorem seats_v86 : Seats rights t wide false (modCpu fun c => { c with
    seg := { es := .v86 t.es, cs := .v86 t.cs, ss := .v86 t.ss, ds := .v86 t.ds, fs := .v86 t.fs, gs := .v86 t.gs } }) := by
  refine ⟨fun s _ u _ h => ?_⟩
  cases h
  exact ⟨rfl, fun _ => ⟨rfl, rfl, rfl, rfl, fun _ => rfl, fun _ => rfl⟩, fun _ _ _ => rfl⟩

theorem TaskSels.names_of_ne {sr : Seg} (hf : sr ≠ .fs) (hg : sr ≠ .gs) : TaskSels.Names wide sr :=
  fun h => (h.elim hf hg).elim

/-- The load of the segment registers: LDTR, then the steps of the others. -/
theorem taskSegments_eq_ok {s u : State} (h : taskSegments t wide s = .ok () u) :
    ∃ o s1, taskLdt t.ldt s = .ok o s1 ∧ SegStep t wide true s1 u := by
  obtain ⟨o, s1, hldt, h⟩ := M.bind_eq_ok h
  refine ⟨o, s1, hldt, Seats.step (rights := s1.cpu.rightsAt) (.withCpu fun c => .ite ?_ ?_) s1 () u rfl h⟩
  · exact .bind (.quiet (quiet_taskLdtPresent _ _)) fun _ => .bind seats_v86 fun _ => seats_cut
  · refine .bind (.quiet (quiet_taskCodeLevel _)) fun _ => .found (quiet_taskStack _) taskStack_at fun ss hss =>
      .bind (.quiet (quiet_taskLdtPresent _ _)) fun _ => .found (quiet_taskCode _) taskCode_at fun cs hcs =>
      .bind (.accessed (sr := .cs) (TaskSels.names_of_ne (by decide) (by decide)) hcs) fun _ =>
      .bind (.setSeg rfl) fun _ => .bind (.quiet (.raiseIf _ _)) fun _ =>
      .bind (.accessed (sr := .ss) (TaskSels.names_of_ne (by decide) (by decide)) hss) fun _ =>
      .bind (.setSeg rfl) fun _ =>
      .bind (seats_taskData (sr := .ds) (TaskSels.names_of_ne (by decide) (by decide))) fun _ =>
      .bind (seats_taskData (sr := .es) (TaskSels.names_of_ne (by decide) (by decide))) fun _ => ?_
    split
    · next hw =>
      exact .bind (seats_taskData (sr := .fs) fun _ => hw) fun _ => .bind (seats_taskData (sr := .gs) fun _ => hw) fun _ =>
        seats_cut
    · exact seats_cut

end

/-- LDTR of the new task: the selector stays, nothing is stored. -/
theorem taskLdt_eq_ok {sel : W16} {s u : State} {o : Option Desc} (h : taskLdt sel s = .ok o u) :
    u.cpu = { s.cpu with ldtr := u.cpu.ldtr } ∧ (s.cpu.ldtr.sel = sel → u.cpu.ldtr.sel = sel)
      ∧ Stored s.cpu [] s.bus u.bus := by
  unfold taskLdt at h
  rw [run_ite] at h
  obtain ⟨-, h⟩ | ⟨-, h⟩ := ite_eq_iff.mp h
  · cases h; exact ⟨rfl, id, .refl _ _ _⟩
  obtain ⟨d, v, hd, h⟩ := M.bind_eq_ok h
  obtain ⟨b, found, rfl⟩ := onBus_eq_ok hd
  have stored := (quiet_taskLdtDesc sel).ok found
  dsimp only at h
  rw [run_ite] at h
  obtain ⟨-, h⟩ | ⟨-, h⟩ := ite_eq_iff.mp h
  · cases h; exact ⟨rfl, fun _ => rfl, stored⟩
  · cases h; exact ⟨rfl, id, stored⟩

/-- CR3 of the new task, and with PAE paging the entries that it names. -/
theorem taskCr3_eq_ok {v : W32} {s u : State} (h : taskCr3 v s = .ok () u) :
    u.cpu = { s.cpu with ctl := u.cpu.ctl } ∧ u.cpu.ctl.cr3 = v ∧ u.cpu.ctl.cr0 = s.cpu.ctl.cr0
      ∧ (s.cpu.pg = false → ∀ a, u.bus.mem.read a = s.bus.mem.read a) := by
  unfold taskCr3 at h
  obtain ⟨_, s1, h1, h⟩ := M.bind_eq_ok h
  obtain ⟨b1, ahead, rfl⟩ := onBus_eq_ok h1
  have before (hp : s.cpu.pg = false) (a : Nat) := (quiet_speculate.ok ahead).2 hp a List.not_mem_nil
  rw [M.bind_ok (run_modCpu _ _)] at h
  obtain ⟨_, s2, h2, h⟩ := M.bind_eq_ok h
  cases h2
  rw [M.bind_ok (run_getCpu _), run_ite] at h
  obtain ⟨-, h⟩ | ⟨-, h⟩ := ite_eq_iff.mp h
  · obtain ⟨e, s3, h3, h⟩ := M.bind_eq_ok h
    obtain ⟨b3, entries, rfl⟩ := onBus_eq_ok h3
    cases h
    refine ⟨rfl, rfl, rfl, fun hp a => .trans ?_ (before hp a)⟩
    exact ((quiet_readPdptes v).ok entries).2 hp a List.not_mem_nil
  · cases h
    exact ⟨rfl, rfl, rfl, before⟩

end Sys2Proof.Machine
end

section
namespace Sys2Proof.Machine

section
variable {bytes : List Byte} {c : Cpu} {b b1 : Bus} {g : Gprs}

/-- The general registers in a 32-bit TSS. -/
theorem taskGprs_wide (h : taskGprs bytes true c b = .ok g b1) :
    g = { eax := BitVec.ofNat 32 (tssField bytes 40 4), ecx := BitVec.ofNat 32 (tssField bytes 44 4)
          edx := BitVec.ofNat 32 (tssField bytes 48 4), ebx := BitVec.ofNat 32 (tssField bytes 52 4)
          esp := BitVec.ofNat 32 (tssField bytes 56 4), ebp := BitVec.ofNat 32 (tssField bytes 60 4)
          esi := BitVec.ofNat 32 (tssField bytes 64 4), edi := BitVec.ofNat 32 (tssField bytes 68 4) } := by
  cases h
  rfl

/-- The general registers in a 16-bit TSS are the lower halves. -/
theorem taskGprs_narrow (h : taskGprs bytes false c b = .ok g b1) :
    g.eax.extractLsb' 0 16 = BitVec.ofNat 16 (tssField bytes 18 2)
      ∧ g.ecx.extractLsb' 0 16 = BitVec.ofNat 16 (tssField bytes 20 2)
      ∧ g.edx.extractLsb' 0 16 = BitVec.ofNat 16 (tssField bytes 22 2)
      ∧ g.ebx.extractLsb' 0 16 = BitVec.ofNat 16 (tssField bytes 24 2)
      ∧ g.esp.extractLsb' 0 16 = BitVec.ofNat 16 (tssField bytes 26 2)
      ∧ g.ebp.extractLsb' 0 16 = BitVec.ofNat 16 (tssField bytes 28 2)
      ∧ g.esi.extractLsb' 0 16 = BitVec.ofNat 16 (tssField bytes 30 2)
      ∧ g.edi.extractLsb' 0 16 = BitVec.ofNat 16 (tssField bytes 32 2) := by
  cases h
  exact ⟨extractLsb'_append_low _ _, extractLsb'_append_low _ _, extractLsb'_append_low _ _, extractLsb'_append_low _ _,
    extractLsb'_append_low _ _, extractLsb'_append_low _ _, extractLsb'_append_low _ _, extractLsb'_append_low _ _⟩

end

/-- A word of a TSS, with zeros above. -/
theorem ofNat_tssField (bytes : List Byte) (off : Nat) :
    BitVec.ofNat 32 (tssField bytes off 2) = (BitVec.ofNat 16 (tssField bytes off 2)).setWidth 32 := by
  have bound : tssField bytes off 2 < 2 ^ 16 := by
    refine (leNat_lt _).trans_le (Nat.pow_le_pow_right (n := 256) (by decide) (List.length_take_le 2 _))
  apply BitVec.eq_of_toNat_eq
  simp
  omega

/-- The registers once those of the new task are taken over that need no check (R700 steps 9 to 12). -/
def Cpu.newTask (kind : TaskKind) (wide : Bool) (sel : W16) (d : Desc) (bytes : List Byte) (g : Gprs) (fs gs : SegReg)
    (c : Cpu) : Cpu :=
  let t := taskSels bytes wide
  let flags := Eflags.ofBits (BitVec.ofNat 32 (if wide then tssField bytes 36 4 else tssField bytes 16 2))
  let fl := if kind.nests then { flags with nt := true } else flags
  { c with
    gpr := g, fl, eip := BitVec.ofNat 32 (if wide then tssField bytes 32 4 else tssField bytes 14 2)
    cpl := if fl.vm then 3#2 else selRpl t.cs
    tr := { d.reg sel with typ := d.typ ||| 2#4 }
    ldtr := c.ldtr.nulled t.ldt
    ctl.cr0 := c.ctl.cr0 ||| 8#32
    dbg.dr7 := c.dbg.dr7 &&& 0xFFFFFFAA#32
    seg := { es := c.seg.es.nulled t.es, cs := c.seg.cs.nulled t.cs, ss := c.seg.ss.nulled t.ss
             ds := c.seg.ds.nulled t.ds, fs, gs }
    notes.keepRf := true }

/-- The T flag of the new task. -/
def taskTrap (wide : Bool) (bytes : List Byte) : M Unit := do
  if wide && (tssField bytes 100 1).testBit 0 then
    modCpu fun c => { c with hid.pendingDb := joinTraps { b := 0#4, bs := false, bt := true } c.hid.pendingDb }

section
variable {kind : TaskKind} {sel : W16} {d : Desc} {bytes : List Byte}

/-- The load of a task with a 32-bit TSS. -/
theorem loadTask_wide (hw : wideTss d.typ = true) (s : State) :
    loadTask kind sel d bytes s = (onBus (taskGprs bytes true) >>= fun g =>
      let t := taskSels bytes true
      modCpu (fun c => c.newTask kind true sel d bytes g (s.cpu.seg.fs.nulled t.fs) (s.cpu.seg.gs.nulled t.gs)) >>= fun _ =>
      taskCr3 (BitVec.ofNat 32 (tssField bytes 28 4)) >>= fun _ => taskSegments t true >>= fun _ =>
      taskTrap true bytes) s := by
  unfold loadTask
  rw [hw]
  rfl

/-- The load of a task with a 16-bit TSS. -/
theorem loadTask_narrow (hw : wideTss d.typ = false) (s : State) :
    loadTask kind sel d bytes s = (onBus (taskGprs bytes false) >>= fun g => onBus freeSeg >>= fun fs =>
      onBus freeSeg >>= fun gs => modCpu (fun c => c.newTask kind false sel d bytes g fs gs) >>= fun _ =>
      taskSegments (taskSels bytes false) false >>= fun _ => taskTrap false bytes) s := by
  unfold loadTask
  rw [hw]
  rfl

end

end Sys2Proof.Machine
end

section
namespace Sys2Proof.Machine

/-- The rest of the load of a task, from the registers of `s` on: LDTR and the segment registers take their selectors, EIP
is cut, and only the descriptors that the selectors name are stored to. -/
structure TaskRest (t : TaskSels) (wide : Bool) (s u : State) : Prop where
  rest : u.cpu = { s.cpu with
    ctl := u.cpu.ctl, ldtr := u.cpu.ldtr, seg := u.cpu.seg, eip := u.cpu.seg.cs.cutEip s.cpu.eip, hid := u.cpu.hid }
  cr0 : u.cpu.ctl.cr0 = s.cpu.ctl.cr0
  ldt : s.cpu.ldtr.sel = t.ldt → u.cpu.ldtr.sel = t.ldt
  sels : t.Loaded wide s.cpu.seg → t.Loaded wide u.cpu.seg
  mem : s.cpu.Flat → ∀ a, (∀ sr, TaskSels.Names wide sr → a ≠ (u.cpu.rightsAt (t.get sr)).toNat) →
    u.bus.mem.read a = s.bus.mem.read a

section
variable {t : TaskSels} {wide : Bool} {bytes : List Byte} {s u : State}

/-- LDTR and the segment registers, then the T flag. -/
theorem taskSegments_rest (h : (taskSegments t wide >>= fun _ => taskTrap wide bytes) s = .ok () u) :
    TaskRest t wide s u ∧ u.cpu.ctl = s.cpu.ctl := by
  obtain ⟨_, s2, hsegs, htrap⟩ := M.bind_eq_ok h
  have trap : u.cpu = { s2.cpu with hid := u.cpu.hid } ∧ u.bus = s2.bus := by
    unfold taskTrap at htrap
    rw [run_ite] at htrap
    obtain ⟨-, ht⟩ | ⟨-, ht⟩ := ite_eq_iff.mp htrap <;> (cases ht; exact ⟨rfl, rfl⟩)
  obtain ⟨hcpu, hbus⟩ := trap
  obtain ⟨o, s1, hldt, hstep⟩ := taskSegments_eq_ok hsegs
  obtain ⟨ldtRest, ldtSel, ldtStored⟩ := taskLdt_eq_ok hldt
  have whole : u.cpu = { s.cpu with
      ldtr := s1.cpu.ldtr, seg := s2.cpu.seg, eip := s2.cpu.seg.cs.cutEip s.cpu.eip, hid := u.cpu.hid } := by
    rw [hcpu, hstep.rest, ldtRest]; rfl
  have flat (hf : s.cpu.Flat) : s1.cpu.Flat := by rw [ldtRest]; exact hf
  have tables : u.cpu.rightsAt = s1.cpu.rightsAt := by rw [hcpu]; exact hstep.rightsAt
  have ctl : u.cpu.ctl = s.cpu.ctl := by rw [whole]
  refine ⟨⟨?_, congrArg (·.cr0) ctl, fun hl => ?_, fun hl => ?_, fun hf a ha => ?_⟩, ctl⟩
  · rw [whole]
  · rw [whole]; exact ldtSel hl
  · rw [whole]; exact hstep.sels (by rw [ldtRest]; exact hl)
  · rw [hbus]
    exact (hstep.mem (flat hf) a fun sr hw => tables ▸ ha sr hw).trans (ldtStored.2 hf.2 a List.not_mem_nil)

/-- CR3, then the same. -/
theorem taskCr3_rest {v : W32}
    (h : (taskCr3 v >>= fun _ => taskSegments t wide >>= fun _ => taskTrap wide bytes) s = .ok () u) :
    TaskRest t wide s u ∧ u.cpu.ctl.cr3 = v := by
  obtain ⟨_, s1, hcr3, h⟩ := M.bind_eq_ok h
  obtain ⟨hrest, hv, hcr0, hmem⟩ := taskCr3_eq_ok hcr3
  obtain ⟨rest, hctl⟩ := taskSegments_rest h
  have flat (hf : s.cpu.Flat) : s1.cpu.Flat := by
    unfold Cpu.Flat Cpu.pg Cpu.pe at hf ⊢
    rwa [hcr0]
  refine ⟨⟨?_, rest.cr0.trans hcr0, fun hl => rest.ldt ?_, fun hl => rest.sels ?_, fun hf a ha => ?_⟩, hctl ▸ hv⟩
  · rw [rest.rest, hrest]
  · rw [hrest]; exact hl
  · rw [hrest]; exact hl
  · exact (rest.mem (flat hf) a ha).trans (hmem hf.2 a)

end

end Sys2Proof.Machine
end

section
namespace Sys2Proof.Machine

section
variable {kind : TaskKind} {sel : W16} {d : Desc} {bytes : List Byte} {c : Cpu} {u : State} {g : Gprs}
  {fs gs : SegReg} {b b0 : Bus}

/-- CALL and interrupts set NT. -/
theorem nests_flags (kind : TaskKind) (f : Eflags) :
    (if kind.nests then { f with nt := true } else f) = { f with nt := f.nt || kind == .call || kind == .int } := by
  have nests : kind.nests = (kind == .call || kind == .int) := by cases kind <;> rfl
  rw [Bool.or_assoc, ← nests]
  cases kind.nests with
  | true => rw [if_pos rfl, Bool.or_true]
  | false => rw [if_neg Bool.false_ne_true, Bool.or_false]

theorem nests_vm (kind : TaskKind) (f : Eflags) : (if kind.nests then { f with nt := true } else f).vm = f.vm := by
  split <;> rfl

/-- The flags of the new task, from the image `v` in its TSS. -/
theorem newTask_fl {wide : Bool} {v : W32}
    (hv : BitVec.ofNat 32 (if wide then tssField bytes 36 4 else tssField bytes 16 2) = v) :
    (c.newTask kind wide sel d bytes g fs gs).fl =
      { Eflags.ofBits v with nt := (Eflags.ofBits v).nt || kind == .call || kind == .int } := by
  rw [← hv]
  exact nests_flags _ _

/-- The privilege level of the new task. -/
theorem newTask_cpl {wide : Bool} {v : W32}
    (hv : BitVec.ofNat 32 (if wide then tssField bytes 36 4 else tssField bytes 16 2) = v) :
    (c.newTask kind wide sel d bytes g fs gs).cpl =
      if (Eflags.ofBits v).vm then 3#2 else selRpl (taskSels bytes wide).cs := by
  rw [← hv]
  unfold Cpu.newTask
  simp only [nests_vm]

/-- The new task of a 32-bit TSS is as `TaskLoaded` says. -/
theorem taskLoaded_wide (hw : wideTss d.typ = true) (hg : taskGprs bytes true c b = .ok g b0)
    (hfs : fs.sel = (taskSels bytes true).fs) (hgs : gs.sel = (taskSels bytes true).gs) {b1 : Bus}
    (h : TaskRest (taskSels bytes true) true ⟨c.newTask kind true sel d bytes g fs gs, b1⟩ u)
    (hcr3 : u.cpu.ctl.cr3 = BitVec.ofNat 32 (tssField bytes 28 4)) : TaskLoaded kind sel d bytes c u.cpu := by
  obtain ⟨rest, cr0, ldt, sels, -⟩ := h
  obtain ⟨es, cs, ss, ds, fsel, gsel⟩ := sels ⟨rfl, rfl, rfl, rfl, fun _ => hfs, fun _ => hgs⟩
  have ldt := ldt rfl
  have hg := taskGprs_wide hg
  have fl : u.cpu.fl = (c.newTask kind true sel d bytes g fs gs).fl := by rw [rest]
  have cpl : u.cpu.cpl = (c.newTask kind true sel d bytes g fs gs).cpl := by rw [rest]
  unfold TaskLoaded
  rw [hw]
  refine ⟨?_, cr0, ?_, ?_, ?_, ?_, cs, es, ss, ds, ldt, fun _ => ⟨hcr3, fsel rfl, gsel rfl, ?_⟩, nofun⟩
  · rw [rest]; rfl
  · rw [rest]; rfl
  · exact fl.trans (newTask_fl rfl)
  · rw [rest]; rfl
  · exact cpl.trans (newTask_cpl rfl)
  · rw [rest]; exact hg

/-- The new task of a 16-bit TSS is as `TaskLoaded` says. -/
theorem taskLoaded_narrow (hw : wideTss d.typ = false) (hg : taskGprs bytes false c b = .ok g b0) {b1 : Bus}
    (h : TaskRest (taskSels bytes false) false ⟨c.newTask kind false sel d bytes g fs gs, b1⟩ u)
    (hctl : u.cpu.ctl = (c.newTask kind false sel d bytes g fs gs).ctl) : TaskLoaded kind sel d bytes c u.cpu := by
  obtain ⟨rest, cr0, ldt, sels, -⟩ := h
  obtain ⟨es, cs, ss, ds, -, -⟩ := sels ⟨rfl, rfl, rfl, rfl, nofun, nofun⟩
  have ldt := ldt rfl
  have hg := taskGprs_narrow hg
  have fl : u.cpu.fl = (c.newTask kind false sel d bytes g fs gs).fl := by rw [rest]
  have cpl : u.cpu.cpl = (c.newTask kind false sel d bytes g fs gs).cpl := by rw [rest]
  have flags := ofNat_tssField bytes 16
  have eip := ofNat_tssField bytes 14
  unfold TaskLoaded
  rw [hw]
  refine ⟨?_, cr0, ?_, ?_, ?_, ?_, cs, es, ss, ds, ldt, nofun, fun _ => ⟨?_, ?_⟩⟩
  · rw [rest]; rfl
  · rw [rest]; rfl
  · exact fl.trans (newTask_fl flags)
  · rw [rest]; exact congrArg u.cpu.seg.cs.cutEip eip
  · exact cpl.trans (newTask_cpl flags)
  · rw [hctl]; rfl
  · rw [rest]; exact hg

/-- What is stored by the rest of the load lies in the descriptors that the segment registers then name. -/
theorem TaskRest.same {t : TaskSels} {wide : Bool} {b1 : Bus}
    (h : TaskRest t wide ⟨c.newTask kind wide sel d bytes g fs gs, b1⟩ u) (hl : t.Loaded wide u.cpu.seg)
    (hf : c.Flat) {a : Nat}
    (ha : ∀ sr, a ≠ (u.cpu.rightsAt (u.cpu.seg.get sr).sel).toNat) : u.bus.mem.read a = b1.mem.read a := by
  have flat : (c.newTask kind wide sel d bytes g fs gs).Flat := by
    simpa [Cpu.newTask, Cpu.Flat, Cpu.pg, Cpu.pe, bit] using hf
  exact h.mem flat a fun sr hw => hl.get hw ▸ ha sr

/-- The load of a task ends as `TaskLoaded` says, and stores to the descriptors alone that the segment registers then
name. -/
theorem loadTask_eq_ok {s : State} (h : loadTask kind sel d bytes s = .ok () u) :
    TaskLoaded kind sel d bytes s.cpu u.cpu
      ∧ (s.cpu.Flat → ∀ a, (∀ sr, a ≠ (u.cpu.rightsAt (u.cpu.seg.get sr).sel).toNat) →
        u.bus.mem.read a = s.bus.mem.read a) := by
  cases hw : wideTss d.typ with
  | true =>
    rw [loadTask_wide hw] at h
    obtain ⟨g, s1, hg, h⟩ := M.bind_eq_ok h
    obtain ⟨b1, gprs, rfl⟩ := onBus_eq_ok hg
    rw [M.bind_ok (run_modCpu _ _)] at h
    obtain ⟨rest, hcr3⟩ := taskCr3_rest h
    have loaded := rest.sels ⟨rfl, rfl, rfl, rfl, fun _ => rfl, fun _ => rfl⟩
    refine ⟨taskLoaded_wide hw gprs rfl rfl rest hcr3, fun hf a ha => (rest.same loaded hf ha).trans ?_⟩
    exact ((quiet_taskGprs _ _).ok gprs).2 hf.2 a List.not_mem_nil
  | false =>
    rw [loadTask_narrow hw] at h
    obtain ⟨g, s1, hg, h⟩ := M.bind_eq_ok h
    obtain ⟨b1, gprs, rfl⟩ := onBus_eq_ok hg
    obtain ⟨fs, s2, hfs, h⟩ := M.bind_eq_ok h
    obtain ⟨b2, freeFs, rfl⟩ := onBus_eq_ok hfs
    obtain ⟨gs, s3, hgs, h⟩ := M.bind_eq_ok h
    obtain ⟨b3, freeGs, rfl⟩ := onBus_eq_ok hgs
    rw [M.bind_ok (run_modCpu _ _)] at h
    obtain ⟨rest, hctl⟩ := taskSegments_rest h
    have loaded := rest.sels ⟨rfl, rfl, rfl, rfl, nofun, nofun⟩
    refine ⟨taskLoaded_narrow hw gprs rest hctl, fun hf a ha => (rest.same loaded hf ha).trans ?_⟩
    exact ((quiet_freeSeg.ok freeGs).2 hf.2 a List.not_mem_nil).trans
      (((quiet_freeSeg.ok freeFs).2 hf.2 a List.not_mem_nil).trans
        (((quiet_taskGprs _ _).ok gprs).2 hf.2 a List.not_mem_nil))

end

end Sys2Proof.Machine
end

section
namespace Sys2Proof.Machine

/-! The checks before a task switch leave memory as it is. -/

/-- Every run of `x` that completes leaves memory and the address map as they are. -/
structure Looks {α : Type} (c : Cpu) (x : B α) : Prop where
  same (b : Bus) (r : α) (b1 : Bus) : x c b = .ok r b1 → b1.mem = b.mem ∧ b1.map = b.map

section
variable {α β : Type} {c : Cpu}

theorem Looks.bind {x : B α} {f : α → B β} (hx : Looks c x) (hf : ∀ a, Looks c (f a)) : Looks c (x >>= f) := by
  refine ⟨fun b r b2 h => ?_⟩
  obtain ⟨a, b1, hxa, hfa⟩ := B.bind_eq_ok h
  obtain ⟨mem, map⟩ := hx.same b a b1 hxa
  obtain ⟨mem', map'⟩ := (hf a).same b1 r b2 hfa
  exact ⟨mem'.trans mem, map'.trans map⟩

theorem Looks.ite {q : Prop} [Decidable q] {x y : B α} (hx : Looks c x) (hy : Looks c y) : Looks c (if q then x else y) := by
  split <;> assumption

theorem Looks.pure (a : α) : Looks c (pure a : B α) := ⟨fun b _ b1 h => by cases h; exact ⟨rfl, rfl⟩⟩

theorem Looks.regs {f : Cpu → B β} (h : Looks c (f c)) : Looks c (regs >>= f) := ⟨fun b r b1 hr => h.same b r b1 hr⟩

theorem Looks.getBus : Looks c getBus := ⟨fun b _ b1 h => by cases h; exact ⟨rfl, rfl⟩⟩

theorem Looks.free : Looks c free := ⟨fun b _ b1 h => by cases h; exact ⟨rfl, rfl⟩⟩

theorem Looks.throw (e : Stop) : Looks c (throw e : B α) := ⟨fun b _ b1 h => by cases h⟩

theorem Looks.modBus {f : Bus → Bus} (hm : ∀ b, (f b).mem = b.mem) (hp : ∀ b, (f b).map = b.map) : Looks c (modBus f) :=
  ⟨fun b _ b1 h => by cases h; exact ⟨hm b, hp b⟩⟩

theorem Looks.raiseIf (q : Bool) (e : Exc) : Looks c (raiseIf q e) := .ite (.throw _) (.pure _)

theorem looks_readReg (off : Nat) : Looks c (Apic.readReg off) := by
  refine .bind .getBus fun b => ?_
  dsimp only
  split
  · exact .ite (.pure _) (.bind .free fun _ => .pure _)
  · have free : Looks c (Machine.free) := .free
    exact .ite (.bind (.modBus (fun _ => rfl) fun _ => rfl) fun _ => free) free

theorem looks_readPhys (p : Phys) : Looks c (readPhys p) := by
  refine .regs ?_
  split
  · exact .bind (.ite (looks_readReg _) (.throw _)) fun _ => .pure _
  · exact .bind .getBus fun _ => .bind (.modBus Bus.accessed_mem Bus.accessed_map) fun _ => .pure _

theorem looks_physicalPage (hc : c.Flat) (la : W32) (n : Nat) (write user : Bool) : Looks c (physicalPage la n write user) :=
  ⟨fun _ _ _ h => by obtain ⟨rfl, -⟩ := physicalPage_flat hc h; exact ⟨rfl, rfl⟩⟩

theorem looks_sysRead (hc : c.Flat) (la : W32) (n : Nat) : Looks c (sysRead la n) := by
  have physical : Looks c (physical la n false false) :=
    .bind (looks_physicalPage hc _ _ _ _) fun _ => .ite (.pure _) (.bind (looks_physicalPage hc _ _ _ _) fun _ => .pure _)
  have range (p : Phys) : Looks c (checkRange p) := .ite (.pure _) (.throw _)
  exact .bind (.bind physical fun _ => .bind (range _) fun _ => looks_readPhys _) fun _ => .pure _

theorem looks_fetchOr (hc : c.Flat) (sel : W16) (e : Exc) : Looks c (fetchOr sel e) := by
  have fetch : Looks c (fetchDesc sel) := .regs <| .ite (.pure _) <| .ite (.pure _) <|
    .bind (.bind (looks_sysRead hc _ _) fun _ => .pure _) fun _ => .pure _
  refine .bind fetch fun o => ?_
  cases o with
  | none => exact .throw _
  | some d => exact .pure _

theorem looks_checkTss (hc : c.Flat) (kind : TaskKind) (sel : W16) : Looks c (checkTss kind sel) := by
  refine .bind (.raiseIf _ _) fun _ => .bind (looks_fetchOr hc _ _) fun d => ?_
  have limit : Looks c (do
      raiseIf (d.limit.toNat < (if wideTss d.typ then 0x67 else 0x2C)) (.ts (selCode sel))
      return d) := .bind (.raiseIf _ _) fun _ => .pure _
  cases kind
  case iret =>
    exact .bind (.raiseIf _ _) fun _ => .bind (.raiseIf _ _) fun _ => .bind (.raiseIf _ _) fun _ => limit
  all_goals exact .bind (.raiseIf _ _) fun _ => .bind (.raiseIf _ _) fun _ => limit

end

end Sys2Proof.Machine
end

section
namespace Sys2Proof.Machine

/-! The stores of a task switch. -/

/-- The stores from `b` to `b1` are `cells`, first to last. -/
structure Wrote (cells : List (Nat × Byte)) (b b1 : Bus) : Prop where
  mem : b1.mem = b.mem.writeBytes cells
  map : b1.map = b.map

section
variable {l l' : List (Nat × Byte)} {b b1 b2 : Bus}

theorem Wrote.refl (b : Bus) : Wrote [] b b := ⟨rfl, rfl⟩

theorem Wrote.trans (h : Wrote l b b1) (h' : Wrote l' b1 b2) : Wrote (l ++ l') b b2 :=
  ⟨by rw [h'.mem, h.mem, Memory.writeBytes_append], h'.map.trans h.map⟩

end

/-- None of the addresses lies in the APIC page. -/
def Cpu.OffApic (c : Cpu) (as : List Nat) : Prop := ∀ a ∈ as, Apic.enabled c = true → a / 4096 ≠ Apic.page c

theorem Cpu.OffApic.offset {c : Cpu} {p : Phys} (h : c.OffApic p.addrs) : p.apicOffset c = none := by
  unfold Phys.apicOffset
  refine if_neg fun hp => ?_
  simp only [Bool.and_eq_true, List.any_eq_true, beq_iff_eq] at hp
  obtain ⟨he, a, ha, hpage⟩ := hp
  exact h a ha he hpage

theorem Cpu.OffApic.mono {c : Cpu} {as bs : List Nat} (h : c.OffApic bs) (hs : as ⊆ bs) : c.OffApic as :=
  fun a ha => h a (hs ha)

section
variable {c : Cpu} {b b1 : Bus} {p : Phys}

/-- Without paging, and where every address is read-write memory, a write stores its bytes in order. -/
theorem writePhys_wrote {l : List Byte} (hpg : c.pg = false) (hmap : b.map = []) (hl : p.leaves = [])
    (ha : c.OffApic p.addrs)
    (h : writePhys p l c b = .ok () b1) : Wrote (p.addrs.zip l) b b1 := by
  rw [writePhys_cases] at h
  split at h
  · rw [writePart_memory hpg hl ha.offset] at h
    cases h
    exact ⟨Bus.store_mem_of_map hmap c p l, rfl⟩
  · set k := firstPart p.la p.addrs.length
    have part (o n : Nat) := writePart_memory hpg (Phys.part_leaves o n hl) (Phys.part_apicOffset o n ha.offset)
    have drop : (p.part k (p.addrs.length - k)).addrs = p.addrs.drop k := by
      simp [Phys.part, List.take_of_length_le]
    rw [B.bind_ok (part 0 k _ b), part] at h
    cases h
    have both := Wrote.trans (b1 := Bus.store c (p.part 0 k) (l.take k) b)
      ⟨Bus.store_mem_of_map hmap c (p.part 0 k) (l.take k), rfl⟩
      ⟨Bus.store_mem_of_map (b := Bus.store c (p.part 0 k) (l.take k) b) hmap c
        (p.part k (p.addrs.length - k)) (l.drop k), rfl⟩
    have first : (p.part 0 k).addrs = p.addrs.take k := rfl
    simpa only [first, drop, List.zip, ← List.take_zipWith, ← List.drop_zipWith, List.take_append_drop] using both

/-- The bytes of a field, from an address on. -/
def fieldCells (a n v : Nat) : List (Nat × Byte) := (leBytes n v).zipIdx.map fun (x, i) => (a + i, x)

/-- The bytes of the fields of a TSS at an address. -/
def fieldsCells (a : Nat) (fields : List (Nat × Nat × Nat)) : List (Nat × Byte) :=
  fields.flatMap fun (off, n, v) => fieldCells (a + off) n v

theorem fieldsCells_cons (a off n v : Nat) (fields : List (Nat × Nat × Nat)) :
    fieldsCells a ((off, n, v) :: fields) = fieldCells (a + off) n v ++ fieldsCells a fields := rfl

theorem zip_range (a : Nat) (l : List Byte) :
    ((List.range l.length).map (a + ·)).zip l = l.zipIdx.map fun (x, i) => (a + i, x) :=
  List.ext_getElem (by simp) fun i _ _ => by simp

theorem part_identity {la : W32} {n off k : Nat} {ts : List MemType} (h : off + k ≤ n) :
    ((Phys.identity la n ts).part off k).addrs = (List.range k).map (la.toNat + off + ·) :=
  List.ext_getElem (by simp [Phys.part, Phys.identity]; omega) fun i _ _ => by
    simp [Phys.part, Phys.identity, Nat.add_assoc]

/-- Fields of a TSS are stored one after the other. -/
theorem writeFields_wrote {la : W32} {n : Nat} {ts : List MemType} {fields : List (Nat × Nat × Nat)} (hpg : c.pg = false)
    (hmap : b.map = [])
    (hf : ∀ f ∈ fields, f.1 + f.2.1 ≤ n)
    (ha : c.OffApic ((fieldsCells la.toNat fields).map (·.1)))
    (h : writeFields (.identity la n ts) fields c b = .ok () b1) :
    Wrote (fieldsCells la.toNat fields) b b1 := by
  induction fields generalizing b with
  | nil => cases h; exact .refl _
  | cons f fields ih =>
    obtain ⟨off, k, v⟩ := f
    unfold writeFields at h
    obtain ⟨_, b2, h1, h2⟩ := B.bind_eq_ok h
    have addrs := part_identity (la := la) (ts := ts) (hf _ List.mem_cons_self)
    have cells : ((Phys.identity la n ts).part off k).addrs.zip (leBytes k v) = fieldCells (la.toNat + off) k v := by
      have zip := zip_range (la.toNat + off) (leBytes k v)
      rw [leBytes_length] at zip
      rw [addrs, zip]; rfl
    rw [fieldsCells_cons, List.map_append] at ha
    have hpart : c.OffApic ((Phys.identity la n ts).part off k).addrs := by
      refine ha.mono fun a hmem => List.mem_append_left _ ?_
      rwa [← cells, List.map_fst_zip (by rw [addrs, leBytes_length]; simp)]
    have first := writePhys_wrote hpg hmap (Phys.part_leaves off k rfl) hpart h1
    rw [cells] at first
    exact first.trans (ih (first.map.trans hmap) (fun f hf' => hf f (List.mem_cons_of_mem _ hf'))
      (ha.mono fun a hmem => List.mem_append_right _ hmem) h2)

/-- A locked change of a byte. -/
theorem lockedByte_wrote {la : W32} {ts : List MemType} {f : Nat → Nat} (hpg : c.pg = false) (hmap : b.map = [])
    (ha : c.OffApic [la.toNat]) (h : lockedByte (.identity la 1 ts) f c b = .ok () b1) :
    Wrote [(la.toNat, BitVec.ofNat 8 (f (b.mem.read la.toNat).toNat))] b b1 := by
  have off : (Phys.identity la 1 ts).apicOffset c = none := Cpu.OffApic.offset ha
  have read : readPhys (.identity la 1 ts) c b = .ok [b.mem.read la.toNat] b := by
    simpa [Phys.identity, Memory.readBytes] using readPhys_memory off hmap
  unfold lockedByte at h
  rw [B.bind_ok (speculate_unpaged hpg b), B.bind_ok (run_regs c b), B.bind_ok (run_modBus _ c b)] at h
  have h : storePhys (.identity la 1 ts) (leBytes 1 (f (leNat [b.mem.read la.toNat]))) c b = .ok () b1 :=
    (B.bind_ok read).symm.trans h
  unfold storePhys at h
  rw [B.bind_ok (run_regs c _), B.bind_ok (run_modBus _ c _), off] at h
  cases h
  refine ⟨(Bus.store_mem_of_map hmap c _ _).trans ?_, rfl⟩
  simp [Phys.identity, leNat, leBytes]

end

end Sys2Proof.Machine
end

section
namespace Sys2Proof.Machine

/-! The places that a task switch stores to. -/

section
variable {c : Cpu} {b b1 : Bus} {p : Phys} {la : W32} {n : Nat} {write : Bool}

/-- A part of an access that is not the whole of it ends where a page ends. -/
theorem firstPart_split {la : W32} {n : Nat} (h : firstPart la n ≠ n) :
    0 < firstPart la n ∧ firstPart la n < n ∧ (la.toNat + firstPart la n) % 4096 = 0 := by
  unfold firstPart at *
  omega

theorem identity_head {la : W32} {n : Nat} (ts : List MemType) (hn : 0 < n) :
    (Phys.identity la n ts).addrs.head? = some la.toNat := by
  obtain ⟨m, rfl⟩ := Nat.exists_eq_succ_of_ne_zero hn.ne'
  simp [Phys.identity, List.range_succ_eq_map]

/-- The bytes of a TSS lie at their linear addresses. -/
theorem tssPhys_flat (hc : c.Flat) (hn : n ≤ 4096) (h : tssPhys la n write c b = .ok p b1) :
    b1 = b ∧ ∃ ts, p = .identity la n ts := by
  unfold tssPhys at h
  obtain ⟨q, b2, hq, h⟩ := B.bind_eq_ok h
  obtain ⟨rfl, ts, rfl⟩ := physicalPage_flat hc hq
  rw [B.run_ite] at h
  obtain ⟨hk, h⟩ | ⟨hk, h⟩ := ite_eq_iff.mp h
  · obtain ⟨rfl, rfl⟩ := checkRange_eq h
    exact ⟨rfl, ts, by rw [hk]⟩
  · obtain ⟨r, b3, hr, h⟩ := B.bind_eq_ok h
    have page : physicalPage (la + BitVec.ofNat 32 (firstPart la n)) (n - firstPart la n) write false c b2 = .ok r b3 := by
      unfold presentOrRefuse at hr
      split at hr
      · cases hr
      · exact hr
    obtain ⟨rfl, us, rfl⟩ := physicalPage_flat hc page
    rw [B.run_ite] at h
    obtain ⟨hnext, h⟩ | ⟨hnext, h⟩ := ite_eq_iff.mp h
    · obtain ⟨rfl, rfl⟩ := checkRange_eq h
      obtain ⟨hpos, hlt, hpage⟩ := firstPart_split hk
      have next : (la + BitVec.ofNat 32 (firstPart la n)).toNat = la.toNat + firstPart la n := by
        rw [identity_head _ (by omega), identity_head _ hpos] at hnext
        exact Option.some.inj hnext
      have fits : la.toNat + n ≤ 2 ^ 32 := by
        have := (la + BitVec.ofNat 32 (firstPart la n)).isLt
        omega
      exact ⟨rfl, _, Phys.identity_append ts us hlt fits⟩
    · cases h

/-- The access-rights byte of a descriptor. -/
theorem busyByte_flat (hc : c.Flat) (h : busyByte la c b = .ok p b1) : b1 = b ∧ ∃ ts, p = .identity (la + 5#32) 1 ts := by
  unfold busyByte at h
  obtain ⟨q, b2, hq, h⟩ := B.bind_eq_ok h
  obtain ⟨rfl, rfl⟩ := checkRange_eq h
  exact physical_byte hc hq

/-- The stores to the access-rights byte at `a`, where there is one to change. -/
def busyCells (q : Prop) [Decidable q] (a : Nat) (f : Byte → Byte) (m : Memory) : List (Nat × Byte) :=
  if q then [] else [(a, f (m.read a))]

/-- The busy flag, found before the commit point and changed after it. -/
theorem changeBusy_wrote {q : Prop} [Decidable q] {o : Option Phys} {b2 b3 : Bus} {f : Nat → Nat} {g : Byte → Byte}
    (hc : c.Flat)
    (hg : ∀ v : Byte, BitVec.ofNat 8 (f v.toNat) = g v)
    (hfind : (if q then pure none else some <$> busyByte la) c b = .ok o b1) :
    b1 = b ∧ (b2.map = [] → c.OffApic ((busyCells q (la + 5#32).toNat g b2.mem).map (·.1)) →
      changeBusy o f c b2 = .ok () b3 →
      Wrote (busyCells q (la + 5#32).toNat g b2.mem) b2 b3) := by
  unfold busyCells
  rw [B.run_ite] at hfind
  obtain ⟨hq, hfind⟩ | ⟨hq, hfind⟩ := ite_eq_iff.mp hfind
  · cases hfind
    refine ⟨rfl, fun _ _ h => ?_⟩
    cases h
    rw [if_pos hq]
    exact .refl _
  · rw [← bind_pure_comp] at hfind
    obtain ⟨p, b4, hp, hfind⟩ := B.bind_eq_ok hfind
    cases hfind
    obtain ⟨rfl, ts, rfl⟩ := busyByte_flat hc hp
    refine ⟨rfl, fun hmap ha h => ?_⟩
    rw [if_neg hq] at ha ⊢
    rw [← hg]
    exact lockedByte_wrote hc.2 hmap ha h

end

/-- The fields saved lie in the TSS. -/
theorem savedFields_fit (c : Cpu) (img : Eflags) (eip : W32) (cs : W16) (wide : Bool) :
    ∀ f ∈ savedFields c img eip cs wide, f.1 + f.2.1 ≤ tssSize wide := by
  cases wide <;> simp [savedFields, tssSize]

/-- Where the access-rights byte of the descriptor lies that a selector names in the GDT. -/
def Cpu.busyAt (c : Cpu) (sel : W16) : Nat := (c.gdtr.base + tableOffset sel + 5#32).toNat

theorem busyAt_eq (c : Cpu) (sel : W16) :
    (c.gdtr.base + BitVec.ofNat 32 (8 * (sel.extractLsb' 3 13).toNat + 5)).toNat = c.busyAt sel := by
  unfold Cpu.busyAt tableOffset
  rw [BitVec.add_assoc, BitVec.ofNat_add]

theorem switchCells_eq (s : State) (kind : TaskKind) (sel : W16) (d : Desc) (img : Eflags) (eip : W32) (cs : W16) :
    s.switchCells kind sel d img eip cs =
      let c := s.cpu
      let cells := busyCells (kind.nests || selNull c.tr.sel) (c.busyAt c.tr.sel) (· &&& 0xFD#8) s.bus.mem
        ++ fieldsCells c.tr.base.toNat (savedFields c { img with nt := img.nt && kind != .iret } eip cs (wideTss c.tr.typ))
        ++ if kind.nests then fieldsCells d.base.toNat [(0, 2, c.tr.sel.toNat)] else []
      cells ++ busyCells (kind = .iret) (c.busyAt sel) (· ||| 2#8) (s.bus.mem.writeBytes cells) := by
  have nests : (kind == .call || kind == .int) = kind.nests := by cases kind <;> rfl
  have link (a v : Nat) : fieldsCells a [(0, 2, v)] = fieldCells a 2 v := List.append_nil _
  unfold State.switchCells
  simp only [nests, busyAt_eq, link]
  rfl

theorem ofNat_and_byte (v : Byte) : BitVec.ofNat 8 (v.toNat &&& 0xFD) = v &&& 0xFD#8 := by
  apply BitVec.eq_of_toNat_eq
  simp
theorem ofNat_or_byte (v : Byte) : BitVec.ofNat 8 (v.toNat ||| 2) = v ||| 2#8 := by
  apply BitVec.eq_of_toNat_eq
  simp

end Sys2Proof.Machine
end

section
namespace Sys2Proof.Machine

/-! The task switch as a whole. -/

/-- The steps of a task switch that completes (R700): what each finds, and memory and devices after it. -/
structure SwitchRun (kind : TaskKind) (sel : W16) (img : Eflags) (eip : W32) (cs : W16) (s t : State) where
  (d : Desc) (bytes : List Byte) (old new : Phys) (oldBusy newBusy : Option Phys)
  (b1 b2 b3 b4 b5 b6 b7 b8 b9 b10 b11 : Bus)
  check : checkTss kind sel s.cpu s.bus = .ok d b1
  holds : tssHolds (tssSize (wideTss s.cpu.tr.typ)) s.cpu b1 = .ok () b2
  oldTss : tssPhys s.cpu.tr.base (tssSize (wideTss s.cpu.tr.typ)) true s.cpu b2 = .ok old b3
  newTss : tssPhys d.base (tssSize (wideTss d.typ)) kind.nests s.cpu b3 = .ok new b4
  findOld : (if kind.nests || selNull s.cpu.tr.sel then pure none
    else some <$> busyByte (s.cpu.gdtr.base + tableOffset s.cpu.tr.sel)) s.cpu b4 = .ok oldBusy b5
  findNew : (if kind = .iret then pure none else some <$> busyByte d.la) s.cpu b5 = .ok newBusy b6
  clear : changeBusy oldBusy (· &&& 0xFD) s.cpu b6 = .ok () b7
  save : writeFields old (savedFields s.cpu (if kind = .iret then { img with nt := false } else img) eip cs
    (wideTss s.cpu.tr.typ)) s.cpu b7 = .ok () b8
  link : (if kind.nests then writeFields new [(0, 2, s.cpu.tr.sel.toNat)] else pure ()) s.cpu b8 = .ok () b9
  mark : changeBusy newBusy (· ||| 2) s.cpu b9 = .ok () b10
  read : readPhys new s.cpu b10 = .ok bytes b11
  load : loadTask kind sel d bytes ⟨s.cpu, b11.jumped⟩ = .ok () t

/-- After the commit point a run that completes is the run itself. -/
theorem inNewTask_eq_ok {α : Type} {x : M α} {s t : State} {a : α} (h : inNewTask x s = .ok a t) : x s = .ok a t := by
  unfold inNewTask at h
  split at h
  · cases h
  · exact h

/-- A step on the bus that is left out where a condition fails, and what follows it. -/
theorem optional_eq_ok {q : Prop} [Decidable q] {x : B Unit} {k : Unit → M Unit} {s t : State}
    (h : (if q then onBus x >>= k else k ()) s = .ok () t) :
    ∃ b, (if q then x else pure ()) s.cpu s.bus = .ok () b ∧ k () { s with bus := b } = .ok () t := by
  by_cases hq : q
  · rw [if_pos hq] at h
    obtain ⟨_, u, hx, h⟩ := M.bind_eq_ok h
    obtain ⟨b, hb, rfl⟩ := onBus_eq_ok hx
    exact ⟨b, by rw [if_pos hq]; exact hb, h⟩
  · rw [if_neg hq] at h
    exact ⟨s.bus, by rw [if_neg hq]; rfl, h⟩

section
variable {kind : TaskKind} {sel : W16} {img : Eflags} {eip : W32} {cs : W16} {s t : State}

theorem taskSwitch_run (h : taskSwitch kind sel img eip cs s = .ok () t) : Nonempty (SwitchRun kind sel img eip cs s t) := by
  unfold taskSwitch at h
  rw [M.bind_ok (run_getCpu s)] at h
  obtain ⟨d, s1, h1, h⟩ := M.bind_eq_ok h
  obtain ⟨b1, check, rfl⟩ := onBus_eq_ok h1
  obtain ⟨_, s2, h2, h⟩ := M.bind_eq_ok h
  obtain ⟨b2, holds, rfl⟩ := onBus_eq_ok h2
  obtain ⟨old, s3, h3, h⟩ := M.bind_eq_ok h
  obtain ⟨b3, oldTss, rfl⟩ := onBus_eq_ok h3
  obtain ⟨new, s4, h4, h⟩ := M.bind_eq_ok h
  obtain ⟨b4, newTss, rfl⟩ := onBus_eq_ok h4
  obtain ⟨oldBusy, s5, h5, h⟩ := M.bind_eq_ok h
  obtain ⟨b5, findOld, rfl⟩ := onBus_eq_ok h5
  obtain ⟨newBusy, s6, h6, h⟩ := M.bind_eq_ok h
  obtain ⟨b6, findNew, rfl⟩ := onBus_eq_ok h6
  obtain ⟨_, s7, h7, h⟩ := M.bind_eq_ok h
  obtain ⟨b7, clear, rfl⟩ := onBus_eq_ok h7
  obtain ⟨_, s8, h8, h⟩ := M.bind_eq_ok h
  obtain ⟨b8, save, rfl⟩ := onBus_eq_ok h8
  obtain ⟨b9, link, h⟩ := optional_eq_ok h
  obtain ⟨_, s10, h10, h⟩ := M.bind_eq_ok h
  obtain ⟨b10, mark, rfl⟩ := onBus_eq_ok h10
  obtain ⟨bytes, s11, h11, h⟩ := M.bind_eq_ok h
  obtain ⟨b11, read, rfl⟩ := onBus_eq_ok h11
  exact ⟨⟨d, bytes, old, new, oldBusy, newBusy, b1, b2, b3, b4, b5, b6, b7, b8, b9, b10, b11, check, holds, oldTss, newTss,
    findOld, findNew, clear, save, link, mark, read, inNewTask_eq_ok h⟩⟩

/-- What follows a check that passes. -/
theorem raiseIf_next {α : Type} {q : Bool} {e : Exc} {k : Unit → B α} {r : α} {c : Cpu} {b b1 : Bus}
    (h : (raiseIf q e >>= k) c b = .ok r b1) : k () c b = .ok r b1 := by
  obtain ⟨_, b2, hq, hk⟩ := B.bind_eq_ok h
  obtain ⟨-, rfl⟩ := raiseIf_eq_ok hq
  exact hk

/-- The descriptor of the new TSS lies in the GDT. -/
theorem checkTss_at {c : Cpu} {b b1 : Bus} {d : Desc} (h : checkTss kind sel c b = .ok d b1) :
    (d.la + 5#32).toNat = c.busyAt sel := by
  unfold checkTss at h
  obtain ⟨_, b2, hsel, hfetch⟩ := B.bind_eq_ok h
  have global : selTi sel = false := (Bool.or_eq_false_iff.mp (raiseIf_eq_ok hsel).1).2
  obtain ⟨d', b3, hd, hkind⟩ := B.bind_eq_ok hfetch
  have limit {b : Bus} {q : Bool} {e : Exc} (h : (raiseIf q e >>= fun _ => pure d') c b = .ok d b1) : d' = d := by
    cases raiseIf_next h; rfl
  have same : d' = d := by
    cases kind
    case iret =>
      have present := raiseIf_next hkind
      have busy := raiseIf_next present
      exact limit (raiseIf_next busy)
    all_goals
      have present := raiseIf_next hkind
      exact limit (raiseIf_next present)
  rw [← same, fetchDesc_at (fetchOr_eq_ok hd), Cpu.rightsAt, global]
  exact busyAt_eq c sel

theorem Cpu.offApic_append {c : Cpu} {as bs : List Nat} : c.OffApic (as ++ bs) ↔ c.OffApic as ∧ c.OffApic bs :=
  List.forall_mem_append

/-- The image of EFLAGS that the old task's TSS gets: IRET clears NT in it. -/
theorem savedImage_eq (kind : TaskKind) (img : Eflags) :
    (if kind = .iret then { img with nt := false } else img) = { img with nt := img.nt && kind != .iret } := by
  by_cases h : kind = .iret
  · rw [if_pos h, h, bne_self_eq_false, Bool.and_false]
  · rw [if_neg h, bne_iff_ne.mpr h, Bool.and_true]

/-- The link to the old task is stored by a call or an interrupt. -/
theorem writeLink_wrote {q : Prop} [Decidable q] {c : Cpu} {b b1 : Bus} {la : W32} {n v : Nat} {ts : List MemType}
    (hpg : c.pg = false) (hmap : b.map = []) (hn : 2 ≤ n)
    (ha : c.OffApic ((if q then fieldsCells la.toNat [(0, 2, v)] else []).map (·.1)))
    (h : (if q then writeFields (.identity la n ts) [(0, 2, v)] else pure ()) c b = .ok () b1) :
    Wrote (if q then fieldsCells la.toNat [(0, 2, v)] else []) b b1 := by
  by_cases hq : q
  · rw [if_pos hq] at ha h ⊢
    exact writeFields_wrote hpg hmap (by simpa using hn) ha h
  · rw [if_neg hq] at h ⊢
    cases h
    exact .refl _

/-- The memory that a task switch leaves before the new task is loaded, and the bytes of the new TSS. -/
theorem SwitchRun.stores (h : SwitchRun kind sel img eip cs s t) (hc : s.cpu.Flat) (hmap : s.bus.map = [])
    (ha : s.cpu.OffApic ((s.switchCells kind sel h.d img eip cs).map (·.1)
      ++ (List.range (tssSize (wideTss h.d.typ))).map (h.d.base.toNat + ·))) :
    h.b11.mem = s.bus.mem.writeBytes (s.switchCells kind sel h.d img eip cs)
      ∧ h.bytes = h.b11.mem.readBytes ((List.range (tssSize (wideTss h.d.typ))).map (h.d.base.toNat + ·)) := by
  have size (w : Bool) : 2 ≤ tssSize w ∧ tssSize w ≤ 4096 := by cases w <;> decide
  rw [switchCells_eq] at ha ⊢
  simp only [List.map_append, Cpu.offApic_append] at ha
  obtain ⟨⟨⟨⟨offOld, offSave⟩, offLink⟩, offNew⟩, offTss⟩ := ha
  obtain ⟨mem1, map1⟩ := (looks_checkTss hc kind sel).same _ _ _ h.check
  have e2 : h.b2 = h.b1 := (raiseIf_eq_ok h.holds).2
  obtain ⟨e3, ts, old⟩ := tssPhys_flat hc (size _).2 h.oldTss
  obtain ⟨e4, us, new⟩ := tssPhys_flat hc (size _).2 h.newTss
  obtain ⟨e5, clear⟩ := changeBusy_wrote (b2 := h.b6) (b3 := h.b7) (f := (· &&& 0xFD)) (g := (· &&& 0xFD#8)) hc
    ofNat_and_byte h.findOld
  obtain ⟨e6, mark⟩ := changeBusy_wrote (b2 := h.b9) (b3 := h.b10) (f := (· ||| 2)) (g := (· ||| 2#8)) hc
    ofNat_or_byte h.findNew
  have mem6 : h.b6.mem = s.bus.mem := by rw [e6, e5, e4, e3, e2, mem1]
  have map6 : h.b6.map = [] := by rw [e6, e5, e4, e3, e2, map1, hmap]
  rw [mem6] at clear
  rw [checkTss_at h.check] at mark
  have clear := clear map6 offOld h.clear
  have save := writeFields_wrote hc.2 (clear.map.trans map6) (savedFields_fit _ _ _ _ _) offSave
    (old ▸ savedImage_eq kind img ▸ h.save)
  have link := writeLink_wrote hc.2 (save.map.trans (clear.map.trans map6)) (size _).1 offLink (new ▸ h.link)
  have before := (clear.trans save).trans link
  have mem9 := before.mem
  rw [mem6] at mem9
  rw [mem9] at mark
  have all := before.trans (mark (before.map.trans map6) offNew h.mark)
  have tss := readPhys_memory (p := h.new) (b := h.b10) (new ▸ Cpu.OffApic.offset (p := .identity h.d.base _ us) offTss)
    (all.map.trans map6)
  obtain ⟨bytes, last⟩ := EStateM.Result.ok.inj (h.read.symm.trans tss)
  rw [last]
  refine ⟨mem6 ▸ all.mem, ?_⟩
  rw [bytes, new]
  rfl

end

/-- Settles O24. -/
theorem taskSwitchSavesAndLoadsTasks : Obligations.TaskSwitchSavesAndLoadsTasks := by
  unfold Obligations.TaskSwitchSavesAndLoadsTasks
  refine ⟨fun s t osz sel tss off d b1 b2 kind i hprot hop hn hd hsys hsel hx => ?_, fun s t osz link b1 hprot hnt => ?_,
    fun s g i v e b t => ⟨fun hi hprot h => ?_, ?_⟩, fun kind sel img eip cs s t h => ?_⟩
  · have far (off : W32) : farTransfer kind osz sel off { s.past with bus := b1 } = .ok () t :=
      farTransfer_task (s := { s.past with bus := b1 }) hprot hn hd hsys hsel hx
    rcases hop with ⟨p, rfl, hp, rfl⟩ | ⟨m, v, rfl, hm⟩
    · cases kind with
      | jmp => exact (farInstr_ptr hp fun s => by unfold exec; rfl).next t (far off)
      | call => exact (farInstr_ptr hp fun s => by unfold exec; rfl).next t (far off)
    · cases kind with
      | jmp => exact (farInstr_mem hm fun s => by unfold exec; rfl).next t (far _)
      | call => exact (farInstr_mem hm fun s => by unfold exec; rfl).next t (far _)
  · intro c hl hlink hx
    exact exec_next (iret_nested (s := s.past) hprot hnt hl hlink hx)
  · have hv : s.cpu.v86 = false := by
      obtain ⟨-, hvm⟩ := Cpu.prot_iff.mp hprot
      simp [Cpu.v86, hvm]
    exact softInterrupt_delivered hi hv (deliverTask_ok h)
  · intro d h
    exact raises_delivered (deliverTask_ok (s := ⟨s.cpu.taking e, b⟩) h)
  · obtain ⟨run⟩ := taskSwitch_run h
    obtain ⟨loaded, mem⟩ := loadTask_eq_ok run.load
    refine ⟨run.d, run.b1, run.bytes, run.check, loaded, fun hpe hpg hmap hwf => ?_⟩
    intro cells tss ha
    obtain ⟨stored, bytes⟩ := run.stores ⟨hpe, hpg⟩ hmap ha
    exact ⟨stored ▸ bytes, fun a hs => (mem ⟨hpe, hpg⟩ a hs).trans (congrArg (·.read a) stored)⟩

end Sys2Proof.Machine
end

section
namespace Sys2Proof.Machine

/-! The gates of the x87, MMX and SSE instructions, and what a pending x87 error does to them (R742, R745). -/

/-- A check before a computation: an exception where it fails. -/
theorem run_unless {α : Type} (q : Prop) [Decidable q] (e : Exc) (k : PUnit → M α) (s : State) :
    (if q then (raise e >>= k) else k ⟨⟩) s = if q then .error (.exc e) s else k ⟨⟩ s := by
  split <;> rfl

/-- How a pending x87 error stops an instruction: with #MF where CR0.NE = 1, else by holding it up. -/
def Cpu.fpuStop (c : Cpu) : Stop := if bit c.ctl.cr0 5 then .exc .mf else .wait

theorem gatePending_eq (s : State) :
    gatePending s = if s.fpuPending then .error s.cpu.fpuStop s else .ok () s := by
  unfold gatePending Cpu.fpuStop
  cases s.fpuPending
  · rfl
  · rw [if_neg (by decide), if_pos rfl]
    split <;> rfl

theorem gateX87_eq (s : State) :
    gateX87 s = if bit s.cpu.ctl.cr0 2 || bit s.cpu.ctl.cr0 3 then .error (.exc .nm) s else .ok () s := by
  unfold gateX87
  rw [M.bind_ok (run_getCpu s), run_ite]
  rfl

theorem gateWait_eq (s : State) :
    gateWait s = if bit s.cpu.ctl.cr0 1 && bit s.cpu.ctl.cr0 3 then .error (.exc .nm) s else gatePending s := by
  unfold gateWait
  rw [M.bind_ok (run_getCpu s), run_unless]

theorem gateMmx_eq (s : State) :
    gateMmx s = if bit s.cpu.ctl.cr0 2 then .error (.exc .ud) s
      else if bit s.cpu.ctl.cr0 3 then .error (.exc .nm) s else gatePending s := by
  unfold gateMmx
  rw [M.bind_ok (run_getCpu s), run_unless]
  dsimp only
  rw [run_unless]

theorem gateSse_eq (s : State) :
    gateSse s = if bit s.cpu.ctl.cr0 2 || !bit s.cpu.ctl.cr4 9 then .error (.exc .ud) s
      else if bit s.cpu.ctl.cr0 3 then .error (.exc .nm) s else .ok () s := by
  unfold gateSse
  rw [M.bind_ok (run_getCpu s), run_unless]
  dsimp only
  rw [run_ite]
  rfl

section
variable {s : State}

theorem gatePending_passes (h : s.fpuPending = false) : gatePending s = .ok () s := by
  rw [gatePending_eq, h, if_neg Bool.false_ne_true]

theorem gatePending_stops (h : s.fpuPending = true) : gatePending s = .error s.cpu.fpuStop s := by
  rw [gatePending_eq, if_pos h]

theorem gateX87_raises (h : (bit s.cpu.ctl.cr0 2 || bit s.cpu.ctl.cr0 3) = true) :
    gateX87 s = .error (.exc .nm) s := by
  rw [gateX87_eq, if_pos h]

theorem gateX87_passes (h : (bit s.cpu.ctl.cr0 2 || bit s.cpu.ctl.cr0 3) = false) : gateX87 s = .ok () s := by
  rw [gateX87_eq, h, if_neg Bool.false_ne_true]

theorem gateWait_raises (hmp : bit s.cpu.ctl.cr0 1 = true) (hts : bit s.cpu.ctl.cr0 3 = true) :
    gateWait s = .error (.exc .nm) s := by
  rw [gateWait_eq, hmp, hts]
  rfl

theorem gateWait_passes (h : ¬(bit s.cpu.ctl.cr0 1 = true ∧ bit s.cpu.ctl.cr0 3 = true)) :
    gateWait s = gatePending s := by
  rw [gateWait_eq, if_neg (mt (Bool.and_eq_true _ _).mp h)]

theorem gateMmx_emulated (h : bit s.cpu.ctl.cr0 2 = true) : gateMmx s = .error (.exc .ud) s := by
  rw [gateMmx_eq, if_pos h]

theorem gateMmx_switched (hem : bit s.cpu.ctl.cr0 2 = false) (hts : bit s.cpu.ctl.cr0 3 = true) :
    gateMmx s = .error (.exc .nm) s := by
  rw [gateMmx_eq, hem, hts]
  rfl

theorem gateMmx_passes (hem : bit s.cpu.ctl.cr0 2 = false) (hts : bit s.cpu.ctl.cr0 3 = false) :
    gateMmx s = gatePending s := by
  rw [gateMmx_eq, hem, hts]
  rfl

theorem gateSse_disabled (h : bit s.cpu.ctl.cr0 2 = true ∨ bit s.cpu.ctl.cr4 9 = false) :
    gateSse s = .error (.exc .ud) s := by
  rw [gateSse_eq]
  obtain h | h := h <;> simp only [h, Bool.true_or, Bool.not_false, Bool.or_true, if_true]

theorem gateSse_switched (hem : bit s.cpu.ctl.cr0 2 = false) (hos : bit s.cpu.ctl.cr4 9 = true)
    (hts : bit s.cpu.ctl.cr0 3 = true) : gateSse s = .error (.exc .nm) s := by
  rw [gateSse_eq, hem, hos, hts]
  rfl

theorem gateSse_passes (hem : bit s.cpu.ctl.cr0 2 = false) (hos : bit s.cpu.ctl.cr4 9 = true)
    (hts : bit s.cpu.ctl.cr0 3 = false) : gateSse s = .ok () s := by
  rw [gateSse_eq, hem, hos, hts]
  rfl

/-- An instruction that is held up has done nothing. -/
theorem exec_waits {i : Instr} {x : M Unit} (h : x s.past = .error .wait s.past)
    (e : ∀ s, exec i s = runInstr x s := by intro; unfold exec; rfl) : exec i s = s.waits := by
  rw [e]
  show (match x s.past with | .ok _ t => Host.Outcome.next t | .error e t => stopped s t e) = _
  rw [h]
  rfl

/-- An instruction that a pending x87 error stops. -/
theorem exec_fpuStop {i : Instr} {x : M Unit} (h : x s.past = .error s.cpu.fpuStop s.past)
    (e : ∀ s, exec i s = runInstr x s := by intro; unfold exec; rfl) :
    if bit s.cpu.ctl.cr0 5 then exec i s = s.raises .mf s.bus else exec i s = s.waits := by
  unfold Cpu.fpuStop at h
  split_ifs at h ⊢
  · exact exec_raises h rfl rfl e
  · exact exec_waits h e

end

/-! WAIT, FNINIT, EMMS, LDMXCSR and STMXCSR. -/

theorem fninitOp_ok {s : State} (h : gateX87 s = .ok () s) :
    fninitOp s = .ok () { s with cpu := { s.cpu with fpu := s.cpu.fpu.init } } :=
  M.bind_ok h

theorem emmsOp_ok {s : State} (h : gateMmx s = .ok () s) :
    emmsOp s = .ok ()
      { s with cpu := { s.cpu with fpu.tw := 0xFFFF#16, fpu.sw := s.cpu.fpu.sw &&& 0xC7FF#16 } } :=
  M.bind_ok h

theorem mxcsrBad_iff (v : W32) : mxcsrBad v = true ↔ v &&& 0xFFFF0040#32 ≠ 0#32 := bne_iff_ne

/-- LDMXCSR of a value that could be read. -/
theorem ldmxcsrOp_read {s t : State} {m : MemOp} {v : W32} (hg : gateSse s = .ok () s)
    (hv : loadMem 32 m 4 s = .ok v t) :
    ldmxcsrOp m s = if mxcsrBad v then .error (.exc (.gp 0#32)) t
      else .ok () { t with cpu := { t.cpu with sse.mxcsr := v } } := by
  unfold ldmxcsrOp
  rw [M.bind_ok hg, M.bind_ok hv, run_unless]
  rfl

theorem stmxcsrOp_ok {s : State} {m : MemOp} {p : Phys} {b2 : Bus} (hg : gateSse s = .ok () s)
    (h : Writes s.cpu s.bus m.segment (m.off s.cpu) 4 s.cpu.sse.mxcsr.toNat p b2) :
    stmxcsrOp m s = .ok () { s with bus := b2 } := by
  unfold stmxcsrOp
  rw [M.bind_ok hg, M.bind_ok (run_getCpu s)]
  exact storeMem_ok (w := 32) h

/-- LDMXCSR and STMXCSR begin with the same gate. -/
theorem exec_mxcsr_gated {s : State} {e : Exc} (m : MemOp) (h : gateSse s.past = .error (.exc e) s.past)
    (hc : e.commit = false) :
    exec (.ldmxcsr m) s = s.raises e s.bus ∧ exec (.stmxcsr m) s = s.raises e s.bus :=
  ⟨exec_raises (x := ldmxcsrOp m) (M.bind_error h) hc rfl, exec_raises (x := stmxcsrOp m) (M.bind_error h) hc rfl⟩

/-- Settles O51: each instruction by the outcomes of its gate. -/
theorem fpuSseControl : Obligations.FpuSseControl := by
  unfold Obligations.FpuSseControl
  intro s mp em ts ne pending raises
  have stops (hp : pending = true) : gatePending s.past = .error s.cpu.fpuStop s.past := gatePending_stops hp
  have passes (hp : pending = false) : gatePending s.past = .ok () s.past := gatePending_passes hp
  refine ⟨fun ⟨hmp, hts⟩ => ?_, fun h => ⟨fun hp => ?_, fun hp => ?_⟩, fun h => ?_, fun hem hts => ?_, fun hem => ?_,
    fun hem hts => ?_, fun hem hts => ?_, fun m => ⟨fun h => ?_, fun hem hos => ⟨fun hts => ?_, fun hts => ?_⟩⟩⟩
  · exact exec_raises (x := waitOp) (gateWait_raises (s := s.past) hmp hts) rfl rfl
  · exact exec_fpuStop (x := waitOp) ((gateWait_passes (s := s.past) h).trans (stops hp))
  · exact exec_next (x := waitOp) ((gateWait_passes (s := s.past) h).trans (passes hp))
  · exact exec_raises (x := fninitOp) (M.bind_error (gateX87_raises (s := s.past) ((Bool.or_eq_true _ _).mpr h))) rfl rfl
  · exact exec_next (fninitOp_ok (s := s.past) (gateX87_passes (Bool.or_eq_false_iff.mpr ⟨hem, hts⟩)))
  · exact exec_raises (x := emmsOp) (M.bind_error (gateMmx_emulated (s := s.past) hem)) rfl rfl
  · exact exec_raises (x := emmsOp) (M.bind_error (gateMmx_switched (s := s.past) hem hts)) rfl rfl
  · have gate := gateMmx_passes (s := s.past) hem hts
    exact ⟨fun hp => exec_fpuStop (x := emmsOp) (M.bind_error (gate.trans (stops hp))),
      fun hp => exec_next (emmsOp_ok (gate.trans (passes hp)))⟩
  · exact exec_mxcsr_gated m (gateSse_disabled (s := s.past) h) rfl
  · exact exec_mxcsr_gated m (gateSse_switched (s := s.past) hem hos hts) rfl
  · have gate := gateSse_passes (s := s.past) hem hos hts
    refine ⟨fun v b1 hv => ⟨fun hok => ?_, fun hbad => ?_, ?_⟩, fun p b2 h => ⟨?_, ?_⟩⟩
    · exact exec_next ((ldmxcsrOp_read gate hv).trans (if_neg (mt (mxcsrBad_iff v).mp (not_not.mpr hok))))
    · exact exec_raises ((ldmxcsrOp_read gate hv).trans (if_pos ((mxcsrBad_iff v).mpr hbad))) rfl rfl
    · exact ((reading_loadMem 32 m 4).stored hv).cpu rfl
    · exact exec_next (stmxcsrOp_ok gate h)
    · exact h.stored.cpu rfl

end Sys2Proof.Machine
end

section
namespace Sys2Proof.Machine

/-! FXSAVE and FXRSTOR. -/

section
variable {s : State} {m : MemOp}

theorem fxArea_misaligned {write : Bool} (h : ((s.cpu.seg.get m.segment).linear (m.off s.cpu)).toNat % 16 ≠ 0) :
    fxArea m write s = .error (.exc (.gp 0#32)) s := by
  unfold fxArea
  rw [M.bind_ok (run_getCpu s)]
  exact (run_unless _ _ _ s).trans (if_pos h)

theorem fxArea_ok {write : Bool} {p : Phys} {b : Bus}
    (ha : ((s.cpu.seg.get m.segment).linear (m.off s.cpu)).toNat % 16 = 0)
    (hp : memPrepare m.segment (m.off s.cpu) 512 1 write s.cpu s.bus = .ok p b) :
    fxArea m write s = .ok p { s with bus := b } := by
  unfold fxArea
  rw [M.bind_ok (run_getCpu s)]
  exact ((run_unless _ _ _ s).trans (if_neg (not_not.mpr ha))).trans (onBus_ok hp)

/-- FXSAVE past its gates. -/
theorem fxsaveOp_ok {p : Phys} {b1 b2 : Bus} (hg : gateX87 s = .ok () s) (hp : gatePending s = .ok () s)
    (ha : fxArea m true s = .ok p { s with bus := b1 })
    (hw : writePhys p (image Config.fxPlace (Config.fxOther b1.freeCtr) (s.cpu.fxBytes (Config.freeWord b1.freeCtr)))
      s.cpu { b1 with freeCtr := b1.freeCtr + 1 } = .ok () b2) :
    fxsaveOp m s = .ok () { s with bus := b2 } := by
  unfold fxsaveOp
  rw [M.bind_ok hg, M.bind_ok hp, M.bind_ok ha, M.bind_ok (run_getCpu _)]
  refine onBus_ok ?_
  rw [B.bind_ok (run_getBus _ _), B.bind_ok (run_free _ _)]
  exact hw

/-- FXRSTOR past its gates, with an image that could be read. -/
theorem fxrstorOp_read {p : Phys} {img : List Byte} {b1 b2 : Bus} (hg : gateX87 s = .ok () s)
    (hp : gatePending s = .ok () s) (ha : fxArea m false s = .ok p { s with bus := b1 })
    (hr : readPhys p s.cpu b1 = .ok img b2) :
    let f := Fpu.ofBytes (unimage Config.fxPlace img 100)
    let x := Sse.ofBytes ((unimage Config.fxPlace img 232).drop 100)
    fxrstorOp m s =
      if bit s.cpu.ctl.cr4 9 then
        if mxcsrBad x.mxcsr then .error (.exc (.gp 0#32)) { s with bus := b2 }
        else .ok () { cpu := { s.cpu with fpu := f, sse := x }, bus := b2 }
      else .ok () { cpu := { s.cpu with fpu := f }, bus := b2 } := by
  unfold fxrstorOp
  rw [M.bind_ok hg, M.bind_ok hp, M.bind_ok ha, M.bind_ok (onBus_ok hr), M.bind_ok (run_getCpu _), run_ite]
  dsimp only
  rw [run_unless]
  rfl

end

/-- FXSAVE and FXRSTOR begin with the same two gates, and then find their area. -/
theorem exec_fx_raises {s : State} {e : Exc} (m : MemOp) (hc : e.commit = false)
    (h : ∀ (write : Bool) (f : Phys → M Unit),
      (gateX87 >>= fun _ => gatePending >>= fun _ => fxArea m write >>= f) s.past = .error (.exc e) s.past) :
    exec (.fxsave m) s = s.raises e s.bus ∧ exec (.fxrstor m) s = s.raises e s.bus :=
  ⟨exec_raises (h true _) hc rfl, exec_raises (h false _) hc rfl⟩

/-- Settles O52: the gates, the area, and then the store or the load of the image. -/
theorem fxsaveFxrstorImage : Obligations.FxsaveFxrstorImage := by
  unfold Obligations.FxsaveFxrstorImage
  intro s m off pending
  have gate (ho : off = false) : gateX87 s.past = .ok () s.past := gateX87_passes ho
  have stops (hp : pending = true) : gatePending s.past = .error s.cpu.fpuStop s.past := gatePending_stops hp
  have passes (hp : pending = false) : gatePending s.past = .ok () s.past := gatePending_passes hp
  refine ⟨fun ho => ?_, fun ho hp => ?_, fun ho hp hal => ?_, fun ho hp hal => ⟨fun p b1 b2 hprep hw => ⟨?_, ?_⟩,
    fun img b1 himg => ?_⟩⟩
  · exact exec_fx_raises m rfl fun _ _ => M.bind_error (gateX87_raises (s := s.past) ho)
  · have stop (f : M Unit) :
        (gateX87 >>= fun _ => gatePending >>= fun _ => f) s.past = .error s.cpu.fpuStop s.past :=
      (M.bind_ok (gate ho)).trans (M.bind_error (stops hp))
    have save := exec_fpuStop (i := .fxsave m) (stop _)
    have restore := exec_fpuStop (i := .fxrstor m) (stop _)
    split_ifs at save restore ⊢ <;> exact ⟨save, restore⟩
  · exact exec_fx_raises m rfl fun _ _ => (M.bind_ok (gate ho)).trans
      ((M.bind_ok (passes hp)).trans (M.bind_error (fxArea_misaligned (s := s.past) hal)))
  · exact exec_next (fxsaveOp_ok (gate ho) (passes hp) (fxArea_ok (s := s.past) hal hprep) hw)
  · have written := B.after_ok hw ▸ writePhys_stored _ _ (memPrepare_leaves hprep)
    have counted : Stored s.past.cpu p.addrs b1 b2 := .trans id (.of_mem_eq rfl) written
    exact ((quiet_memPrepare _ _ _ _ _).then_stored hprep counted).cpu rfl
  · obtain ⟨p, b0, hprep, hread⟩ := B.bind_eq_ok himg
    have run := fxrstorOp_read (gate ho) (passes hp) (fxArea_ok (s := s.past) hal hprep) hread
    refine ⟨fun hos => ?_, fun hos hok => ?_, fun hos hbad => ?_, ((quiet_memBytes _ _ _ _).ok himg).cpu rfl⟩
    · exact exec_next (run.trans (if_neg (ne_true_of_eq_false hos)))
    · exact exec_next ((run.trans (if_pos hos)).trans (if_neg (mt (mxcsrBad_iff _).mp (not_not.mpr hok))))
    · exact exec_raises ((run.trans (if_pos hos)).trans (if_pos ((mxcsrBad_iff _).mpr hbad))) rfl rfl

end Sys2Proof.Machine
end

section
namespace Sys2Proof.Machine

/-! IRET in real-address and virtual-8086 mode. -/

/-- The state that IRET leaves, `t` being the one before its last steps: a 32-bit image keeps RF, and IRET serializes. -/
def State.iretDone (t : State) (osz : OpSize) : State :=
  { cpu := { t.cpu with notes.keepRf := t.cpu.notes.keepRf || osz == .w32 }, bus := t.bus.serialized }

/-- A 16-bit image keeps no RF. -/
theorem State.iretDone_w16 (t : State) : t.iretDone .w16 = { t with bus := t.bus.serialized } := by
  unfold State.iretDone
  rw [show (OpSize.w16 == OpSize.w32) = false from rfl, Bool.or_false]

section
variable {osz : OpSize} {s t : State} {mask v w img : W32} {b1 b2 b3 : Bus}

/-- IRET without a check of privilege: in real-address mode, and in virtual-8086 mode with IOPL = 3. -/
theorem iret_unchecked
    (h : (s.cpu.pe = false ∧ mask = if osz = .w16 then 0xFFFF#32 else 0x257FD5#32)
      ∨ (s.cpu.v86 = true ∧ s.cpu.fl.iopl = 3#2 ∧ mask = if osz = .w16 then 0xCFFF#32 else 0x254FD5#32))
    (hx : iretReal osz mask ⟨s.cpu.nmiEnabled, s.bus⟩ = .ok () t) : iret osz s = .ok () (t.iretDone osz) := by
  unfold iret
  rw [M.bind_ok (run_getCpu s), M.bind_ok (run_modCpu _ s), run_ite]
  rcases h with ⟨hpe, rfl⟩ | ⟨hv, hiopl, rfl⟩
  · rw [if_pos (by simp [hpe])]
    cases osz <;> exact M.bind_ok hx
  · obtain ⟨hpe, hvm⟩ := Cpu.v86_iff.mp hv
    rw [if_neg (by simp [hpe]), run_ite, if_pos hvm, run_ite, if_pos hiopl]
    cases osz <;> exact M.bind_ok hx

/-- IRET in virtual-8086 mode with IOPL < 3 is refused, or is the 16-bit form of CR4.VME. -/
theorem iret_restricted (hv : s.cpu.v86 = true) (hiopl : s.cpu.fl.iopl ≠ 3#2) : iret osz s =
    (do
      if bit s.cpu.ctl.cr4 0 && osz = .w16 then iretVme else raise (.gp 0#32)
      modCpu fun c => { c with notes.keepRf := c.notes.keepRf || osz == .w32 }
      serialize : M Unit) ⟨s.cpu.nmiEnabled, s.bus⟩ := by
  obtain ⟨hpe, hvm⟩ := Cpu.v86_iff.mp hv
  unfold iret
  rw [M.bind_ok (run_getCpu s), M.bind_ok (run_modCpu _ s), run_ite, if_neg (by simp [hpe]), run_ite, if_pos hvm, run_ite,
    if_neg hiopl]

/-- The three slots are read, and the offset is in the code segment. -/
theorem iretReal_ok (hv : peekW osz 0 s = .ok v { s with bus := b1 })
    (hw : peekW osz osz.bytes { s with bus := b1 } = .ok w { s with bus := b2 })
    (hi : peekW osz (2 * osz.bytes) { s with bus := b2 } = .ok img { s with bus := b3 })
    (ht : (truncEip osz v).toNat ≤ s.cpu.seg.cs.limit.toNat) :
    iretReal osz mask s = .ok ()
      { cpu := { s.cpu.setEsp (s.cpu.stackMove (BitVec.ofNat 32 (3 * osz.bytes))) with
          fl := s.cpu.fl.merge (.ofBits img) mask
          seg.cs := s.cpu.seg.cs.paragraph (w.extractLsb' 0 16), eip := truncEip osz v }
        bus := b3.jumped } :=
  (M.bind_ok hv).trans ((M.bind_ok hw).trans ((M.bind_ok hi).trans (M.bind_ok (farReal_ok (s := { s with bus := b3 }) ht))))

section
variable (hv : peekW .w16 0 s = .ok v { s with bus := b1 })
  (hw : peekW .w16 2 { s with bus := b1 } = .ok w { s with bus := b2 })
  (hi : peekW .w16 4 { s with bus := b2 } = .ok img { s with bus := b3 })
include hv hw hi

/-- The form with CR4.VME reads its three slots, then looks at VIP. -/
theorem iretVme_read :
    iretVme s =
      (do
        onBus (raiseIf (bit img 9 && s.cpu.fl.vip) (.gp 0#32))
        farReal (w.extractLsb' 0 16) v
        release 6
        modFl fun f => { f.merge (.ofBits img) 0xCFFF#32 with vif := bit img 9 } : M Unit) { s with bus := b3 } :=
  (M.bind_ok hv).trans ((M.bind_ok hw).trans ((M.bind_ok hi).trans (M.bind_ok (run_getCpu _))))

/-- IF is to be set while a virtual interrupt is pending. -/
theorem iretVme_pending (hp : (bit img 9 && s.cpu.fl.vip) = true) :
    iretVme s = .error (.exc (.gp 0#32)) { s with bus := b3 } :=
  (iretVme_read hv hw hi).trans (M.bind_error (onBus_error (raiseIf_pos hp _ _ _)))

/-- The form with CR4.VME completes. -/
theorem iretVme_ok (hp : (bit img 9 && s.cpu.fl.vip) = false) (ht : v.toNat ≤ s.cpu.seg.cs.limit.toNat) :
    iretVme s = .ok ()
      { cpu := { s.cpu.setEsp (s.cpu.stackMove 6#32) with
          fl := { s.cpu.fl.merge (.ofBits img) 0xCFFF#32 with vif := bit img 9 }
          seg.cs := s.cpu.seg.cs.paragraph (w.extractLsb' 0 16), eip := v }
        bus := b3.jumped } :=
  (iretVme_read hv hw hi).trans ((M.bind_ok (onBus_ok (raiseIf_neg hp _ _ _))).trans
    (M.bind_ok (farReal_ok (s := { s with bus := b3 }) ht)))

end

end

/-- Settles O32. -/
theorem iretInRealAndVirtual8086Mode : Obligations.IretInRealAndVirtual8086Mode := by
  unfold Obligations.IretInRealAndVirtual8086Mode
  intro s osz c
  refine ⟨fun eip cs img mask b1 b2 b3 hmode hv hw hi ht => ?_, fun hv86 hiopl => ?_⟩
  · refine ⟨?_, ((iret_reads (s := ⟨c, s.bus⟩) hv hw hi).cpu rfl).stored⟩
    exact exec_next (iret_unchecked (s := s.past) hmode (iretReal_ok (s := ⟨c, s.bus⟩) hv hw hi ht))
  have restricted := iret_restricted (osz := osz) (s := s.past) hv86 hiopl
  refine ⟨fun hform => ?_, fun eip cs img b1 b2 b3 hvme hosz hv hw hi => ?_⟩
  · have form : ¬(bit s.past.cpu.ctl.cr4 0 && decide (osz = .w16)) = true := by
      rcases hform with h | rfl
      · rw [State.past_ctl, h]; simp
      · simp
    rw [if_neg form] at restricted
    exact exec_raises restricted rfl rfl
  · subst hosz
    rw [if_pos (by simp [hvme])] at restricted
    refine ⟨fun hif hvip => ?_, fun hclear ht => ?_, ((iret_reads (s := ⟨c, s.bus⟩) hv hw hi).cpu rfl).stored⟩
    · have pending : (bit img 9 && s.cpu.fl.vip) = true := by rw [hif, hvip]; rfl
      exact exec_raises (restricted.trans (M.bind_error (iretVme_pending (s := ⟨c, s.bus⟩) hv hw hi pending))) rfl rfl
    · have clear : (bit img 9 && s.cpu.fl.vip) = false := by simpa using hclear
      have run : iret .w16 s.past = .ok () (State.iretDone
          { cpu := { c.setEsp (s.cpu.stackMove 6#32) with
              fl := { s.cpu.fl.merge (.ofBits img) 0xCFFF#32 with vif := bit img 9 }
              seg.cs := s.cpu.seg.cs.paragraph (cs.extractLsb' 0 16), eip := eip }
            bus := b3.jumped } .w16) :=
        restricted.trans (M.bind_ok (iretVme_ok (s := ⟨c, s.bus⟩) hv hw hi clear ht))
      rw [State.iretDone_w16] at run
      exact exec_next run

end Sys2Proof.Machine
end

section
namespace Sys2Proof.Machine

/-! Deliveries from virtual-8086 mode. -/

/-- Slots are pushed one after the other, then `x` runs. -/
theorem Pushes.run {osz : OpSize} {vs : List Slot} {c c1 : Cpu} {b b1 : Bus} {as : List Nat}
    (h : Pushes osz vs c b as c1 b1) (x : M Unit) :
    vs.foldr (fun v y => v.push osz >>= fun _ => y) x ⟨c, b⟩ = x ⟨c1, b1⟩ := by
  induction vs generalizing c b as with
  | nil => obtain ⟨-, rfl, rfl⟩ := h; rfl
  | cons v vs ih =>
    obtain ⟨b2, rest, hpush, hrest⟩ := Pushes.step (s := ⟨c, b⟩) h
    exact (M.bind_ok hpush).trans (ih hrest)

/-- Pushing two lists of slots. -/
theorem Pushes.append {osz : OpSize} {vs ws : List Slot} {c c1 : Cpu} {b b1 : Bus} {as : List Nat}
    (h : Pushes osz (vs ++ ws) c b as c1 b1) :
    ∃ c2 b2 as1 as2, Pushes osz vs c b as1 c2 b2 ∧ Pushes osz ws c2 b2 as2 c1 b1 := by
  induction vs generalizing c b as with
  | nil => exact ⟨c, b, [], as, ⟨rfl, rfl, rfl⟩, h⟩
  | cons v vs ih =>
    obtain ⟨p, b2, rest, hw, hrest, -⟩ := h
    obtain ⟨c3, b3, as1, as2, hvs, hws⟩ := ih hrest
    exact ⟨c3, b3, _, as2, ⟨p, b2, as1, hw, hvs, rfl⟩, hws⟩

/-- The error code of a delivery is pushed, if there is one. -/
theorem pushCode_ok {osz : OpSize} {d : Delivery} {s : State} {as : List Nat} {c1 : Cpu} {b1 : Bus}
    (h : Pushes osz (d.code.toList.map (.code d.codeMask)) s.cpu s.bus as c1 b1) : pushCode osz d s = .ok () ⟨c1, b1⟩ := by
  rw [pushCode_slots]
  cases hc : d.code with
  | none =>
    rw [hc] at h
    obtain ⟨-, rfl, rfl⟩ := h
    rfl
  | some v =>
    rw [hc] at h
    exact (Pushes.slotPush h).1

/-- The frame of a gate delivery is pushed. -/
theorem pushFrame_ok {osz : OpSize} {d : Delivery} {img : Eflags} {s : State} {as : List Nat} {c1 : Cpu} {b1 : Bus}
    (h : Pushes osz (d.frame img) s.cpu s.bus as c1 b1) : pushFrame osz d img s = .ok () ⟨c1, b1⟩ := by
  obtain ⟨c2, b2, _, _, hptr, hcode⟩ := h.append
  exact (hptr.run (pushCode osz d)).trans (pushCode_ok (s := ⟨c2, b2⟩) hcode)

section
variable {d : Delivery} {g t : Desc} {as : List Nat} {c1 : Cpu}

/-- Delivery in virtual-8086 mode once the gate and the handler's segment are found. -/
theorem deliverProt_v86 {s : State} {b1 b2 : Bus} (hvm : s.cpu.fl.vm = true) (hsys : g.isSys [5] = false)
    (hg : idtGate d s.cpu s.bus = .ok g b1) (hcode : handlerCode g s.cpu b1 = .ok t b2) :
    deliverProt d s = deliverV86 d g t { s with bus := b2 } := by
  unfold deliverProt
  rw [M.bind_ok (run_getCpu s), M.bind_ok (onBus_ok hg), hsys]
  refine (M.bind_ok (onBus_ok (s := { s with bus := b1 }) hcode)).trans ?_
  rw [run_ite, if_pos hvm]

/-- A possible delivery from virtual-8086 mode. -/
theorem deliverOnce_v86 {s : State} {b6 : Bus} (h : V86Gate d s.cpu s.bus g t as c1 b6) :
    deliverOnce d s = .ok () { cpu := c1.inGateHandler d g t 0#2, bus := b6.jumped } := by
  obtain ⟨hv, hr, hsys, ht, b1, b2, b3, b4, b5, st, as1, c2, hg, hcode, hst, hroom, hacc, hp, hc1, hset, -⟩ := h
  obtain ⟨hpe, hvm⟩ := Cpu.v86_iff.mp hv
  have nulled : c1 = { c2 with
      seg.gs := c2.seg.gs.nulled 0#16, seg.fs := c2.seg.fs.nulled 0#16
      seg.ds := c2.seg.ds.nulled 0#16, seg.es := c2.seg.es.nulled 0#16 } := by
    obtain ⟨esp, rfl⟩ := hp.regs
    exact hc1
  obtain ⟨c3, b7, _, _, hold, hframe⟩ := hp.append
  rw [← Bus.jumped_jumped b6]
  refine deliverOnce_ok (t := ⟨{ c1.setCs g.gateSel t 0#2 with eip := t.ipOf g.gateOff, fl := c1.fl.inHandler g },
    b6.jumped⟩) hr ?_
  rw [if_pos hpe, deliverProt_v86 hvm hsys hg hcode]
  unfold deliverV86
  rw [M.bind_ok (run_getCpu _), M.bind_ok (onBus_ok (s := { s with bus := b2 }) hst),
    M.bind_ok (onBus_ok (s := { s with bus := b3 }) hroom), M.bind_ok (onBus_ok (checkEip_ok ht)),
    M.bind_ok (switchStack_ok (s := { s with bus := b3 }) hacc), M.bind_ok (run_modFl _ _)]
  refine (hold.run _).trans ((M.bind_ok (pushFrame_ok (s := ⟨c3, b7⟩) hframe)).trans ((M.bind_ok (run_modCpu _ _)).trans ?_))
  rw [← nulled]
  exact M.bind_ok (loadCs_ok (s := ⟨c1, b5⟩) hset)

/-- What a delivery from virtual-8086 mode stores. -/
theorem V86Gate.stores {c : Cpu} {b b6 : Bus} (h : V86Gate d c b g t as c1 b6) : Stores c as b b6 := by
  obtain ⟨-, -, -, -, b1, b2, b3, b4, b5, st, as1, c2, hg, hcode, hst, hroom, hacc, hp, rfl, hset, rfl⟩ := h
  obtain ⟨esp, rfl⟩ := hp.regs
  have checks : Stores c [] b b3 := ((quiet_idtGate d).stores hg).trans ((quiet_handlerCode g).stores hcode) |>.trans
    ((quiet_innerStack _).stores hst) |>.trans ((quiet_roomOn _ _).stores hroom)
  exact checks.trans (setAccessed_stores hacc |>.trans (hp.stores.cpu rfl) |>.trans ((setAccessed_stores hset).cpu rfl))

end

/-! INT n in virtual-8086 mode. -/

section
variable {s : State} {v : Byte} {b : Bus}

/-- Whether INT n is redirected (`r`), memory and devices being `b` by then: never without CR4.VME, else the map decides. -/
inductive Redirection (v : Byte) (s : State) : Bool → Bus → Prop
  | off (h : bit s.cpu.ctl.cr4 0 = false) : Redirection v s false s.bus
  | map {r : Bool} {b : Bus} (h : bit s.cpu.ctl.cr4 0 = true) (hr : redirected v s.cpu s.bus = .ok r b) :
    Redirection v s r b

/-- Table 16-2: the redirection bit, then IOPL. -/
theorem intOp_v86 {r : Bool} (hv : s.cpu.v86 = true) (hr : Redirection v s r b) : intOp v s =
    (if r then redirect v else if s.cpu.fl.iopl = 3#2 then softInt v else raise (.gp 0#32) : M Unit) { s with bus := b } := by
  have decided : (if bit s.cpu.ctl.cr4 0 then redirected v else pure false : B Bool) s.cpu s.bus = .ok r b := by
    cases hr with
    | off h => rw [h]; rfl
    | map h hr => rw [h]; exact hr
  unfold intOp
  rw [M.bind_ok (run_getCpu s), run_ite, if_pos hv]
  exact (M.bind_ok (run_getCpu s)).trans (M.bind_ok (onBus_ok decided))

/-- Not redirected, with IOPL = 3: the protected-mode handler. -/
theorem intOp_v86_softInt (hv : s.cpu.v86 = true) (hiopl : s.cpu.fl.iopl = 3#2) (hr : Redirection v s false b) :
    intOp v s = softInt v { s with bus := b } := by
  rw [intOp_v86 hv hr, if_neg (by decide), run_ite, if_pos hiopl]

/-- Not redirected, with IOPL < 3. -/
theorem intOp_v86_gp (hv : s.cpu.v86 = true) (hiopl : s.cpu.fl.iopl ≠ 3#2) (hr : Redirection v s false b) :
    intOp v s = .error (.exc (.gp 0#32)) { s with bus := b } := by
  rw [intOp_v86 hv hr, if_neg (by decide), run_ite, if_neg hiopl]
  rfl

/-- The flags with which a redirected INT n enters the handler of the 8086 program (R849). -/
theorem redirect_flags (f : Eflags) :
    { f with if_ := f.if_ && f.iopl != 3#2, vif := f.vif && f.iopl == 3#2, tf := false } =
      if f.iopl = 3#2 then { f with if_ := false, tf := false } else { f with vif := false, tf := false } := by
  split
  · next h => simp [h]
  · next h => simp [h]

/-- A redirected INT n pushes on the 8086 program's stack and goes through its table. -/
theorem redirect_ok {as : List Nat} {c1 : Cpu} {b1 b2 : Bus} {entry : List Byte}
    (hp : Pushes .w16 [.word (redirectImage s.cpu).toBits, .sel s.cpu.seg.cs.sel, .word s.cpu.eip] s.cpu s.bus as c1 b1)
    (he : linBytes (4#32 * v.setWidth 32) 4 true c1 b1 = .ok entry b2) :
    let e : W32 := BitVec.ofNat 32 (leNat entry)
    redirect v s = .ok ()
      { cpu := ({ c1 with
          fl := if s.cpu.fl.iopl = 3#2 then { s.cpu.fl with if_ := false, tf := false }
            else { s.cpu.fl with vif := false, tf := false }
          seg.cs := s.cpu.seg.cs.paragraph (e.extractLsb' 16 16), eip := (e.extractLsb' 0 16).setWidth 32
          notes.branched := true } : Cpu).recordException s.cpu.notes.start ((e.extractLsb' 0 16).setWidth 32)
        bus := b2.jumped } := by
  intro e
  obtain ⟨esp, hc1⟩ := hp.regs
  rw [← redirect_flags]
  unfold redirect
  rw [M.bind_ok (run_getCpu s)]
  refine (hp.run _).trans ((M.bind_ok (onBus_ok (s := ⟨c1, b1⟩) he)).trans ?_)
  subst hc1
  rfl

end

/-- Settles O31. -/
theorem virtual8086InterruptsFollowTable : Obligations.Virtual8086InterruptsFollowTable := by
  unfold Obligations.Virtual8086InterruptsFollowTable
  refine ⟨fun s i v b g t as c1 b6 hi => ?_, fun s e b g t as c1 b6 => ?_, fun s v hv => ⟨fun hvme hiopl => ?_,
    fun b hvme hiopl hr => ?_, fun b b1 b2 as c1 entry hvme hr => ?_⟩⟩
  · intro d h
    refine ⟨?_, h.stores.stored.cpu rfl⟩
    have soft : softInt v { s.past with bus := b } = .ok () ⟨c1.inGateHandler d g t 0#2, b6.jumped⟩ :=
      (M.bind_ok (run_getCpu _)).trans (deliverOnce_v86 h)
    have intN (hiopl : s.cpu.fl.iopl = 3#2) (hr : Redirection v s.past false b) :
        exec (.intN v) s = .next ⟨c1.inGateHandler d g t 0#2, b6.jumped⟩ :=
      exec_next (x := intOp v) ((intOp_v86_softInt (s := s.past) h.1 hiopl hr).trans soft)
    rcases hi with ⟨rfl, rfl, rfl⟩ | ⟨rfl, rfl, hof, rfl⟩ | ⟨rfl, hiopl, hvme, rfl⟩ | ⟨rfl, hiopl, hvme, hr⟩
    · exact exec_next (x := softInt 3#8) soft
    · refine exec_next (x := do if (← getCpu).fl.of then softInt 4#8) ?_
      rw [M.bind_ok (run_getCpu _), run_ite, if_pos (c := s.past.cpu.fl.of = true) hof]
      exact soft
    · exact intN hiopl (.off hvme)
    · exact intN hiopl (.map hvme hr)
  · intro d h
    exact ⟨raises_delivered (deliverOnce_v86 (s := ⟨s.cpu.taking e, b⟩) h), h.stores.stored.cpu rfl⟩
  · exact exec_raises (intOp_v86_gp (s := s.past) hv hiopl (.off hvme)) rfl rfl
  · exact ⟨exec_raises (intOp_v86_gp (s := s.past) hv hiopl (.map hvme hr)) rfl rfl, ((quiet_redirected v).ok hr).cpu rfl⟩
  · intro outer img hp he e
    have run : intOp v s.past = redirect v { s.past with bus := b } := by
      rw [intOp_v86 (s := s.past) hv (.map hvme hr), if_pos rfl]
    refine ⟨exec_next (x := intOp v) (run.trans (redirect_ok (s := { s.past with bus := b }) hp he)), ?_⟩
    obtain ⟨esp, rfl⟩ := hp.regs
    have stores := ((quiet_redirected v).stores hr).trans hp.stores |>.trans (((quiet_linBytes _ _ _).stores he).cpu rfl)
    rw [List.append_nil, List.nil_append] at stores
    exact stores.stored.cpu rfl

end Sys2Proof.Machine
end

section
namespace Sys2Proof.Machine

/-! NOP, LEA and SFENCE. -/

/-- Settles O15: its meaning is empty. -/
theorem nopOnlyAdvances : Obligations.NopOnlyAdvances := by
  unfold Obligations.NopOnlyAdvances
  exact ⟨fun d => by cases d <;> rfl, fun s => exec_next (x := pure ()) rfl⟩

theorem writeRm_reg_ok (osz : OpSize) (r : Gpr) (v : BitVec osz.bits) (s : State) :
    writeRm osz (.reg r) v s = .ok () { s with cpu := { s.cpu with gpr := s.cpu.gpr.setV osz r v } } := rfl

theorem writeRm8_reg_ok (r : Gpr8) (v : Byte) (s : State) :
    writeRm8 (.reg r) v s = .ok () { s with cpu := { s.cpu with gpr := s.cpu.gpr.set8 r v } } := rfl

/-- Settles O16: a register write, and an empty meaning. -/
theorem leaWritesAddressSfenceOnlyAdvances : Obligations.LeaWritesAddressSfenceOnlyAdvances := by
  unfold Obligations.LeaWritesAddressSfenceOnlyAdvances
  intro s osz r m
  refine ⟨exec_next (x := do writeRm osz (.reg r) ((m.off (← getCpu)).setWidth osz.bits)) ?_,
    exec_next (x := pure ()) rfl⟩
  exact (M.bind_ok (run_getCpu s.past)).trans (writeRm_reg_ok osz r _ s.past)

end Sys2Proof.Machine
end

section
namespace Sys2Proof.Machine

/-! Operands of 8 bits, as their counterparts of the operand size. -/

theorem reading_readRm8 : (rm : Rm8) → Reading (readRm8 rm)
  | .reg _ => .withCpu fun _ => .pure _
  | .mem m => reading_loadMem 8 m _

theorem writeRm8_mem_ok {m : MemOp} {v : Byte} {s : State} {p : Phys} {b2 : Bus}
    (h : Writes s.cpu s.bus m.segment (m.off s.cpu) 1 v.toNat p b2) :
    writeRm8 (.mem m) v s = .ok () { s with bus := b2 } := storeMem_ok (w := 8) h

/-- What an instruction that reads its operand first has stored by then. -/
theorem readRm8_stored {rm : Rm8} {s : State} {y : Byte} {b1 : Bus}
    (h : readRm8 rm s.past = .ok y { s.past with bus := b1 }) : Stored s.cpu [] s.bus b1 :=
  ((reading_readRm8 rm).stored h).cpu rfl

theorem readRm_stored {osz : OpSize} {rm : Rm} {s : State} {y : BitVec osz.bits} {b1 : Bus}
    (h : readRm osz rm s.past = .ok y { s.past with bus := b1 }) : Stored s.cpu [] s.bus b1 :=
  ((reading_readRm osz rm).stored h).cpu rfl

/-- An instruction whose meaning is one store. -/
theorem exec_store {i : Instr} {x : M Unit} {s : State} {seg : Seg} {off : W32} {n v : Nat} {p : Phys} {b2 : Bus}
    (h : Writes s.past.cpu s.bus seg off n v p b2) (hx : x s.past = .ok () { s.past with bus := b2 })
    (e : ∀ s, exec i s = runInstr x s := by intro; unfold exec; rfl) :
    exec i s = .next { s.past with bus := b2 } ∧ Stored s.cpu p.addrs s.bus b2 :=
  ⟨exec_next hx e, h.stored.cpu rfl⟩

/-! MOV. -/

/-- Settles O14: what is read, or given, is written. -/
theorem movCopiesOperand : Obligations.MovCopiesOperand := by
  unfold Obligations.MovCopiesOperand
  refine ⟨fun s d d8 => ⟨fun x imm => ⟨?_, ?_, ?_⟩, fun osz x => ?_, fun imm => ⟨?_, ?_⟩, fun rm v b1 h => ?_,
    fun osz rm v b1 h => ?_⟩, fun s m p b2 => ⟨fun x h => ?_, fun imm h => ?_, fun osz x h => ?_, fun imm h => ?_⟩⟩
  · exact exec_next (x := do writeRm8 (.reg d8) ((← getCpu).gpr.get8 x)) (writeRm8_reg_ok d8 _ s.past)
  · exact exec_next (writeRm8_reg_ok d8 imm s.past)
  · exact exec_next (writeRm8_reg_ok d8 imm s.past)
  · exact exec_next (x := do writeRm osz (.reg d) ((← getCpu).gpr.getV osz x)) (writeRm_reg_ok osz d _ s.past)
  · exact exec_next (writeRm_reg_ok imm.size d imm.val s.past)
  · exact exec_next (writeRm_reg_ok imm.size d imm.val s.past)
  · exact ⟨exec_next (x := do writeRm8 (.reg d8) (← readRm8 rm)) ((M.bind_ok h).trans (writeRm8_reg_ok d8 v _)),
      readRm8_stored h⟩
  · exact ⟨exec_next (x := do writeRm osz (.reg d) (← readRm osz rm)) ((M.bind_ok h).trans (writeRm_reg_ok osz d v _)),
      readRm_stored h⟩
  · have store := writeRm8_mem_ok (v := s.cpu.gpr.get8 x) (s := s.past) h
    exact exec_store (x := do writeRm8 (.mem m) ((← getCpu).gpr.get8 x)) h ((M.bind_ok (run_getCpu s.past)).trans store)
  · exact exec_store h (writeRm8_mem_ok (s := s.past) h)
  · have store := writeRm_mem_ok (v := s.cpu.gpr.getV osz x) (s := s.past) h
    exact exec_store (x := do writeRm osz (.mem m) ((← getCpu).gpr.getV osz x)) h
      ((M.bind_ok (run_getCpu s.past)).trans store)
  · exact exec_store h (writeRm_mem_ok (s := s.past) h)

/-! INC, DEC and XCHG. -/

theorem incRmOp_reg (lock : Bool) (osz : OpSize) (r : Gpr) (s : State) : incRmOp lock osz (.reg r) s = .ok ()
    { s with cpu := { s.cpu with
        gpr := s.cpu.gpr.setV osz r (s.cpu.gpr.getV osz r + 1#osz.bits), fl := s.cpu.fl.inc (s.cpu.gpr.getV osz r) } }
    := rfl

theorem decRmOp_reg (lock : Bool) (osz : OpSize) (r : Gpr) (s : State) : decRmOp lock osz (.reg r) s = .ok ()
    { s with cpu := { s.cpu with
        gpr := s.cpu.gpr.setV osz r (s.cpu.gpr.getV osz r - 1#osz.bits), fl := s.cpu.fl.dec (s.cpu.gpr.getV osz r) } }
    := rfl

theorem incRm8Op_reg (lock : Bool) (r : Gpr8) (s : State) : incRm8Op lock (.reg r) s = .ok ()
    { s with cpu := { s.cpu with
        gpr := s.cpu.gpr.set8 r (s.cpu.gpr.get8 r + 1#8), fl := s.cpu.fl.inc (s.cpu.gpr.get8 r) } } := rfl

theorem decRm8Op_reg (lock : Bool) (r : Gpr8) (s : State) : decRm8Op lock (.reg r) s = .ok ()
    { s with cpu := { s.cpu with
        gpr := s.cpu.gpr.set8 r (s.cpu.gpr.get8 r - 1#8), fl := s.cpu.fl.dec (s.cpu.gpr.get8 r) } } := rfl

theorem xchg8_reg (x y : Gpr8) (s : State) : xchg8 (.reg x) y s = .ok ()
    { s with cpu := { s.cpu with gpr := (s.cpu.gpr.set8 y (s.cpu.gpr.get8 x)).set8 x (s.cpu.gpr.get8 y) } } := rfl

theorem xchg_reg (osz : OpSize) (x y : Gpr) (s : State) : xchg osz (.reg x) y s = .ok ()
    { s with cpu := { s.cpu with
        gpr := (s.cpu.gpr.setV osz y (s.cpu.gpr.getV osz x)).setV osz x (s.cpu.gpr.getV osz y) } } := rfl

/-- An instruction that reads a place in memory, computes with `f` and writes the answer back. -/
theorem exec_modifyMem {i : Instr} {w : Nat} {lock : Bool} {m : MemOp} {s : State} {x y : BitVec w} {k : Nat} {p : Phys}
    {b2 : Bus} {c1 : Cpu} (f : BitVec w → M (BitVec w))
    (h : Modifies lock s.past.cpu s.bus m.segment (m.off s.cpu) x y k p b2)
    (hf : ∀ b1, f x { s.past with bus := b1 } = .ok y { cpu := c1, bus := { b1 with freeCtr := b1.freeCtr + k } })
    (hm : c1.msr = s.cpu.msr) (hc : c1.ctl = s.cpu.ctl)
    (e : ∀ s, exec i s = runInstr (modifyMem lock w m f) s := by intro; unfold exec; rfl) :
    exec i s = .next { cpu := c1, bus := b2 } ∧ Stored s.cpu p.addrs s.bus b2 :=
  ⟨exec_next (modifyMem_ok (s := s.past) h hf hm hc) e, h.stored.cpu rfl⟩

/-- Settles O12: each form is a read-modify-write of a register or of memory. -/
theorem incDecStepByOneKeepCarry : Obligations.IncDecStepByOneKeepCarry := by
  unfold Obligations.IncDecStepByOneKeepCarry
  refine fun s lock => ⟨fun osz r => ?_, fun r => ?_, fun osz m x p b2 => ⟨fun h => ?_, fun h => ?_⟩,
    fun m x p b2 => ⟨fun h => ?_, fun h => ?_⟩⟩
  · exact ⟨exec_next (incRmOp_reg false osz r s.past), exec_next (incRmOp_reg lock osz r s.past),
      exec_next (decRmOp_reg false osz r s.past), exec_next (decRmOp_reg lock osz r s.past)⟩
  · exact ⟨exec_next (incRm8Op_reg lock r s.past), exec_next (decRm8Op_reg lock r s.past)⟩
  · exact exec_modifyMem (fun a => do modFl (·.inc a); return a + 1#osz.bits) h (fun _ => rfl) rfl rfl
  · exact exec_modifyMem (fun a => do modFl (·.dec a); return a - 1#osz.bits) h (fun _ => rfl) rfl rfl
  · exact exec_modifyMem (fun a => do modFl (·.inc a); return a + 1#8) h (fun _ => rfl) rfl rfl
  · exact exec_modifyMem (fun a => do modFl (·.dec a); return a - 1#8) h (fun _ => rfl) rfl rfl

/-- Settles O17: the other register takes the value read, which its own value replaces. -/
theorem xchgSwapsOperands : Obligations.XchgSwapsOperands := by
  unfold Obligations.XchgSwapsOperands
  refine fun s lock => ⟨fun x y => ?_, fun osz x y => ⟨?_, ?_⟩, fun m p b2 => ⟨fun r x h => ?_, fun osz r x h => ?_⟩⟩
  · exact exec_next (xchg8_reg x y s.past)
  · exact exec_next (xchg_reg osz x y s.past)
  · exact exec_next (xchg_reg osz .eax y s.past)
  · exact exec_modifyMem (fun a => do
      let b := (← getCpu).gpr.get8 r
      modGpr (·.set8 r a)
      return b) h (fun _ => rfl) rfl rfl
  · exact exec_modifyMem (fun a => do
      let b := (← getCpu).gpr.getV osz r
      modGpr (·.setV osz r a)
      return b) h (fun _ => rfl) rfl rfl

end Sys2Proof.Machine
end

section
namespace Sys2Proof.Machine

/-! Near jumps. -/

/-- A jump within the code segment ends at its target, or raises #GP(0). -/
theorem exec_nearJump {i : Instr} {x : M Unit} {s : State} {t : W32} {b : Bus}
    (hx : x s.past = nearJump t { s.past with bus := b })
    (e : ∀ s, exec i s = runInstr x s := by intro; unfold exec; rfl) :
    exec i s = if t.toNat ≤ s.cpu.seg.cs.limit.toNat then
        .next { cpu := { s.past.cpu with eip := s.cpu.ipOf t }, bus := b.jumped }
      else s.raises (.gp 0#32) b := by
  split
  · next h =>
    have jump := nearJump_ok (s := { s.past with bus := b }) h
    rw [Cpu.cutEip_eq] at jump
    exact exec_next (hx.trans jump) e
  · next h => exact exec_raises (hx.trans (nearJump_far (s := { s.past with bus := b }) (Nat.not_le.mp h))) rfl rfl e

/-- So does Jcc, if its condition holds; else it goes on. -/
theorem exec_jcc {i : Instr} {osz : OpSize} {cc : Cond} {rel : W32} (s : State)
    (e : ∀ s, exec i s = runInstr (jccOp osz cc rel) s := by intro; unfold exec; rfl) :
    exec i s = if !cc.holds s.cpu.fl then .next s.past
      else if (truncEip osz (s.cpu.nextEip + rel)).toNat ≤ s.cpu.seg.cs.limit.toNat then
        .next { cpu := { s.past.cpu with eip := s.cpu.ipOf (truncEip osz (s.cpu.nextEip + rel)) }, bus := s.bus.jumped }
      else s.raises (.gp 0#32) s.bus := by
  have run : jccOp osz cc rel s.past = (if cc.holds s.cpu.fl then jmpRelOp osz rel else pure () : M Unit) s.past := rfl
  cases h : cc.holds s.cpu.fl with
  | false => exact exec_next (run.trans (by rw [h]; rfl)) e
  | true => exact exec_nearJump (run.trans (by rw [h]; rfl)) e

/-- Settles O19: each form comes to a jump within the segment. -/
theorem nearJumpsGoToTarget : Obligations.NearJumpsGoToTarget := by
  unfold Obligations.NearJumpsGoToTarget
  refine ⟨fun s i osz target taken hi => ?_, fun s osz m v b1 hv => ⟨?_, readRm_stored hv⟩⟩
  · rcases hi with ⟨cc, rel, rfl, rfl, rfl, rfl⟩ | ⟨cc, rel, rfl, rfl, rfl⟩ | ⟨rel, rfl, rfl, rfl, rfl⟩
      | ⟨rel, rfl, rfl, rfl⟩ | ⟨r, rfl, rfl, rfl⟩
    · exact exec_jcc s
    · exact exec_jcc s
    · exact exec_nearJump (x := jmpRelOp rel.size (relValue rel)) rfl
    · exact exec_nearJump (x := jmpRelOp osz (rel.signExtend 32)) rfl
    · exact exec_nearJump (x := do nearJump (← rmTarget osz (.reg r))) rfl
  · have width : (v.setWidth 32).toNat = v.toNat := BitVec.toNat_setWidth_of_le (by cases osz <;> decide)
    have target : rmTarget osz (.mem m) s.past = .ok (v.setWidth 32) { s.past with bus := b1 } := M.bind_ok hv
    rw [← width]
    exact exec_nearJump (x := do nearJump (← rmTarget osz (.mem m))) (M.bind_ok target)

end Sys2Proof.Machine
end

section
namespace Sys2Proof.Machine

/-! ADD, SUB, CMP, INC and DEC: what the flags say of the numbers (R581). -/

theorem saddOverflow_iff_toInt_ne {w : Nat} (x y : BitVec w) :
    x.saddOverflow y = true ↔ (x + y).toInt ≠ x.toInt + y.toInt := by
  refine ⟨fun h e => ?_, fun h => by_contra fun hn => h (BitVec.toInt_add_of_not_saddOverflow hn)⟩
  have lo := BitVec.le_toInt (x + y)
  have hi := BitVec.toInt_lt (x := x + y)
  simp only [BitVec.saddOverflow, Bool.or_eq_true, decide_eq_true_eq] at h
  omega

theorem ssubOverflow_iff_toInt_ne {w : Nat} (x y : BitVec w) :
    x.ssubOverflow y = true ↔ (x - y).toInt ≠ x.toInt - y.toInt := by
  refine ⟨fun h e => ?_, fun h => by_contra fun hn => h (BitVec.toInt_sub_of_not_ssubOverflow hn)⟩
  have lo := BitVec.le_toInt (x - y)
  have hi := BitVec.toInt_lt (x := x - y)
  simp only [BitVec.ssubOverflow, Bool.or_eq_true, decide_eq_true_eq] at h
  omega

theorem msb_iff_toInt_neg {w : Nat} (r : BitVec w) : r.msb = true ↔ r.toInt < 0 := by
  rw [BitVec.msb_eq_toInt, decide_eq_true_eq]

/-- In the sum of two numbers, bit 4 differs from the bits added by the carry out of the low four bits. -/
theorem auxCarry_add_iff {w : Nat} (hw : 8 ≤ w) (x y : BitVec w) :
    (x ^^^ y ^^^ (x + y)).getLsbD 4 = true ↔ x.toNat % 16 + y.toNat % 16 ≥ 16 := by
  have carry : BitVec.carry 4 x y false = true ↔ x.toNat % 16 + y.toNat % 16 ≥ 16 := by simp [BitVec.carry]
  rw [BitVec.getLsbD_xor, BitVec.getLsbD_xor, BitVec.getLsbD_add (by omega), ← carry]
  cases x.getLsbD 4 <;> cases y.getLsbD 4 <;> simp

/-- The borrow of a difference is the carry of the sum that gives the minuend back. -/
theorem auxBorrow_sub_iff {w : Nat} (hw : 8 ≤ w) (x y : BitVec w) :
    (x ^^^ y ^^^ (x - y)).getLsbD 4 = true ↔ x.toNat % 16 < y.toNat % 16 := by
  have back : x - y + y = x := BitVec.sub_add_cancel x y
  have swap : x ^^^ y ^^^ (x - y) = (x - y) ^^^ y ^^^ (x - y + y) := by
    rw [back, BitVec.xor_comm, BitVec.xor_comm x y, BitVec.xor_assoc]
  have low : ((x - y).toNat + y.toNat) % 16 = x.toNat % 16 := by
    have dvd : 16 ∣ 2 ^ w := pow_dvd_pow 2 (by omega : 4 ≤ w)
    rw [← Nat.mod_mod_of_dvd _ dvd, ← BitVec.toNat_add, back]
  rw [swap, auxCarry_add_iff hw]
  omega

/-- Whether a property holds an odd number of times in a list. -/
theorem odd_length_filter {α : Type} (p : α → Bool) (l : List α) :
    decide ((l.filter p).length % 2 = 1) = (l.map p).foldr xor false := by
  induction l with
  | nil => rfl
  | cons a l ih =>
    rw [List.map_cons, List.foldr_cons, ← ih, List.filter_cons]
    cases p a
    · simp
    · by_cases odd : (l.filter p).length % 2 = 1
      · simp [odd, Nat.add_mod]
      · simp [odd, show ((l.filter p).length + 1) % 2 = 1 by omega]

theorem parity_iff_even {w : Nat} (r : BitVec w) :
    parity r = true ↔ ((List.range 8).filter fun k => r.getLsbD k).length % 2 = 0 := by
  have odd := odd_length_filter (fun k => r.getLsbD k) (List.range 8)
  have bits : (((List.range 8).map fun k => r.getLsbD k).foldr xor false) = !parity r := by
    simp [List.range_succ, parity]
  rw [bits] at odd
  cases h : parity r <;> simp [h] at odd ⊢ <;> omega

section
variable {w : Nat} (f : Eflags) (x y : BitVec w)

theorem add_of_iff : (f.add x y).of = true ↔ (x + y).toInt ≠ x.toInt + y.toInt := by
  rw [← saddOverflow_iff_toInt_ne, BitVec.saddOverflow_eq]
  rfl

theorem sub_of_iff : (f.sub x y).of = true ↔ (x - y).toInt ≠ x.toInt - y.toInt := by
  have signs : x.ssubOverflow y = (x.msb != y.msb && (x - y).msb != x.msb) := by
    rw [BitVec.ssubOverflow_eq]
    cases x.msb <;> cases y.msb <;> simp
  rw [← ssubOverflow_iff_toInt_ne, signs]
  rfl

end

/-- Settles O11, flag by flag. -/
theorem addSubFlagsFollowResult : Obligations.AddSubFlagsFollowResult := by
  unfold Obligations.AddSubFlagsFollowResult
  intro w f x y hw a d
  exact ⟨decide_eq_true_iff, decide_eq_true_iff, add_of_iff f x y, sub_of_iff f x y,
    auxCarry_add_iff hw x y, auxBorrow_sub_iff hw x y,
    beq_iff_eq, beq_iff_eq.trans sub_eq_zero, msb_iff_toInt_neg _, msb_iff_toInt_neg _, parity_iff_even _,
    parity_iff_even _, rfl, rfl, rfl⟩

end Sys2Proof.Machine
end

section
namespace Sys2Proof.Machine

/-! The two-operand operations. Each form leaves the general registers it says and the flags of its operands. -/

section
variable {w : Nat}

/-- The free value that a logic operation gives AF. -/
def Alu.openAf (op : Alu) (b : Bus) : Bool := op.isLogic && (Config.freeWord b.freeCtr).getLsbD 0

/-- The state that an operation on `x` and `y` leaves, with the general registers `g`. -/
def Alu.leave (op : Alu) (s : State) (g : Gprs) (x y : BitVec w) : State :=
  { cpu := { s.cpu with gpr := g, fl := op.flags s.cpu.fl x y (op.openAf s.bus) }
    bus := { s.bus with freeCtr := s.bus.freeCtr + op.frees } }

/-- The flags of an operation, with AF taken from themselves: where AF is undefined, it is the free value they took. -/
theorem Alu.flags_af (op : Alu) (f : Eflags) (x y : BitVec w) (af : Bool) :
    op.flags f x y (op.flags f x y af).af = op.flags f x y af := by
  cases op <;> rfl

theorem Alu.leave_leaves (op : Alu) (s : State) (g : Gprs) (b1 : Bus) (x y : BitVec w) :
    op.Leaves s (op.leave { s.past with bus := b1 } g x y) g b1 x y := by
  refine ⟨?_, rfl⟩
  have af := op.flags_af s.cpu.fl x y (op.openAf b1)
  exact congrArg (fun fl => { s.past.cpu with gpr := g, fl := fl }) af.symm

theorem alu_eq (op : Alu) (x y : BitVec w) (s : State) :
    alu op x y s = .ok (op.result x y) (op.leave s s.cpu.gpr x y) := by
  cases op <;> rfl

theorem testOp_eq (x y : BitVec w) (s : State) : testOp x y s = .ok () (Alu.and.leave s s.cpu.gpr x y) := rfl

/-- An instruction whose meaning ends as an operation leaves it. -/
theorem Alu.exec_leaves {i : Instr} {m : M Unit} {op : Alu} {s : State} {g : Gprs} {b1 : Bus} {x y : BitVec w}
    (h : m s.past = .ok () (op.leave { s.past with bus := b1 } g x y))
    (e : ∀ s, exec i s = runInstr m s := by intro; unfold exec; rfl) :
    ∃ t, exec i s = .next t ∧ op.Leaves s t g b1 x y :=
  ⟨_, exec_next h e, op.leave_leaves s g b1 x y⟩

end

/-! The forms with a register as destination. -/

/-- The general registers that a form with a byte register as destination leaves: CMP writes none. -/
def Alu.gprs8 (op : Alu) (g : Gprs) (d : Gpr8) (y : Byte) : Gprs :=
  if op = .cmp then g else g.set8 d (op.result (g.get8 d) y)

/-- The same for a register of the operand size. -/
def Alu.gprs (op : Alu) (g : Gprs) (osz : OpSize) (d : Gpr) (y : BitVec osz.bits) : Gprs :=
  if op = .cmp then g else g.setV osz d (op.result (g.getV osz d) y)

theorem aluRm8_reg (lock : Bool) (op : Alu) (d : Gpr8) (src : Cpu → Byte) (s : State) :
    aluRm8 lock op (.reg d) src s
      = .ok () (op.leave s (op.gprs8 s.cpu.gpr d (src s.cpu)) (s.cpu.gpr.get8 d) (src s.cpu)) := by
  cases op <;> rfl

theorem aluRm_reg (lock : Bool) (op : Alu) (osz : OpSize) (d : Gpr) (src : Cpu → BitVec osz.bits) (s : State) :
    aluRm lock op osz (.reg d) src s
      = .ok () (op.leave s (op.gprs s.cpu.gpr osz d (src s.cpu)) (s.cpu.gpr.getV osz d) (src s.cpu)) := by
  cases op <;> rfl

theorem aluR8_ok {op : Alu} {r : Gpr8} {rm : Rm8} {s : State} {y : Byte} {b1 : Bus}
    (h : readRm8 rm s = .ok y { s with bus := b1 }) :
    aluR8 op r rm s = .ok () (op.leave { s with bus := b1 } (op.gprs8 s.cpu.gpr r y) (s.cpu.gpr.get8 r) y) := by
  refine (M.bind_ok h).trans ?_
  cases op <;> rfl

theorem aluR_ok {op : Alu} {osz : OpSize} {r : Gpr} {rm : Rm} {s : State} {y : BitVec osz.bits} {b1 : Bus}
    (h : readRm osz rm s = .ok y { s with bus := b1 }) :
    aluR op osz r rm s
      = .ok () (op.leave { s with bus := b1 } (op.gprs s.cpu.gpr osz r y) (s.cpu.gpr.getV osz r) y) := by
  refine (M.bind_ok h).trans ?_
  cases op <;> rfl

/-! CMP and TEST of an operand that is read. -/

theorem cmpRm8_ok {lock : Bool} {rm : Rm8} {src : Cpu → Byte} {s : State} {x : Byte} {b1 : Bus}
    (h : readRm8 rm s = .ok x { s with bus := b1 }) :
    aluRm8 lock .cmp rm src s = .ok () (Alu.cmp.leave { s with bus := b1 } s.cpu.gpr x (src s.cpu)) := M.bind_ok h

theorem cmpRm_ok {lock : Bool} {osz : OpSize} {rm : Rm} {src : Cpu → BitVec osz.bits} {s : State} {x : BitVec osz.bits}
    {b1 : Bus} (h : readRm osz rm s = .ok x { s with bus := b1 }) :
    aluRm lock .cmp osz rm src s = .ok () (Alu.cmp.leave { s with bus := b1 } s.cpu.gpr x (src s.cpu)) := M.bind_ok h

/-! The instructions of each operation. -/

section
variable (op : Alu) (lock : Bool) (s : State)

theorem exec_rm8R8 (rm : Rm8) (r : Gpr8) :
    exec (op.rm8R8 lock rm r) s = runInstr (aluRm8 lock op rm (srcReg8 r)) s := by
  cases op <;> (unfold exec; rfl)

theorem exec_rm8Imm8 (rm : Rm8) (imm : Byte) :
    exec (op.rm8Imm8 lock rm imm) s = runInstr (aluRm8 lock op rm (srcImm imm)) s := by
  cases op <;> (unfold exec; rfl)

theorem exec_alImm8 (imm : Byte) : exec (op.alImm8 imm) s = runInstr (aluRm8 false op (.reg .al) (srcImm imm)) s := by
  cases op <;> (unfold exec; rfl)

theorem exec_rmR (osz : OpSize) (rm : Rm) (r : Gpr) :
    exec (op.rmR lock osz rm r) s = runInstr (aluRm lock op osz rm (srcReg osz r)) s := by
  cases op <;> (unfold exec; rfl)

theorem exec_rmImm (rm : Rm) (imm : ImmV) :
    exec (op.rmImm lock rm imm) s = runInstr (aluRm lock op imm.size rm (srcImm imm.val)) s := by
  cases op <;> (unfold exec; rfl)

theorem exec_rmImm8 (osz : OpSize) (rm : Rm) (imm : Byte) :
    exec (op.rmImm8 lock osz rm imm) s = runInstr (aluRm lock op osz rm (srcImm (imm8To osz imm))) s := by
  cases op <;> (unfold exec; rfl)

theorem exec_eaxImm (imm : ImmV) :
    exec (op.eaxImm imm) s = runInstr (aluRm false op imm.size (.reg .eax) (srcImm imm.val)) s := by
  cases op <;> (unfold exec; rfl)

theorem exec_r8Rm8 (r : Gpr8) (rm : Rm8) : exec (op.r8Rm8 r rm) s = runInstr (aluR8 op r rm) s := by
  cases op <;> (unfold exec; rfl)

theorem exec_rRm (osz : OpSize) (r : Gpr) (rm : Rm) : exec (op.rRm osz r rm) s = runInstr (aluR op osz r rm) s := by
  cases op <;> (unfold exec; rfl)

end

/-- Settles O8: each form is its operation on a register and a source. -/
theorem aluWritesRegister : Obligations.AluWritesRegister := by
  unfold Obligations.AluWritesRegister
  refine ⟨fun op s lock d r imm => ⟨?_, ?_, ?_⟩, fun op s lock osz d r imm8 imm => ⟨?_, ?_, ?_, ?_⟩⟩
  · exact Alu.exec_leaves (aluRm8_reg lock op d (srcReg8 r) s.past) fun s => exec_rm8R8 op lock s (.reg d) r
  · exact Alu.exec_leaves (aluRm8_reg lock op d (srcImm imm) s.past) fun s => exec_rm8Imm8 op lock s (.reg d) imm
  · exact Alu.exec_leaves (aluRm8_reg false op .al (srcImm imm) s.past) fun s => exec_alImm8 op s imm
  · exact Alu.exec_leaves (aluRm_reg lock op osz d (srcReg osz r) s.past) fun s => exec_rmR op lock s osz (.reg d) r
  · exact Alu.exec_leaves (aluRm_reg lock op imm.size d (srcImm imm.val) s.past) fun s =>
      exec_rmImm op lock s (.reg d) imm
  · exact Alu.exec_leaves (aluRm_reg lock op osz d (srcImm (imm8To osz imm8)) s.past) fun s =>
      exec_rmImm8 op lock s osz (.reg d) imm8
  · exact Alu.exec_leaves (aluRm_reg false op imm.size .eax (srcImm imm.val) s.past) fun s => exec_eaxImm op s imm

/-- Settles O9: the operand is read, then the operation is done on what was read. -/
theorem aluAndTestReadOperand : Obligations.AluAndTestReadOperand := by
  unfold Obligations.AluAndTestReadOperand
  refine ⟨fun op s r rm y b1 h => ⟨?_, readRm8_stored h⟩, fun op s osz r rm y b1 h => ⟨?_, readRm_stored h⟩,
    fun s rm r imm x b1 h => ⟨?_, ?_, readRm8_stored h⟩, fun s osz rm r imm8 x b1 h => ⟨?_, ?_, readRm_stored h⟩,
    fun s rm imm x b1 h => ⟨?_, readRm_stored h⟩, fun s => ⟨fun rm r imm x b1 h => ⟨?_, ?_, readRm8_stored h⟩,
      fun osz rm r x b1 h => ⟨?_, readRm_stored h⟩, fun rm imm x b1 h => ⟨?_, readRm_stored h⟩, fun imm => ?_,
      fun imm => ?_⟩⟩
  · exact Alu.exec_leaves (aluR8_ok h) fun s => exec_r8Rm8 op s r rm
  · exact Alu.exec_leaves (aluR_ok h) fun s => exec_rRm op s osz r rm
  · exact Alu.exec_leaves (cmpRm8_ok (lock := false) (src := srcReg8 r) h)
  · exact Alu.exec_leaves (cmpRm8_ok (lock := false) (src := srcImm imm) h)
  · exact Alu.exec_leaves (cmpRm_ok (lock := false) (src := srcReg osz r) h)
  · exact Alu.exec_leaves (cmpRm_ok (lock := false) (src := srcImm (imm8To osz imm8)) h)
  · exact Alu.exec_leaves (cmpRm_ok (lock := false) (src := srcImm imm.val) h)
  · exact Alu.exec_leaves (m := do testOp (← readRm8 rm) ((← getCpu).gpr.get8 r)) (M.bind_ok h)
  · exact Alu.exec_leaves (m := do testOp (← readRm8 rm) imm) (M.bind_ok h)
  · exact Alu.exec_leaves (m := do testOp (← readRm osz rm) ((← getCpu).gpr.getV osz r)) (M.bind_ok h)
  · exact Alu.exec_leaves (m := do testOp (← readRm imm.size rm) imm.val) (M.bind_ok h)
  · exact Alu.exec_leaves (m := do testOp ((← getCpu).gpr.get8 .al) imm) (testOp_eq _ imm s.past)
  · exact Alu.exec_leaves (m := do testOp ((← getCpu).gpr.getV imm.size .eax) imm.val) (testOp_eq _ imm.val s.past)

/-! The forms with a destination in memory. -/

/-- The write of a result does not look at the registers that an operation has changed by then. -/
theorem Alu.writeBack_leave {w : Nat} (op : Alu) (lock : Bool) (p : Phys) (r : BitVec w) (s : State) (g : Gprs)
    (x y : BitVec w) (b : Bus) : memWriteBack lock p r (op.leave s g x y).cpu b = memWriteBack lock p r s.cpu b :=
  memWriteBack_congr lock p r b rfl rfl

/-- A read-modify-write in memory by an operation: its flags may take a free value of the bus by then, so the registers
it leaves depend on the bus `b1` after the read. -/
theorem modifyMem_alu {w : Nat} {op : Alu} {lock : Bool} {m : MemOp} {src : Cpu → BitVec w} {s : State} {x : BitVec w}
    {p : Phys} {b2 : Bus}
    (h : Modifies lock s.cpu s.bus m.segment (m.off s.cpu) x (op.result x (src s.cpu)) op.frees p b2) :
    ∃ b1, modifyMem lock w m (fun a => do alu op a (src (← getCpu))) s
      = .ok () { op.leave { s with bus := b1 } s.cpu.gpr x (src s.cpu) with bus := b2 } := by
  obtain ⟨b1, hread, hwrite⟩ := h
  refine ⟨b1, ?_⟩
  have compute := alu_eq op x (src s.cpu) { s with bus := b1 }
  have store := (op.writeBack_leave lock p _ { s with bus := b1 } s.cpu.gpr x (src s.cpu) _).trans hwrite
  exact (M.bind_ok (run_getCpu s)).trans ((M.bind_ok (onBus_ok hread)).trans ((M.bind_ok compute).trans
    (onBus_ok store)))

theorem aluRm8_mem {op : Alu} (hop : op ≠ .cmp) (lock : Bool) (m : MemOp) (src : Cpu → Byte) :
    aluRm8 lock op (.mem m) src = modifyMem lock 8 m (fun a => do alu op a (src (← getCpu))) := by
  cases op with
  | cmp => exact absurd rfl hop
  | add | or | and | sub | xor => rfl

theorem aluRm_mem {op : Alu} (hop : op ≠ .cmp) (lock : Bool) (osz : OpSize) (m : MemOp) (src : Cpu → BitVec osz.bits) :
    aluRm lock op osz (.mem m) src = modifyMem lock osz.bits m (fun a => do alu op a (src (← getCpu))) := by
  cases op with
  | cmp => exact absurd rfl hop
  | add | or | and | sub | xor => rfl

/-- An instruction whose meaning is a read-modify-write in memory by an operation. -/
theorem Alu.exec_modifyMem {i : Instr} {w : Nat} {op : Alu} {lock : Bool} {m : MemOp} {src : Cpu → BitVec w} {s : State}
    {x : BitVec w} {p : Phys} {b2 : Bus}
    (h : Modifies lock s.past.cpu s.bus m.segment (m.off s.cpu) x (op.result x (src s.past.cpu)) op.frees p b2)
    (e : ∀ s, exec i s = runInstr (modifyMem lock w m fun a => do alu op a (src (← getCpu))) s) :
    ∃ t, exec i s = .next t ∧ op.Leaves s t s.cpu.gpr b2 x (src s.past.cpu) ∧ t.bus = b2
      ∧ Stored s.cpu p.addrs s.bus t.bus := by
  obtain ⟨b1, run⟩ := modifyMem_alu (s := s.past) h
  obtain ⟨cpu, -⟩ := op.leave_leaves s s.cpu.gpr b1 x (src s.past.cpu)
  exact ⟨_, exec_next run e, ⟨cpu, rfl⟩, rfl, h.stored.cpu rfl⟩

/-- Settles O10: each form is a read-modify-write by its operation. -/
theorem aluWritesMemory : Obligations.AluWritesMemory := by
  unfold Obligations.AluWritesMemory
  intro op s lock m p b2 hop
  refine ⟨fun r imm x y i hi h => ?_, fun osz r imm8 x y i hi h => ?_, fun imm x h => ?_⟩
  · rcases hi with ⟨rfl, rfl⟩ | ⟨rfl, rfl⟩
    · exact Alu.exec_modifyMem (src := srcReg8 r) h fun s => by rw [exec_rm8R8, aluRm8_mem hop]
    · exact Alu.exec_modifyMem (src := srcImm y) h fun s => by rw [exec_rm8Imm8, aluRm8_mem hop]
  · rcases hi with ⟨rfl, rfl⟩ | ⟨rfl, rfl⟩
    · exact Alu.exec_modifyMem (src := srcReg osz r) h fun s => by rw [exec_rmR, aluRm_mem hop]
    · exact Alu.exec_modifyMem (src := srcImm (imm8To osz imm8)) h fun s => by rw [exec_rmImm8, aluRm_mem hop]
  · exact Alu.exec_modifyMem (src := srcImm imm.val) h fun s => by rw [exec_rmImm, aluRm_mem hop]

end Sys2Proof.Machine
end

section
namespace Sys2Proof.Machine

/-! DIV and IDIV. -/

section
variable {n w : Nat} {x : BitVec n} {y : BitVec w}

theorem divU_of_fits (h : y ≠ 0#w ∧ x.toNat / y.toNat < 2 ^ w) :
    divU w x.toNat y.toNat = some (BitVec.ofNat w (x.toNat / y.toNat), BitVec.ofNat w (x.toNat % y.toNat)) := by
  obtain ⟨nonzero, small⟩ := h
  have : y.toNat ≠ 0 := fun e => nonzero (BitVec.eq_of_toNat_eq e)
  exact if_neg (by omega)

theorem divU_of_not_fits (h : ¬(y ≠ 0#w ∧ x.toNat / y.toNat < 2 ^ w)) : divU w x.toNat y.toNat = none := by
  refine if_pos ?_
  by_cases zero : y = 0#w
  · exact .inl (by simp [zero])
  · exact .inr (Nat.not_lt.mp fun small => h ⟨zero, small⟩)

theorem divS_of_fits
    (h : y ≠ 0#w ∧ -(2 ^ (w - 1) : Int) ≤ x.toInt.tdiv y.toInt ∧ x.toInt.tdiv y.toInt < 2 ^ (w - 1)) :
    divS w x.toInt y.toInt
      = some (BitVec.ofInt w (x.toInt.tdiv y.toInt), BitVec.ofInt w (x.toInt.tmod y.toInt)) := by
  obtain ⟨nonzero, lo, hi⟩ := h
  have : y.toInt ≠ 0 := fun e => nonzero (BitVec.eq_of_toInt_eq (by simpa using e))
  exact if_neg (by omega)

theorem divS_of_not_fits
    (h : ¬(y ≠ 0#w ∧ -(2 ^ (w - 1) : Int) ≤ x.toInt.tdiv y.toInt ∧ x.toInt.tdiv y.toInt < 2 ^ (w - 1))) :
    divS w x.toInt y.toInt = none := by
  refine if_pos ?_
  by_cases zero : y = 0#w
  · exact .inl (by simp [zero])
  · have : ¬(-(2 ^ (w - 1) : Int) ≤ x.toInt.tdiv y.toInt ∧ x.toInt.tdiv y.toInt < 2 ^ (w - 1)) :=
      fun fit => h ⟨zero, fit⟩
    omega

end

/-- The state that a division leaves, with quotient and remainder in `g`. -/
def State.divided (s : State) (g : Gprs) : State :=
  { cpu := { s.cpu with gpr := g, fl := s.cpu.fl.statusFrom (Config.freeWord s.bus.freeCtr) }
    bus := { s.bus with freeCtr := s.bus.freeCtr + 1 } }

/-- The end of a division writes its result with `put`, or raises #DE where there is none. -/
structure EndsDivision {w : Nat} (finish : Option (BitVec w × BitVec w) → M Unit)
    (put : Gprs → BitVec w → BitVec w → Gprs) : Prop where
  some : ∀ s q rem, finish (some (q, rem)) s = .ok () (s.divided (put s.cpu.gpr q rem))
  none : ∀ s, finish none s = .error (.exc .de) s

theorem endsDivision_divResult8 : EndsDivision divResult8 fun g q rem => (g.set8 .al q).set8 .ah rem :=
  ⟨fun _ _ _ => rfl, fun _ => rfl⟩

theorem endsDivision_divResult (osz : OpSize) :
    EndsDivision (divResult osz) fun g q rem => (g.setV osz .eax q).setV osz .edx rem :=
  ⟨fun _ _ _ => rfl, fun _ => rfl⟩

/-- An instruction whose meaning comes to the end of a division with the result `r`. -/
theorem EndsDivision.ends {w : Nat} {finish : Option (BitVec w × BitVec w) → M Unit}
    {put : Gprs → BitVec w → BitVec w → Gprs} (hd : EndsDivision finish put) {i : Instr} {m : M Unit} {s : State}
    {b1 : Bus} {r : Option (BitVec w × BitVec w)} (h : m s.past = finish r { s.past with bus := b1 })
    (e : ∀ s, exec i s = runInstr m s := by intro; unfold exec; rfl) :
    (∀ q rem, r = .some (q, rem) → Divided s (put s.cpu.gpr q rem) b1 (exec i s))
      ∧ (r = .none → exec i s = s.raises .de b1) := by
  refine ⟨fun q rem hr => ?_, fun hr => ?_⟩
  · rw [hr, hd.some] at h
    exact ⟨_, exec_next h e⟩
  · rw [hr, hd.none] at h
    exact exec_raises h rfl rfl e

/-- Settles O13: what the arithmetic answers is what the instruction ends in. -/
theorem divideWritesQuotientOrRaisesDivideError : Obligations.DivideWritesQuotientOrRaisesDivideError := by
  unfold Obligations.DivideWritesQuotientOrRaisesDivideError
  refine fun s => ⟨fun rm y b1 h => ?_, fun osz rm y b1 h => ?_⟩
  · obtain ⟨div, divError⟩ := endsDivision_divResult8.ends (i := .divRm8 rm) (m := divRm8Op rm) (M.bind_ok h)
    obtain ⟨idiv, idivError⟩ := endsDivision_divResult8.ends (i := .idivRm8 rm) (m := idivRm8Op rm) (M.bind_ok h)
    exact ⟨fun fits => div _ _ (divU_of_fits fits), fun misfit => divError (divU_of_not_fits misfit),
      fun fits => idiv _ _ (divS_of_fits fits), fun misfit => idivError (divS_of_not_fits misfit), readRm8_stored h⟩
  · have division := endsDivision_divResult osz
    obtain ⟨div, divError⟩ := division.ends (i := .divRm osz rm) (m := divRmOp osz rm) (M.bind_ok h)
    obtain ⟨idiv, idivError⟩ := division.ends (i := .idivRm osz rm) (m := idivRmOp osz rm) (M.bind_ok h)
    exact ⟨fun fits => div _ _ (divU_of_fits fits), fun misfit => divError (divU_of_not_fits misfit),
      fun fits => idiv _ _ (divS_of_fits fits), fun misfit => idivError (divS_of_not_fits misfit), readRm_stored h⟩

end Sys2Proof.Machine
end

section
namespace Sys2Proof.Machine

/-! The check of the I/O permission bit map (R314, R315). -/

section
variable {c : Cpu} {b b1 b2 : Bus} {port : W16} {n : Nat}

/-- Where no map is asked, the access is allowed. -/
theorem ioCheck_free (h : c.pe = false ∨ (c.fl.vm = false ∧ c.cpl.toNat ≤ c.fl.iopl.toNat)) :
    ioCheck port n c b = .ok () b := by
  have unasked : (c.pe && (c.fl.vm || decide (c.cpl.toNat > c.fl.iopl.toNat))) = false := by
    rcases h with pe | ⟨vm, level⟩
    · simp [pe]
    · simp [vm, Nat.not_lt.mpr level]
  unfold ioCheck
  rw [B.bind_ok (run_regs c b), B.run_ite, if_neg (by simp [unasked])]
  rfl

/-- Elsewhere the map decides. -/
theorem ioCheck_map (h : ¬(c.pe = false ∨ (c.fl.vm = false ∧ c.cpl.toNat ≤ c.fl.iopl.toNat))) {q : Bool}
    (hq : ioBitmapAllows port n c b = .ok q b1) :
    ioCheck port n c b = if q then .ok () b1 else .error (.exc (.gp 0#32)) b1 := by
  have asked : (c.pe && (c.fl.vm || decide (c.cpl.toNat > c.fl.iopl.toNat))) = true := by
    rw [not_or, Bool.not_eq_false, not_and] at h
    obtain ⟨pe, level⟩ := h
    cases vm : c.fl.vm with
    | true => simp [pe]
    | false => simpa [pe] using level vm
  unfold ioCheck
  rw [B.bind_ok (run_regs c b), B.run_ite, if_pos asked, B.bind_ok hq, run_raiseIf]
  cases q <;> rfl

theorem ioBitmapAllows_narrow (h : wideTss c.tr.typ = false) : ioBitmapAllows port n c b = .ok false b := by
  unfold ioBitmapAllows
  rw [B.bind_ok (run_regs c b), h]
  rfl

theorem ioBitmapAllows_beyond {map : Nat} (h : wideTss c.tr.typ = true)
    (hm : sysRead (c.tr.base + 102#32) 2 c b = .ok map b1) (hl : c.tr.limit.toNat < map + port.toNat / 8 + 1) :
    ioBitmapAllows port n c b = .ok false b1 := by
  unfold ioBitmapAllows
  rw [B.bind_ok (run_regs c b), h, B.run_ite, if_neg (by decide), B.bind_ok hm, B.run_ite, if_pos hl]
  rfl

theorem ioBitmapAllows_within {map w : Nat} (h : wideTss c.tr.typ = true)
    (hm : sysRead (c.tr.base + 102#32) 2 c b = .ok map b1) (hl : map + port.toNat / 8 + 1 ≤ c.tr.limit.toNat)
    (hw : sysRead (c.tr.base + BitVec.ofNat 32 (map + port.toNat / 8)) 2 c b1 = .ok w b2) :
    ioBitmapAllows port n c b
      = .ok (BitVec.ofNat 16 w &&& (BitVec.ofNat 16 (2 ^ n - 1) <<< (port.toNat % 8)) == 0#16) b2 := by
  unfold ioBitmapAllows
  rw [B.bind_ok (run_regs c b), h, B.run_ite, if_neg (by decide), B.bind_ok hm, B.run_ite, if_neg (by omega),
    B.bind_ok hw]
  rfl

end

/-- The mask of `n` bits from bit `j` on. -/
theorem getLsbD_ones_shiftLeft {i : Nat} (hi : i < 16) (n j : Nat) :
    (BitVec.ofNat 16 (2 ^ n - 1) <<< j).getLsbD i = (decide (j ≤ i) && decide (i - j < n)) := by
  have inside : decide (i - j < 16) = true := decide_eq_true (by omega)
  rw [BitVec.getLsbD_shiftLeft, BitVec.getLsbD_ofNat, Nat.testBit_two_pow_sub_one, decide_eq_true hi, inside,
    Bool.true_and, Bool.true_and, ← decide_not]
  simp only [Nat.not_lt]

/-- The map allows an access if the bits of its bytes are clear: `n` of them from bit `j` on. -/
theorem maskedBits_eq_zero_iff {n j : Nat} (h : j + n ≤ 16) (w : Nat) :
    (BitVec.ofNat 16 w &&& (BitVec.ofNat 16 (2 ^ n - 1) <<< j) == 0#16) = true
      ↔ ∀ k, k < n → w.testBit (j + k) = false := by
  have bits (i : Nat) (hi : i < 16) : (BitVec.ofNat 16 w &&& (BitVec.ofNat 16 (2 ^ n - 1) <<< j)).getLsbD i
      = (w.testBit i && (decide (j ≤ i) && decide (i - j < n))) := by
    rw [BitVec.getLsbD_and, getLsbD_ones_shiftLeft hi, BitVec.getLsbD_ofNat, decide_eq_true hi, Bool.true_and]
  rw [beq_iff_eq]
  refine ⟨fun e k hk => ?_, fun clear => BitVec.eq_of_getLsbD_eq fun i hi => ?_⟩
  · have := bits (j + k) (by omega)
    simpa [e, hk] using this
  · rw [bits i hi, BitVec.getLsbD_zero]
    by_cases range : j ≤ i ∧ i - j < n
    · obtain ⟨low, high⟩ := range
      rw [← clear (i - j) high, Nat.add_sub_cancel' low]
      simp [low, high]
    · rw [← Bool.decide_and, decide_eq_false range, Bool.and_false]

/-! IN and OUT. -/

/-- The state after an access to the I/O space: it is recorded for the devices, with the breakpoints it matches. -/
def State.didIo (s : State) (port : W16) (n : Nat) (v : Option W32) : State :=
  { cpu := { s.cpu with notes.ioEip := some s.cpu.notes.start }
    bus := { s.bus with io := s.bus.io ++ [(port, n, v)], hits := s.bus.hits ||| ioMatches s.cpu port n } }

section
variable {s : State} {b1 : Bus} {port : W16} {n : Nat}

theorem noteIo_ok {c : Cpu} (hu : undefinedBreakpoint c = false) (v : Option W32) (b : Bus) :
    noteIo port n v c b
      = .ok () { b with io := b.io ++ [(port, n, v)], hits := b.hits ||| ioMatches c port n } := by
  unfold noteIo
  rw [B.bind_ok (run_regs c b), hu]
  rfl

theorem ioIn_ok (hu : undefinedBreakpoint s.cpu = false) (h : ioCheck port n s.cpu s.bus = .ok () b1) :
    ioIn port n s = .ok (Config.ioRead b1.io port n) (State.didIo { s with bus := b1 } port n none) := by
  unfold ioIn
  rw [M.bind_ok (onBus_ok h), M.bind_ok (onBus_ok (run_getBus _ _))]
  exact M.bind_ok (onBus_ok (s := { s with bus := b1 }) (noteIo_ok hu none b1))

theorem ioOut_ok (hu : undefinedBreakpoint s.cpu = false) (h : ioCheck port n s.cpu s.bus = .ok () b1) (v : W32) :
    ioOut port n v s = .ok () (State.didIo { s with bus := b1 } port n (some v)) := by
  unfold ioOut
  rw [M.bind_ok (onBus_ok h)]
  exact M.bind_ok (onBus_ok (s := { s with bus := b1 }) (noteIo_ok hu (some v) b1))

theorem ioIn_error {e : Stop} (h : ioCheck port n s.cpu s.bus = .error e b1) :
    ioIn port n s = .error e { s with bus := b1 } := M.bind_error (onBus_error h)

theorem ioOut_error {e : Stop} (h : ioCheck port n s.cpu s.bus = .error e b1) (v : W32) :
    ioOut port n v s = .error e { s with bus := b1 } := M.bind_error (onBus_error h)

/-- The state with the general registers `g`. -/
def State.withGpr (s : State) (g : Gprs) : State := { s with cpu := { s.cpu with gpr := g } }

theorem inAl_ok (hu : undefinedBreakpoint s.cpu = false) (h : ioCheck port 1 s.cpu s.bus = .ok () b1) :
    inAl port s = .ok ()
      ((State.didIo { s with bus := b1 } port 1 none).withGpr
        (s.cpu.gpr.set8 .al ((Config.ioRead b1.io port 1).extractLsb' 0 8))) :=
  M.bind_ok (ioIn_ok hu h)

theorem inEax_ok {osz : OpSize} (hu : undefinedBreakpoint s.cpu = false)
    (h : ioCheck port osz.bytes s.cpu s.bus = .ok () b1) :
    inEax osz port s = .ok ()
      ((State.didIo { s with bus := b1 } port osz.bytes none).withGpr
        (s.cpu.gpr.setV osz .eax ((Config.ioRead b1.io port osz.bytes).setWidth osz.bits))) :=
  M.bind_ok (ioIn_ok hu h)

theorem outAl_ok (hu : undefinedBreakpoint s.cpu = false) (h : ioCheck port 1 s.cpu s.bus = .ok () b1) :
    outAl port s = .ok ()
      (State.didIo { s with bus := b1 } port 1 (some ((s.cpu.gpr.get8 .al).setWidth 32))) :=
  (M.bind_ok (run_getCpu s)).trans (ioOut_ok hu h _)

theorem outEax_ok {osz : OpSize} (hu : undefinedBreakpoint s.cpu = false)
    (h : ioCheck port osz.bytes s.cpu s.bus = .ok () b1) :
    outEax osz port s = .ok ()
      (State.didIo { s with bus := b1 } port osz.bytes (some ((s.cpu.gpr.getV osz .eax).setWidth 32))) :=
  (M.bind_ok (run_getCpu s)).trans (ioOut_ok hu h _)

end

/-- The forms that name the port by DX. -/
theorem withPortDx {s : State} {port : W16} (hp : port = s.cpu.gpr.edx.extractLsb' 0 16) (f : W16 → M Unit) :
    (do f (portDx (← getCpu)) : M Unit) s.past = f port s.past := by
  rw [M.bind_ok (run_getCpu s.past), hp]
  rfl

/-- An instruction that accesses `n` bytes of the I/O space at `port`. -/
def Accesses (i : Instr) (s : State) (port : W16) (n : Nat) : Prop :=
  (port = s.cpu.gpr.edx.extractLsb' 0 16 ∧ ((n = 1 ∧ (i = .inAlDx ∨ i = .outDxAl))
      ∨ ∃ osz : OpSize, n = osz.bytes ∧ (i = .inEaxDx osz ∨ i = .outDxEax osz)))
    ∨ ∃ imm : Byte, port = imm.setWidth 16 ∧ ((n = 1 ∧ (i = .inAlImm8 imm ∨ i = .outImm8Al imm))
      ∨ ∃ osz : OpSize, n = osz.bytes ∧ (i = .inEaxImm8 osz imm ∨ i = .outImm8Eax osz imm))

theorem exec_io_error {i : Instr} {s : State} {port : W16} {n : Nat} {b1 : Bus}
    (h : ioCheck port n s.past.cpu s.bus = .error (.exc (.gp 0#32)) b1) (hi : Accesses i s port n) :
    exec i s = s.raises (.gp 0#32) b1 := by
  have input {α : Type} (f : W32 → M α) : (ioIn port n >>= f) s.past = _ := M.bind_error (ioIn_error (s := s.past) h)
  have output (v : W32) : ioOut port n v s.past = _ := ioOut_error h v
  rcases hi with ⟨hp, ⟨rfl, rfl | rfl⟩ | ⟨osz, rfl, rfl | rfl⟩⟩ | ⟨imm, rfl, ⟨rfl, rfl | rfl⟩ | ⟨osz, rfl, rfl | rfl⟩⟩
  · exact exec_raises ((withPortDx hp inAl).trans (input _)) rfl rfl
  · exact exec_raises ((withPortDx hp outAl).trans (output _)) rfl rfl
  · exact exec_raises ((withPortDx hp (inEax osz)).trans (input _)) rfl rfl
  · exact exec_raises ((withPortDx hp (outEax osz)).trans (output _)) rfl rfl
  · exact exec_raises (x := inAl (imm.setWidth 16)) (input _) rfl rfl
  · exact exec_raises (x := outAl (imm.setWidth 16)) (output _) rfl rfl
  · exact exec_raises (x := inEax osz (imm.setWidth 16)) (input _) rfl rfl
  · exact exec_raises (x := outEax osz (imm.setWidth 16)) (output _) rfl rfl

/-- Settles O53: the check passes, then the access is recorded; or the check fails; and what the check answers. It
answers the same in SMM, where R600 says that there is none: the model's choice (log 65). -/
theorem inputAndOutput : Obligations.InputAndOutput := by
  unfold Obligations.InputAndOutput
  refine ⟨fun s port b1 hu => ⟨
    fun h => ⟨fun hp => ⟨?_, ?_⟩, fun imm hp => ⟨?_, ?_⟩, ((quiet_ioCheck _ _).ok h).cpu rfl⟩,
    fun osz h => ⟨fun hp => ⟨?_, ?_⟩, fun imm hp => ⟨?_, ?_⟩, ((quiet_ioCheck _ _).ok h).cpu rfl⟩⟩,
    fun s port n b1 i h hi => ⟨exec_io_error h hi, ?_⟩, fun c b port n hn => ⟨ioCheck_free, fun hf hw => ?_,
    fun map b1 hf hw hm => ⟨fun hl => ?_, fun w b2 hl hr => ?_⟩⟩⟩
  · exact exec_next ((withPortDx hp inAl).trans (inAl_ok (s := s.past) hu h))
  · exact exec_next ((withPortDx hp outAl).trans (outAl_ok (s := s.past) hu h))
  · subst hp
    exact exec_next (inAl_ok (s := s.past) hu h)
  · subst hp
    exact exec_next (outAl_ok (s := s.past) hu h)
  · exact exec_next ((withPortDx hp (inEax osz)).trans (inEax_ok (s := s.past) hu h))
  · exact exec_next ((withPortDx hp (outEax osz)).trans (outEax_ok (s := s.past) hu h))
  · subst hp
    exact exec_next (inEax_ok (s := s.past) hu h)
  · subst hp
    exact exec_next (outEax_ok (s := s.past) hu h)
  · exact (B.after_error h ▸ (quiet_ioCheck port n).same s.past.cpu s.bus).cpu rfl
  · exact ioCheck_map hf (ioBitmapAllows_narrow hw)
  · exact ioCheck_map hf (ioBitmapAllows_beyond hw hm hl)
  · have answer := ioCheck_map hf (ioBitmapAllows_within (n := n) hw hm hl hr)
    have mask := maskedBits_eq_zero_iff (n := n) (j := port.toNat % 8) (by omega) w
    refine ⟨fun clear => answer.trans (if_pos (mask.mpr clear)),
      fun ⟨k, hk, bit⟩ => answer.trans (if_neg fun allowed => ?_)⟩
    exact absurd (mask.mp allowed k hk) (by simp [bit])

end Sys2Proof.Machine
end

section
namespace Sys2Proof.Machine

/-! Deliveries through an interrupt or trap gate in protected mode. -/

section
variable {d : Delivery} {g t : Desc} {s u : State} {c c1 : Cpu} {b b2 b4 b6 : Bus} {as : List Nat}

/-- Delivery in protected mode goes through the gate that is found. -/
theorem FindsGate.deliverOnce_ok (h : FindsGate d s.cpu s.bus g t b2)
    (hx : deliverGate d g t { s with bus := b2 } = .ok () u) :
    deliverOnce d s = .ok () { cpu := u.cpu.afterDelivery d, bus := u.bus.jumped } := by
  obtain ⟨hprot, hr, hsys, -, b1, hg, hcode⟩ := h
  obtain ⟨hpe, hvm⟩ := Cpu.prot_iff.mp hprot
  refine Machine.deliverOnce_ok hr ?_
  rw [if_pos hpe]
  unfold deliverProt
  rw [M.bind_ok (run_getCpu s), M.bind_ok (onBus_ok hg), hsys]
  refine (M.bind_ok (onBus_ok (s := { s with bus := b1 }) hcode)).trans ?_
  rw [run_ite, if_neg (by simp [hvm])]
  exact hx

/-- Finding the gate and the handler's segment stores nothing. -/
theorem FindsGate.stores (h : FindsGate d c b g t b2) : Stores c [] b b2 := by
  obtain ⟨-, -, -, -, b1, hg, hcode⟩ := h
  exact ((quiet_idtGate d).stores hg).trans ((quiet_handlerCode g).stores hcode)

/-- A possible delivery at the current privilege level. -/
theorem deliverOnce_sameLevel (h : SameLevelGate d s.cpu s.bus g t as c1 b4) :
    deliverOnce d s = .ok () { cpu := c1.inGateHandler d g t s.cpu.cpl, bus := b4.jumped } := by
  obtain ⟨b2, b3, as1, hfind, hlevel, hroom, hp, hset, -⟩ := h
  have same : ¬(!t.conforming && decide (t.dpl.toNat < s.cpu.cpl.toNat)) = true := by
    rcases hlevel with hconf | hdpl
    · simp [hconf]
    · simp [hdpl]
  rw [← Bus.jumped_jumped b4]
  refine hfind.deliverOnce_ok
    (u := ⟨{ c1.setCs g.gateSel t s.cpu.cpl with eip := t.ipOf g.gateOff, fl := c1.fl.inHandler g }, b4.jumped⟩) ?_
  obtain ⟨-, -, -, hlimit, -⟩ := hfind
  unfold deliverGate
  rw [M.bind_ok (run_getCpu _)]
  dsimp only
  rw [run_ite, if_neg same, M.bind_ok (onBus_ok (s := { s with bus := b2 }) (stackRoom_ok hroom)),
    M.bind_ok (onBus_ok (checkEip_ok hlimit)), M.bind_ok (pushFrame_ok (s := { s with bus := b2 }) hp)]
  exact M.bind_ok (loadCs_ok (s := ⟨c1, b3⟩) hset)

/-- What a delivery at the current privilege level stores. -/
theorem SameLevelGate.stores (h : SameLevelGate d c b g t as c1 b4) : Stores c as b b4 := by
  obtain ⟨b2, b3, as1, hfind, -, -, hp, hset, rfl⟩ := h
  obtain ⟨esp, rfl⟩ := hp.regs
  exact hfind.stores.trans (hp.stores.trans ((setAccessed_stores hset).cpu rfl))

/-- A possible delivery to an inner privilege level. -/
theorem deliverOnce_innerLevel (h : InnerLevelGate d s.cpu s.bus g t as c1 b6) :
    deliverOnce d s = .ok () { cpu := c1.inGateHandler d g t t.dpl, bus := b6.jumped } := by
  obtain ⟨b2, b3, b4, b5, st, as1, hfind, hconf, hdpl, hst, hroom, hacc, hp, hset, -⟩ := h
  have inner : (!t.conforming && decide (t.dpl.toNat < s.cpu.cpl.toNat)) = true := by simp [hconf, hdpl]
  obtain ⟨c3, b7, _, _, hold, hframe⟩ := hp.append
  rw [← Bus.jumped_jumped b6]
  refine hfind.deliverOnce_ok
    (u := ⟨{ c1.setCs g.gateSel t t.dpl with eip := t.ipOf g.gateOff, fl := c1.fl.inHandler g }, b6.jumped⟩) ?_
  obtain ⟨-, -, -, hlimit, -⟩ := hfind
  unfold deliverGate
  rw [M.bind_ok (run_getCpu _)]
  dsimp only
  rw [run_ite, if_pos inner, M.bind_ok (onBus_ok (s := { s with bus := b2 }) hst),
    M.bind_ok (onBus_ok (s := { s with bus := b3 }) hroom), M.bind_ok (onBus_ok (checkEip_ok hlimit)),
    M.bind_ok (switchStack_ok (s := { s with bus := b3 }) hacc)]
  refine (hold.run _).trans ((M.bind_ok (pushFrame_ok (s := ⟨c3, b7⟩) hframe)).trans ?_)
  exact M.bind_ok (loadCs_ok (s := ⟨c1, b5⟩) hset)

/-- What a delivery to an inner privilege level stores. -/
theorem InnerLevelGate.stores (h : InnerLevelGate d c b g t as c1 b6) : Stores c as b b6 := by
  obtain ⟨b2, b3, b4, b5, st, as1, hfind, -, -, hst, hroom, hacc, hp, hset, rfl⟩ := h
  obtain ⟨esp, rfl⟩ := hp.regs
  have checks : Stores c [] b b3 :=
    hfind.stores.trans ((quiet_innerStack _).stores hst) |>.trans ((quiet_roomOn _ _).stores hroom)
  exact checks.trans (setAccessed_stores hacc |>.trans (hp.stores.cpu rfl) |>.trans ((setAccessed_stores hset).cpu rfl))

/-- A gate of protected mode is found outside virtual-8086 mode only. -/
theorem FindsGate.not_v86 (h : FindsGate d c b g t b2) : c.v86 = false := by
  obtain ⟨-, hvm⟩ := Cpu.prot_iff.mp h.1
  simp [Cpu.v86, hvm]

end

/-- Settles O29: the frame is pushed on the current stack (`deliverOnce_sameLevel`). -/
theorem gateDeliveryAtSameLevel : Obligations.GateDeliveryAtSameLevel := by
  unfold Obligations.GateDeliveryAtSameLevel
  refine fun g t as c1 b4 => ⟨fun s i v hi => ?_, fun s e b => ?_⟩
  · intro d h
    have hv : s.cpu.v86 = false := by
      obtain ⟨_, _, _, hfind, -⟩ := h
      exact hfind.not_v86
    exact ⟨softInterrupt_delivered hi hv (deliverOnce_sameLevel h), h.stores.stored.cpu rfl⟩
  · intro d h
    exact ⟨raises_delivered (deliverOnce_sameLevel (s := ⟨s.cpu.taking e, b⟩) h), h.stores.stored.cpu rfl⟩

/-- Settles O30: the stack is switched first (`deliverOnce_innerLevel`). -/
theorem gateDeliveryToInnerLevel : Obligations.GateDeliveryToInnerLevel := by
  unfold Obligations.GateDeliveryToInnerLevel
  refine fun g t as c1 b6 => ⟨fun s i v hi => ?_, fun s e b => ?_⟩
  · intro d h
    have hv : s.cpu.v86 = false := by
      obtain ⟨_, _, _, _, _, _, hfind, -⟩ := h
      exact hfind.not_v86
    exact ⟨softInterrupt_delivered hi hv (deliverOnce_innerLevel h), h.stores.stored.cpu rfl⟩
  · intro d h
    exact ⟨raises_delivered (deliverOnce_innerLevel (s := ⟨s.cpu.taking e, b⟩) h), h.stores.stored.cpu rfl⟩

end Sys2Proof.Machine
end

section
namespace Sys2Proof.Machine

/-! The double-fault rule, and an interrupt table that is too short (R916, R917). -/

theorem excClass_pageFault_iff (v : Byte) : excClass v = .pageFault ↔ v = 14#8 := by
  unfold excClass
  split_ifs <;> simp_all

theorem excClass_contributory_iff (v : Byte) :
    excClass v = .contributory ↔ v = 0#8 ∨ v = 10#8 ∨ v = 11#8 ∨ v = 12#8 ∨ v = 13#8 := by
  unfold excClass
  split_ifs with hpf hcont
  · subst hpf; decide
  · exact iff_of_true rfl hcont
  · exact iff_of_false (by decide) hcont

theorem doubles_iff (first second : ExcClass) : doubles first second = true ↔
    (first = .contributory ∧ second = .contributory)
      ∨ (first = .pageFault ∧ (second = .contributory ∨ second = .pageFault)) := by
  cases first <;> cases second <;> decide

/-- A #GP raised on the way to a handler writes neither CR2 nor DR6. -/
theorem Cpu.beforeDelivery_gp (c : Cpu) (code : W32) (ext : Bool) : c.beforeDelivery ((Exc.gp code).withExt ext) = c := by
  cases ext <;> simp [Cpu.beforeDelivery, Exc.withExt, Exc.gp, Exc.coded]

theorem Exc.withExt_gp_vec (code : W32) (ext : Bool) : ((Exc.gp code).withExt ext).vec = 13#8 := by
  cases ext <;> rfl

theorem Exc.withExt_gp_class (code : W32) (ext : Bool) : excClass ((Exc.gp code).withExt ext).vec = .contributory := by
  rw [Exc.withExt_gp_vec]; rfl

/-- The double fault, and #GP, are not in the interrupt table: entry 8 ends at offset 35. -/
structure Cpu.ShortTable (c : Cpu) : Prop where
  real : c.pe = false
  ready : c.smm.inSmm = true → c.smm.lidtDone = true
  short : c.idtr.limit.toNat < 35

section
variable {d : Delivery} {s : State}

/-- Delivery in real-address mode of a vector beyond the table raises #GP (D111 of R806). -/
theorem deliverOnce_beyond (h : s.cpu.ShortTable) (hv : s.cpu.idtr.limit.toNat < 4 * d.vec.toNat + 3) :
    deliverOnce d s = .error (.exc ((Exc.gp (idtCode d.vec)).withExt d.ext)) s := by
  have beyond : deliverReal d s = .error (.exc (.gp (idtCode d.vec))) s :=
    (M.bind_ok (run_getCpu s)).trans (M.bind_error (onBus_error (raiseIf_pos (by simpa using hv) _ _ _)))
  have marked : markExt d.ext (deliverReal d) s = .error (.exc ((Exc.gp (idtCode d.vec)).withExt d.ext)) s := by
    unfold markExt; rw [beyond]
  have allowed : ¬(s.cpu.smm.inSmm && !s.cpu.smm.lidtDone && !d.irq) = true := by
    intro hx
    simp only [Bool.and_eq_true, Bool.not_eq_true'] at hx
    obtain ⟨⟨hsmm, hlidt⟩, -⟩ := hx
    exact Bool.false_ne_true (hlidt.symm.trans (h.ready hsmm))
  unfold deliverOnce
  rw [M.bind_ok (run_getCpu s), if_neg allowed, h.real]
  exact M.bind_error marked

/-- The state in shutdown. -/
def State.shutDown (s : State) (frees : Nat) : State :=
  { cpu := { s.cpu with hid.run := .shutdown }, bus := { s.bus with freeCtr := s.bus.freeCtr + frees } }

/-- The double fault that cannot be delivered shuts the processor down. -/
theorem deliver_double_beyond (n : Nat) (h : s.cpu.ShortTable) (hd : d.df = true) (hv : d.vec = 8#8) :
    deliver n d s = .ok () (s.shutDown 0) := by
  have hx : s.cpu.idtr.limit.toNat < 4 * d.vec.toNat + 3 := by rw [hv]; exact h.short
  rw [deliver.eq_def]
  simp only [deliverOnce_beyond h hx, hd, if_true, ite_self, Cpu.beforeDelivery_gp]
  rfl

/-- A contributory exception, or a page fault, that cannot be delivered becomes the double fault. -/
theorem deliver_doubling_beyond (n : Nat) (h : s.cpu.ShortTable) (hv : s.cpu.idtr.limit.toNat < 4 * d.vec.toNat + 3)
    (hd : d.df = false) (hc : doubles d.cls .contributory = true) :
    deliver (n + 1) d s = .ok () (s.shutDown 2) := by
  rw [deliver.eq_def]
  simp only [deliverOnce_beyond h hv, hd, Exc.withExt_gp_class, hc, if_true, Bool.false_eq_true, if_false, ite_self,
    Cpu.beforeDelivery_gp]
  exact deliver_double_beyond n (s := { s with bus := { s.bus with freeCtr := s.bus.freeCtr + 2 } }) h rfl rfl

/-- A benign exception that cannot be delivered becomes #GP, which cannot be delivered either. -/
theorem deliver_beyond (n : Nat) (h : s.cpu.ShortTable) (hv : s.cpu.idtr.limit.toNat < 4 * d.vec.toNat + 3)
    (hd : d.df = false) : deliver (n + 2) d s = .ok () (s.shutDown 2) := by
  cases hc : doubles d.cls .contributory with
  | true => exact deliver_doubling_beyond (n + 1) h hv hd hc
  | false =>
    have gp : s.cpu.idtr.limit.toNat < 4 * ((Exc.gp (idtCode d.vec)).withExt d.ext).vec.toNat + 3 := by
      rw [Exc.withExt_gp_vec]
      exact h.short.trans (by decide)
    rw [deliver.eq_def]
    simp only [deliverOnce_beyond h hv, hd, Exc.withExt_gp_class, hc, Bool.false_eq_true, if_false, ite_self,
      Cpu.beforeDelivery_gp]
    refine deliver_doubling_beyond n h gp rfl ?_
    simp only [Delivery.ofExc, Exc.withExt_gp_class]
    rfl

end

/-- Settles O34: without an entry for vector 8 and for #GP every exception ends in the double fault, and that in shutdown. -/
theorem shortTableGivesDoubleFaultThenShutdown : Obligations.ShortTableGivesDoubleFaultThenShutdown := by
  unfold Obligations.ShortTableGivesDoubleFaultThenShutdown
  refine ⟨fun first second => ?_, fun s e b hpe hr hshort hv => ?_⟩
  · simp only [doubles_iff, excClass_contributory_iff, excClass_pageFault_iff]
  · have table : (s.cpu.taking e).ShortTable := ⟨hpe, hr, hshort⟩
    have taken : takeException e ⟨s.cpu, b⟩ = .ok () (State.shutDown ⟨s.cpu.taking e, b⟩ 2) :=
      (M.bind_ok (run_modCpu _ _)).trans ((M.bind_ok (run_getCpu _)).trans
        (deliver_beyond 4 (s := ⟨s.cpu.taking e, b⟩) table hv rfl))
    have raised : s.raises e b = .next (State.shutDown ⟨s.cpu.taking e, b⟩ 2) := by
      unfold State.raises stopped
      simp only [ite_self, taken]
    exact ⟨_, raised, rfl, rfl, rfl, rfl, rfl, rfl⟩

end Sys2Proof.Machine
end

section
namespace Sys2Proof.Machine

/-! A step that executes an instruction. -/

/-- The start of an instruction that nothing holds up: its bytes are fetched. -/
theorem beginInstr_ok {s : State} {i : Instr} {len : Nat} {b1 b2 : Bus}
    (hbreak : checkBreakpoints { s.cpu with notes.ioEip := none } s.bus = .ok () b1)
    (hv : s.cpu.virtualPending = false)
    (hf : fetchNext { s.cpu with notes.ioEip := none } b1 = .ok (i, len) b2) :
    beginInstr s = .ok i
      { cpu := { s.cpu with notes.ioEip := none, nextEip := s.cpu.eip + BitVec.ofNat 32 len }, bus := b2 } := by
  have pending : ¬({ s.cpu with notes.ioEip := none } : Cpu).virtualPending = true := by
    rw [show ({ s.cpu with notes.ioEip := none } : Cpu).virtualPending = false from hv]; decide
  unfold beginInstr
  rw [M.bind_ok (run_modCpu _ s), M.bind_ok (onBus_ok hbreak), M.bind_ok (run_getCpu _), if_neg pending]
  exact M.bind_ok (onBus_ok (s := ⟨{ s.cpu with notes.ioEip := none }, b1⟩) hf)

/-- Settles O5. -/
theorem stepRunsDecodedInstruction : Obligations.StepRunsDecodedInstruction := by
  unfold Obligations.StepRunsDecodedInstruction
  intro s t i len b1 b2 hl c hbreak hv hf
  have run : runNext exec t = mapNext (fun u => pass (finish t.cpu u))
      (exec i { cpu := { c with nextEip := c.eip + BitVec.ofNat 32 len }, bus := b2 }) := by
    unfold runNext
    rw [beginInstr_ok hbreak hv hf]
  unfold step stepWith
  rw [hl]
  exact run

end Sys2Proof.Machine
end

section
namespace Sys2Proof.Machine

/-! Deliveries at an instruction boundary. -/

section
variable {d : Delivery} {s t u : State} {h : Happening} {c c1 : Cpu} {b b1 : Bus} {as : List Nat}

/-- A possible delivery, in whichever mode. -/
theorem Delivers.deliverOnce (hd : Delivers d s.cpu s.bus as c1 b1) :
    deliverOnce d s = .ok () { cpu := c1, bus := b1.jumped } := by
  obtain ⟨c2, entry, hreal, rfl⟩ | ⟨c2, g, t, level, rfl, ⟨hsame, rfl⟩ | ⟨hinner, rfl⟩ | ⟨hv86, rfl⟩⟩ := hd
  · exact deliverReal_ok hreal
  · exact deliverOnce_sameLevel hsame
  · exact deliverOnce_innerLevel hinner
  · exact deliverOnce_v86 hv86

/-- What a delivery stores. -/
theorem Delivers.stored (hd : Delivers d c b as c1 b1) : Stored c as b b1 := by
  obtain ⟨c2, entry, hreal, -⟩ | ⟨c2, g, t, level, -, ⟨hsame, -⟩ | ⟨hinner, -⟩ | ⟨hv86, -⟩⟩ := hd
  · exact hreal.stored
  · exact hsame.stores.stored
  · exact hinner.stores.stored
  · exact hv86.stores.stored

/-- A step at whose boundary an event is taken. -/
theorem step_event (hl : look s = .ok h t) (hi : h ≠ .instruction) (hx : takeHappening h t = .ok () u) :
    step s = .next (pass (finishEvent t.cpu u)) := by
  have taken : runEvent h t = .next (pass (finishEvent t.cpu u)) := by unfold runEvent; rw [hx]; rfl
  unfold step stepWith
  rw [hl]
  cases h with
  | instruction => exact absurd rfl hi
  | _ => exact taken

/-- The registers with which an interrupt is delivered at an instruction boundary, NMIs being blocked or not. -/
def Cpu.interrupted (c : Cpu) (blocked : Bool) : Cpu :=
  { c with
    hid := { c.hid with nmiBlocked := blocked, run := .running }
    notes := { c.notes with faulted := true, ioEip := none } }

/-- An interrupt that is taken at an instruction boundary saves the pointer to the next instruction, and ends in its
delivery. -/
theorem step_takes {vec : Byte} {blocked : Bool} (hl : look s = .ok h t) (hi : h ≠ .instruction)
    (hx : takeHappening h t
      = deliver deliverFuel (.event vec true (t.cpu.interrupted blocked)) ⟨t.cpu.interrupted blocked, b⟩) :
    let c := t.cpu.interrupted blocked
    let d := Delivery.event vec true c
    d.retEip = t.cpu.eip ∧ d.cs = t.cpu.seg.cs.sel
      ∧ ∀ (as : List Nat) (c1 : Cpu) (b1 : Bus), Delivers d c b as c1 b1 →
        step s = .next (pass (finishEvent t.cpu { cpu := c1, bus := b1.jumped })) ∧ Stored c as b b1 := by
  refine ⟨rfl, rfl, fun as c1 b1 hd => ⟨step_event hl hi (hx.trans ?_), hd.stored⟩⟩
  have delivered := Delivers.deliverOnce (s := ⟨t.cpu.interrupted blocked, b⟩) hd
  refine (deliver_of_not_exc deliverFuel fun e u he => ?_).trans delivered
  cases delivered.symm.trans he

end

/-! What comes next at an instruction boundary. -/

section
variable {c : Cpu} {b : Bus}

/-- Without a machine check, BINIT# or a pending trap of a task switch, external hardware interventions come first. -/
theorem activeNext_external (hmc : b.ev.mc = none) (hbinit : b.ev.binit = false)
    (hp : c.hid.pendingDb.all (fun p => !p.bt) = true) (rest : Happening) : activeNext c b rest = externalOr c b rest := by
  unfold activeNext
  rw [hmc, hbinit]
  cases hdb : c.hid.pendingDb with
  | none => rfl
  | some p =>
    rw [hdb] at hp
    have bt : p.bt = false := by simpa using hp
    simp [bt]

/-- The interrupts of the lowest class, or the next instruction. -/
theorem interruptOr_instruction (c : Cpu) (b : Bus) : interruptOr c b .instruction =
    if b.ev.nmi = true ∧ c.hid.nmiBlocked = false ∧ c.smm.nmiBlockedBySmm = false ∧ c.hid.ssShadow = false then .nmi
    else if c.fl.if_ = true ∧ c.hid.ssShadow = false ∧ c.hid.stiShadow = false then
      if Apic.extInt c b = true then .extInt
      else if Apic.enabled c = true ∧ b.apic.intrUp = true then .apicInt
      else .instruction
    else .instruction := by
  have next : (maskable c b).getD .instruction =
      if Apic.extInt c b = true then .extInt
      else if Apic.enabled c = true ∧ b.apic.intrUp = true then .apicInt
      else .instruction := by
    unfold maskable
    simp only [Bool.and_eq_true]
    split_ifs <;> rfl
  unfold interruptOr
  rw [next]
  simp only [Cpu.nmiOpen, Cpu.intOpen, Bool.and_eq_true, Bool.not_eq_true', and_assoc]

end

/-! INIT. -/

/-- The registers and the bus after INIT. -/
theorem takeInit_ok (s : State) : takeInit s = .ok ()
    { cpu := s.cpu.afterInit
      bus := { s.bus.serialized with
        apic := Apic.afterInit s.bus.apic, tlb := []
        ev := { s.bus.ev with init := false, selfIn := [], extMsg := false } } } := rfl

/-- The end of an event that took no branch. -/
theorem finishEvent_unbranched {start : Cpu} {s : State} (h : s.cpu.notes.branched = false) : finishEvent start s = s := by
  unfold finishEvent
  rw [h, Bool.and_false, if_neg Bool.false_ne_true]

/-- The end of an event may leave a single-step trap pending. -/
theorem finishEvent_eq (start : Cpu) (s : State) :
    ∃ p, finishEvent start s = { s with cpu := { s.cpu with hid := { s.cpu.hid with pendingDb := p } } } := by
  unfold finishEvent
  split
  · exact ⟨_, rfl⟩
  · exact ⟨s.cpu.hid.pendingDb, rfl⟩

/-! Entry to SMM. -/

/-- While the caches are coherent `x` completes; it fills no lines and takes no event. -/
structure Completes {α : Type} (c : Cpu) (x : B α) : Prop where
  run (b : Bus) : incoherent c b = false → ∃ a b1, x c b = .ok a b1 ∧ b1.lines = b.lines ∧ b1.ev = b.ev

section
variable {α β : Type} {c : Cpu}

theorem incoherent_congr {b b1 : Bus} (h : b1.lines = b.lines) : incoherent c b1 = incoherent c b := by
  unfold incoherent; rw [h]

theorem Completes.bind {x : B α} {f : α → B β} (hx : Completes c x) (hf : ∀ a, Completes c (f a)) :
    Completes c (x >>= f) := by
  refine ⟨fun b hb => ?_⟩
  obtain ⟨a, b1, run1, lines1, ev1⟩ := hx.run b hb
  obtain ⟨r, b2, run2, lines2, ev2⟩ := (hf a).run b1 ((incoherent_congr lines1).trans hb)
  exact ⟨r, b2, (B.bind_ok run1).trans run2, lines2.trans lines1, ev2.trans ev1⟩

theorem Completes.pure (a : α) : Completes c (pure a : B α) := ⟨fun b _ => ⟨a, b, rfl, rfl, rfl⟩⟩

theorem Completes.regs : Completes c regs := ⟨fun b _ => ⟨c, b, rfl, rfl, rfl⟩⟩

theorem Completes.withRegs {f : Cpu → B β} (h : Completes c (f c)) : Completes c (Machine.regs >>= f) := ⟨h.run⟩

theorem Completes.getBus : Completes c getBus := ⟨fun b _ => ⟨b, b, rfl, rfl, rfl⟩⟩

theorem Completes.free : Completes c free := ⟨fun b _ => ⟨_, _, run_free c b, rfl, rfl⟩⟩

theorem Completes.modBus {f : Bus → Bus} (hl : ∀ b, (f b).lines = b.lines) (he : ∀ b, (f b).ev = b.ev) :
    Completes c (modBus f) := ⟨fun b _ => ⟨(), f b, rfl, hl b, he b⟩⟩

theorem Completes.accessed : Completes c (Machine.modBus Bus.accessed) := .modBus Bus.accessed_lines Bus.accessed_ev

theorem Completes.ite {q : Prop} [Decidable q] {x y : B α} (hx : Completes c x) (hy : Completes c y) :
    Completes c (if q then x else y) := by
  split <;> assumption

theorem completes_speculateAt (la : W32) : Completes c (speculateAt la) := by
  have fill (sets : List EntryRef) (e : TlbEntry) : Completes c (applySets sets >>= fun _ => modBus (Bus.fill e)) :=
    .bind (.withRegs (.modBus (Bus.setAccessedFlags_lines · c sets) (Bus.setAccessedFlags_ev · c sets))) fun _ =>
      .modBus (Bus.fill_lines · e) (Bus.fill_ev · e)
  refine .withRegs (.bind .getBus fun b => .bind .accessed fun _ => ?_)
  split
  · exact .ite (fill _ _) (.pure _)
  · exact .pure _

theorem completes_speculateFor (n : Nat) : Completes c (speculateFor n) := by
  induction n with
  | zero => exact .pure ()
  | succ n ih => exact .bind .free fun _ => .bind (completes_speculateAt _) fun _ => ih

theorem completes_speculate : Completes c speculate :=
  .withRegs (.ite (.bind .free fun _ => completes_speculateFor _) (.pure _))

/-- Every byte of the state save map lies in memory of a defined type. -/
def Cpu.SmmTyped (c : Cpu) : Prop := ∀ a ∈ smmAddrs c 0x7E00 0x200, ∃ ty, memType c none a = .ok ty

/-- A field of the state save map lies in it. -/
theorem smmAddrs_subset (c : Cpu) {off n : Nat} (lo : 0x7E00 ≤ off) (hi : off + n ≤ 0x8000) :
    smmAddrs c off n ⊆ smmAddrs c 0x7E00 0x200 := by
  intro a ha
  simp only [smmAddrs, List.mem_map, List.mem_range] at ha ⊢
  obtain ⟨i, hlt, rfl⟩ := ha
  exact ⟨off - 0x7E00 + i, by omega, by congr 3; omega⟩

theorem completes_typesOf {l : List Nat} (h : ∀ a ∈ l, ∃ ty, memType c none a = .ok ty) : Completes c (typesOf l) := by
  induction l with
  | nil => exact .pure []
  | cons a l ih =>
    obtain ⟨ty, hty⟩ := h a List.mem_cons_self
    have first : Completes c (typeOrRefuse none a) := ⟨fun b _ => ⟨ty, b, typeOrRefuse_ok hty b, rfl, rfl⟩⟩
    exact .bind first fun _ => .bind (ih fun a ha => h a (List.mem_cons_of_mem _ ha)) fun _ => .pure _

section
variable {off n : Nat} (ht : c.SmmTyped) (lo : 0x7E00 ≤ off) (hi : off + n ≤ 0x8000)
include ht lo hi

theorem completes_smmPhys : Completes c (smmPhys off n) := by
  have types : Completes c (typesOf (smmAddrs c off n)) :=
    completes_typesOf fun a ha => ht a (smmAddrs_subset c lo hi ha)
  refine .withRegs ⟨fun b hb => ?_⟩
  rw [B.bind_ok (run_getBus c b), hb]
  exact (types.bind fun _ => .pure _).run b hb

theorem completes_mapBytes : Completes c (mapBytes off n) :=
  .bind (completes_smmPhys ht lo hi) fun _ => .bind .getBus fun _ => .bind .accessed fun _ => .pure _

end

theorem completes_mapReserved (ht : c.SmmTyped) {l : List (Nat × Nat)}
    (hl : ∀ f ∈ l, 0x7E00 ≤ f.1 ∧ f.1 + f.2 ≤ 0x8000) : Completes c (mapReserved l) := by
  induction l with
  | nil => exact .pure []
  | cons f l ih =>
    obtain ⟨lo, hi⟩ := hl f List.mem_cons_self
    exact .bind (completes_mapBytes ht lo hi) fun _ =>
      .bind (ih fun f hf => hl f (List.mem_cons_of_mem _ hf)) fun _ => .pure _

theorem completes_writeMap (ht : c.SmmTyped) {l : List (Nat × Nat × Nat)}
    (hl : ∀ f ∈ l, 0x7E00 ≤ f.1 ∧ f.1 + f.2.1 ≤ 0x8000) : Completes c (writeMap l) := by
  induction l with
  | nil => exact completes_speculate
  | cons f l ih =>
    obtain ⟨off, n, v⟩ := f
    obtain ⟨lo, hi⟩ := hl _ List.mem_cons_self
    exact .bind completes_speculate fun _ => .bind (completes_smmPhys ht lo hi) fun p => .withRegs <|
      .bind (.modBus (Bus.store_lines · c p _) (Bus.store_ev · c p _)) fun _ =>
        ih fun f hf => hl f (List.mem_cons_of_mem _ hf)

theorem completes_freeGprs : Completes c freeGprs :=
  .bind .free fun _ => .bind .free fun _ => .bind .free fun _ => .bind .free fun _ => .bind .free fun _ =>
    .bind .free fun _ => .bind .free fun _ => .bind .free fun _ => .pure _

end

/-- The fields lie in the state save map (R1121). -/
theorem smmMap_fits (c : Cpu) : ∀ f ∈ smmMap c, 0x7E00 ≤ f.1 ∧ f.1 + f.2.1 ≤ 0x8000 := by
  simp [smmMap]

theorem smmReserved_fits : ∀ f ∈ smmReserved, 0x7E00 ≤ f.1 ∧ f.1 + f.2 ≤ 0x8000 := by decide

/-- `c1` are registers on entry to SMM from registers `c` (R1112, R1135). -/
def EnteredSmm (c c1 : Cpu) : Prop :=
  c1.smm.inSmm = true ∧ c1.smm.smiBlocked = true ∧ c1.smm.nmiBlockedBySmm = true ∧ c1.smm.smbase = c.smm.smbase
    ∧ c1.eip = 0x8000#32 ∧ c1.fl.toBits = 2#32 ∧ c1.ctl.cr0 = c.ctl.cr0 &&& 0x7FFFFFF2#32
    ∧ c1.ctl.cr4 = 0#32 ∧ c1.dbg.dr7 = 0x400#32 ∧ c1.seg.cs.base = c.smm.smbase
    ∧ ∀ sr : Seg, (c1.seg.get sr).limit = 0xFFFFFFFF#32

theorem Eflags.reset_toBits : Eflags.reset.toBits = 2#32 := by decide

/-- Entry to SMM completes where the map lies in memory of a defined type and the caches are coherent. -/
theorem enterSmm_ok {s : State} (hc : incoherent s.cpu s.bus = false) (ht : s.cpu.SmmTyped) :
    ∃ u, enterSmm s = .ok () u ∧ EnteredSmm s.cpu u.cpu ∧ u.bus.ev = s.bus.ev := by
  obtain ⟨_, b1, written, lines1, ev1⟩ := (completes_writeMap ht (smmMap_fits s.cpu)).run s.bus hc
  obtain ⟨reserved, b2, kept, lines2, ev2⟩ :=
    (completes_mapReserved ht smmReserved_fits).run b1 ((incoherent_congr lines1).trans hc)
  obtain ⟨g, b3, freed, -, ev3⟩ :=
    completes_freeGprs.run b2 ((incoherent_congr (lines2.trans lines1)).trans hc)
  unfold enterSmm
  rw [M.bind_ok (run_getCpu s), M.bind_ok (onBus_ok written), M.bind_ok (onBus_ok (s := ⟨s.cpu, b1⟩) kept),
    M.bind_ok (onBus_ok (s := ⟨s.cpu, b2⟩) freed), M.bind_ok (onBus_ok (s := ⟨s.cpu, b3⟩) (run_free _ _)),
    M.bind_ok (run_modCpu _ _)]
  refine ⟨_, rfl, ⟨rfl, rfl, rfl, rfl, rfl, Eflags.reset_toBits, rfl, rfl, rfl, rfl, fun sr => ?_⟩,
    ev3.trans (ev2.trans ev1)⟩
  cases sr <;> rfl

/-- Settles O57: the priority table class by class, then each event by what `takeHappening` does. -/
theorem externalEventsAtBoundary : Obligations.ExternalEventsAtBoundary := by
  unfold Obligations.ExternalEventsAtBoundary
  refine ⟨fun c b hrun hreset hmc hbinit hp => ?_, fun s t h hl => ⟨?_, ?_, ?_, ?_, ?_⟩⟩
  · have active : happening c b = externalOr c b .instruction := by
      unfold happening
      rw [hreset, hrun, ← activeNext_external hmc hbinit hp]
      rfl
    rw [active]
    unfold externalOr
    simp only [interruptOr_instruction, Bool.and_eq_true, Bool.not_eq_true']
    cases c.hid.pendingDb with
    | none => rfl
    | some p => cases c.hid.ssShadow <;> rfl
  · rintro rfl
    exact step_takes hl nofun rfl
  · rintro rfl
    exact step_takes hl nofun rfl
  · rintro rfl
    exact step_takes hl nofun rfl
  · rintro rfl
    have stepped := step_event hl nofun (takeInit_ok t)
    rw [finishEvent_unbranched rfl] at stepped
    exact ⟨_, stepped, rfl, rfl, rfl, rfl, rfl, rfl⟩
  · rintro rfl hc ht
    let asked : State := { t with bus := { t.bus with ev := { t.bus.ev with smi := false } } }
    obtain ⟨u, entered, regs, ev⟩ := enterSmm_ok (s := asked) hc ht
    have taken : takeHappening .smi t = .ok () u := (M.bind_ok (t := asked) rfl).trans entered
    have stepped := step_event hl nofun taken
    obtain ⟨p, hp⟩ := finishEvent_eq t.cpu u
    rw [hp] at stepped
    exact ⟨_, stepped, congrArg Events.smi ev, regs⟩

end Sys2Proof.Machine
end

section
namespace Sys2Proof.Machine

/-! Reset. -/

/-- Settles O4: the reset state is a literal, read field by field. -/
theorem resetValues : Obligations.ResetValues := by
  unfold Obligations.ResetValues
  refine ⟨by decide, rfl, rfl, rfl, rfl, rfl, rfl, rfl, rfl, fun sr h => ?_, rfl, rfl, rfl, rfl, rfl, rfl, rfl, rfl,
    rfl, rfl, rfl, by decide⟩
  cases sr with
  | cs => exact absurd rfl h
  | es | ss | ds | fs | gs => exact ⟨rfl, rfl, rfl⟩

/-! MOV to and from debug registers. -/

theorem Cpu.drAllowed_iff (c : Cpu) (n : BitVec 3) : c.drAllowed n = true ↔
    (c.smm.inSmm = true ∨ c.unprivileged = false) ∧ ¬((n = 4#3 ∨ n = 5#3) ∧ bit c.ctl.cr4 3 = true)
      ∧ bit c.dbg.dr7 13 = false := by
  simp only [Cpu.drAllowed, Bool.and_eq_true, Bool.or_eq_true, Bool.not_eq_true', ← Bool.not_eq_true, beq_iff_eq, and_assoc]

/-- In SMM or at privilege level 0, #UD of DR4 and DR5 comes before #DB of the general-detect flag (D100). -/
theorem checkDr_eq {s : State} (h : s.cpu.smm.inSmm = true ∨ s.cpu.unprivileged = false) (n : BitVec 3) :
    checkDr n s =
      if (n = 4#3 ∨ n = 5#3) ∧ bit s.cpu.ctl.cr4 3 = true then .error (.exc .ud) s
      else if bit s.cpu.dbg.dr7 13 = true then .error (.exc (.db 0x2000#32)) s
      else .ok () s := by
  have level : ¬(s.cpu.pe && !s.cpu.smm.inSmm && (s.cpu.fl.vm || s.cpu.cpl != 0#2)) = true := by
    rw [Bool.and_right_comm]
    show ¬(s.cpu.unprivileged && !s.cpu.smm.inSmm) = true
    obtain h | h := h <;> simp [h]
  unfold checkDr
  rw [M.bind_ok (run_getCpu s), run_ite, if_neg level]
  dsimp only
  rw [run_ite]
  split
  · rfl
  · rw [run_ite]
    split <;> rfl

theorem checkDr_ok {s : State} {n : BitVec 3} (h : s.cpu.drAllowed n = true) : checkDr n s = .ok () s := by
  obtain ⟨level, number, detect⟩ := (Cpu.drAllowed_iff _ _).mp h
  rw [checkDr_eq level, if_neg number, if_neg (Bool.not_eq_true _ ▸ detect)]

theorem movRDr_reads {s : State} {n : BitVec 3} (h : s.cpu.drAllowed n = true) (r : Gpr) :
    exec (.movRDr n r) s = .next
      { s.past with cpu := { s.past.cpu with gpr := s.cpu.gpr.set r (s.cpu.dbg.get (drNumber n)) } } :=
  exec_next (x := movFromDr n r) (M.bind_ok (checkDr_ok (s := s.past) h))

theorem movDrR_leaves {s : State} {n : BitVec 3} (h : s.cpu.drAllowed n = true) (r : Gpr) :
    exec (.movDrR n r) s = .next
      { cpu := { s.past.cpu with dbg := s.cpu.dbg.set (drNumber n) (s.cpu.gpr.get r) }, bus := s.bus.serialized } :=
  exec_next (x := movToDr n r) (M.bind_ok (checkDr_ok (s := s.past) h))

/-- A check that raises an exception does so in both moves. -/
theorem drMoves_raise {s : State} {n : BitVec 3} {e : Exc} (h : checkDr n s.past = .error (.exc e) s.past)
    (he : e.commit = false) (r : Gpr) :
    exec (.movRDr n r) s = s.raises e s.bus ∧ exec (.movDrR n r) s = s.raises e s.bus :=
  ⟨exec_raises (x := movFromDr n r) (M.bind_error h) he rfl, exec_raises (x := movToDr n r) (M.bind_error h) he rfl⟩

/-- Settles O46: the check of the move, then the register that the number names. -/
theorem debugRegisterMoves : Obligations.DebugRegisterMoves := by
  unfold Obligations.DebugRegisterMoves
  intro s n r
  refine ⟨fun h => ?_, fun level => ⟨fun number => ?_, fun number detect => ?_⟩⟩
  · have moves := And.intro (movRDr_reads h r) (movDrR_leaves h r)
    refine ⟨?_, ?_, ?_, ?_, ?_, ?_⟩
    · rintro rfl; exact moves
    · rintro rfl; exact moves
    · rintro rfl; exact moves
    · rintro rfl; exact moves
    · rintro (rfl | rfl) <;> exact moves
    · rintro (rfl | rfl) <;> exact moves
  · exact drMoves_raise ((checkDr_eq (s := s.past) level n).trans (if_pos number)) rfl r
  · exact drMoves_raise ((checkDr_eq (s := s.past) level n).trans ((if_neg number).trans (if_pos detect))) rfl r

end Sys2Proof.Machine
end

section
namespace Sys2Proof.Machine

/-! RDTSC, RDPMC and CPUID. -/

theorem rdtscOp_eq (s : State) : rdtscOp s =
    if (s.cpu.pe = true ∧ s.cpu.cpl ≠ 0#2) ∧ bit s.cpu.ctl.cr4 2 = true then .error (.exc (.gp 0#32)) s
    else setEdxEax s.cpu.msr.tsc s := by
  have cond : (s.cpu.pe && bit s.cpu.ctl.cr4 2 && s.cpu.cpl != 0#2) = true
      ↔ (s.cpu.pe = true ∧ s.cpu.cpl ≠ 0#2) ∧ bit s.cpu.ctl.cr4 2 = true := by
    simp [and_right_comm]
  unfold rdtscOp
  rw [M.bind_ok (run_getCpu s), run_ite]
  simp only [cond]
  split <;> rfl

/-- RDPMC where it is allowed. -/
def readCounter (c : Cpu) : M Unit :=
  if c.gpr.ecx = 0#32 then setEdxEax (c.msr.perfCtr0.setWidth 64)
  else if c.gpr.ecx = 1#32 then setEdxEax (c.msr.perfCtr1.setWidth 64)
  else raise (.gp 0#32)

theorem rdpmcOp_eq (s : State) : rdpmcOp s =
    if (s.cpu.pe = true ∧ s.cpu.cpl ≠ 0#2) ∧ bit s.cpu.ctl.cr4 8 = false then .error (.exc (.gp 0#32)) s
    else readCounter s.cpu s := by
  have cond : (s.cpu.pe && !bit s.cpu.ctl.cr4 8 && s.cpu.cpl != 0#2) = true
      ↔ (s.cpu.pe = true ∧ s.cpu.cpl ≠ 0#2) ∧ bit s.cpu.ctl.cr4 8 = false := by
    simp [and_right_comm]
  unfold rdpmcOp
  rw [M.bind_ok (run_getCpu s), run_ite]
  simp only [cond]
  split <;> rfl

theorem Cpu.cpuidSignature_eq (c : Cpu) : c.cpuidSignature = { c with
    msr.mcuSignature := if c.msr.mcuRevision = 0#32 then c.msr.mcuSignature else c.msr.mcuRevision ++ 0#32 } := by
  unfold Cpu.cpuidSignature
  by_cases h : c.msr.mcuRevision = 0#32
  · rw [if_pos h, if_pos h]
  · rw [if_neg h, if_neg h]

/-- CPUID leaves the leaf of EAX in the registers, and the update signature (R1347). -/
theorem exec_cpuid (s : State) {a b x d : W32} (h : s.cpu.cpuidLeaf s.cpu.gpr.eax = (a, b, x, d)) :
    exec .cpuid s = .next
      { cpu := { s.past.cpu with
          gpr := { s.cpu.gpr with eax := a, ebx := b, ecx := x, edx := d }
          msr.mcuSignature := if s.cpu.msr.mcuRevision = 0#32 then s.cpu.msr.mcuSignature
            else s.cpu.msr.mcuRevision ++ 0#32 }
        bus := s.bus.serialized } := by
  have leaf : s.past.cpu.cpuidLeaf s.past.cpu.gpr.eax = (a, b, x, d) := h
  refine exec_next (x := cpuidOp) ((M.bind_ok (run_modCpu _ _)).trans ?_)
  simp only [leaf, Cpu.cpuidSignature_eq]
  rfl

/-- Settles O48: the guards of RDTSC and RDPMC, then the leaves of CPUID. -/
theorem countersAndCpuid : Obligations.CountersAndCpuid := by
  unfold Obligations.CountersAndCpuid
  intro s
  have allowed (h : ¬((s.cpu.pe = true ∧ s.cpu.cpl ≠ 0#2) ∧ bit s.cpu.ctl.cr4 8 = false)) :
      rdpmcOp s.past = readCounter s.past.cpu s.past := (rdpmcOp_eq s.past).trans (if_neg h)
  refine ⟨fun h => ?_, fun h => ?_, fun h => ⟨fun h0 => ?_, fun h1 => ?_, fun hn => ?_⟩, fun h => ?_,
    fun a b x d leaf => exec_cpuid s ?_⟩
  · exact exec_next ((rdtscOp_eq s.past).trans (if_neg h))
  · exact exec_raises ((rdtscOp_eq s.past).trans (if_pos h)) rfl rfl
  · exact exec_next (x := rdpmcOp) ((allowed h).trans (congrFun (if_pos h0) s.past))
  · have n0 : s.cpu.gpr.ecx ≠ 0#32 := by simp [h1]
    exact exec_next (x := rdpmcOp) ((allowed h).trans (congrFun ((if_neg n0).trans (if_pos h1)) s.past))
  · exact exec_raises (x := rdpmcOp) (t := s.past)
      ((allowed h).trans (congrFun ((if_neg hn.1).trans (if_neg hn.2)) s.past)) rfl rfl
  · exact exec_raises ((rdpmcOp_eq s.past).trans (if_pos h)) rfl rfl
  · unfold Cpu.cpuidLeaf
    obtain ⟨h, rfl, rfl, rfl, rfl⟩ | ⟨h, rfl, rfl, rfl, rfl⟩ | ⟨h0, h1, rfl, rfl, rfl, rfl⟩ := leaf
    · rw [if_pos h]
    · rw [if_neg (by simp [h]), if_pos h]
      rfl
    · rw [if_neg h0, if_neg h1]

end Sys2Proof.Machine
end

section
namespace Sys2Proof.Machine

/-! Registers of the local APIC that hold a bit for each vector. -/

theorem Highest.lt {r : BitVec 256} {v : Nat} (h : Highest r v) : v < 256 := by
  by_contra hv
  have := h.1
  rw [BitVec.getLsbD_of_ge _ _ (by omega)] at this
  cases this

theorem Highest.ne_zero {r : BitVec 256} {v : Nat} (h : Highest r v) : r ≠ 0#256 := by
  rintro rfl
  simpa using h.1

theorem Highest.highestBelow {r : BitVec 256} {v : Nat} (h : Highest r v) (n : Nat) (hn : v < n) :
    Apic.highestBelow r n = v := by
  induction n with
  | zero => omega
  | succ n ih =>
    unfold Apic.highestBelow
    by_cases e : n = v
    · rw [e, if_pos h.1]
    · rw [if_neg (by simp [h.2 n (by omega)]), ih (by omega)]

theorem Highest.highest {r : BitVec 256} {v : Nat} (h : Highest r v) : Apic.highest r = v := by
  unfold Apic.highest
  rw [if_neg h.ne_zero, h.highestBelow 256 h.lt]

theorem getLsbD_vector {v : Nat} (hv : v < 256) (k : Nat) : (1#256 <<< v).getLsbD k = (k == v) := by
  rw [← BitVec.twoPow_eq, BitVec.getLsbD_twoPow, Bool.eq_iff_iff]
  simp only [Bool.and_eq_true, decide_eq_true_eq, beq_iff_eq]
  omega

theorem Apic.getLsbD_setVec (r : BitVec 256) {v : Nat} (hv : v < 256) (k : Nat) :
    (Apic.setVec r v).getLsbD k = (r.getLsbD k || k == v) := by
  rw [Apic.setVec, BitVec.getLsbD_or, getLsbD_vector hv]

theorem Apic.getLsbD_clearVec (r : BitVec 256) {v : Nat} (hv : v < 256) (k : Nat) :
    (Apic.clearVec r v).getLsbD k = (r.getLsbD k && k != v) := by
  rw [Apic.clearVec, BitVec.getLsbD_and, BitVec.getLsbD_not, getLsbD_vector hv]
  by_cases hk : k < 256
  · simp [hk, bne]
  · simp [BitVec.getLsbD_of_ge r k (by omega)]

/-! The priorities (R1051), in the numbers of the statement. -/

theorem toNat_class (v : Byte) : (v.extractLsb' 4 4).toNat = v.toNat / 16 := by
  have := v.isLt
  simp [BitVec.extractLsb'_toNat, Nat.shiftRight_eq_div_pow]
  omega

/-- The processor priority follows the task priority or the highest vector in service. -/
theorem Apic.ppr_eq (a : Apic) {v : Nat} (hv : v < 256) (h : Apic.highest a.isr = v) :
    Apic.ppr a = if v / 16 ≤ (a.tpr.extractLsb' 4 4).toNat then a.tpr else BitVec.ofNat 4 (v / 16) ++ 0#4 := by
  have cls : (BitVec.ofNat 8 v).extractLsb' 4 4 = BitVec.ofNat 4 (v / 16) := by
    apply BitVec.eq_of_toNat_eq
    rw [toNat_class, BitVec.toNat_ofNat, BitVec.toNat_ofNat]
    omega
  have cond : a.tpr.extractLsb' 4 4 ≥ BitVec.ofNat 4 (v / 16) ↔ v / 16 ≤ (a.tpr.extractLsb' 4 4).toNat := by
    rw [ge_iff_le, BitVec.le_def, BitVec.toNat_ofNat, Nat.mod_eq_of_lt (by omega)]
  unfold Apic.ppr
  rw [h]
  simp only [cls, cond]

theorem Apic.pendingVector_eq (a : Apic) {v : Byte} (h : Highest a.irr v.toNat) :
    Apic.pendingVector a = if v.toNat / 16 > (Apic.ppr a).toNat / 16 then some v else none := by
  have cond : v.extractLsb' 4 4 > (Apic.ppr a).extractLsb' 4 4 ↔ v.toNat / 16 > (Apic.ppr a).toNat / 16 := by
    rw [gt_iff_lt, BitVec.lt_def, toNat_class, toNat_class]
  unfold Apic.pendingVector
  simp only [h.highest, BitVec.ofNat_toNat, BitVec.setWidth_eq, cond, h.ne_zero, ne_eq, not_false_eq_true, true_and]

theorem Apic.accept_vector (a : Apic) {v : Byte} (hv : 16 ≤ v.toNat) (level : Bool) :
    Apic.accept a v level = { a with
      irr := Apic.setVec a.irr v.toNat
      tmr := if level then Apic.setVec a.tmr v.toNat else Apic.clearVec a.tmr v.toNat } := by
  unfold Apic.accept
  rw [if_neg (by rw [BitVec.lt_def]; simpa using hv)]
  rfl

theorem Apic.eoi_highest {b : Bus} {v : Nat} (h : Highest b.apic.isr v) :
    (Apic.eoi b).apic.isr = Apic.clearVec b.apic.isr v ∧ (Apic.eoi b).apic.irr = b.apic.irr
      ∧ (Apic.eoi b).out = (if b.apic.tmr.getLsbD v then b.out ++ [.eoi (BitVec.ofNat 8 v)] else b.out)
      ∧ (Apic.eoi b).mem = b.mem := by
  unfold Apic.eoi
  rw [if_neg h.ne_zero]
  simp only [h.highest, true_and, and_true]
  rfl

/-! Accesses to the page of the APIC (R1023). -/

section
variable {c : Cpu} {p : Phys} {off n : Nat}

/-- An access to the page of the APIC, at an offset. -/
def Phys.InApic (p : Phys) (c : Cpu) (off n : Nat) : Prop :=
  Apic.enabled c = true ∧ 0 < n ∧ off + n ≤ 4096 ∧ p.addrs = (List.range n).map (Apic.page c * 4096 + off + ·)

theorem Phys.InApic.length (h : p.InApic c off n) : p.addrs.length = n := by
  obtain ⟨-, -, -, ha⟩ := h
  simp [ha]

theorem Phys.InApic.offset (h : p.InApic c off n) : p.apicOffset c = some off := by
  obtain ⟨he, hn, hoff, ha⟩ := h
  obtain ⟨m, rfl⟩ := Nat.exists_eq_add_one.mpr hn
  have head : p.addrs.headD 0 = Apic.page c * 4096 + off := by simp [ha, List.range_succ_eq_map]
  have first : Apic.page c * 4096 + off ∈ p.addrs := by simp [ha, List.range_succ_eq_map]
  have any : p.addrs.any (fun a => a / 4096 == Apic.page c) = true :=
    List.any_eq_true.mpr ⟨_, first, by rw [beq_iff_eq]; omega⟩
  unfold Phys.apicOffset
  rw [he, any, head, Bool.and_self, if_pos rfl]
  congr 1
  omega

theorem Phys.InApic.readPhys_eq (h : p.InApic c off n) (b : Bus) :
    readPhys p c b = (Apic.load off n >>= fun v => (pure (leBytes n v.toNat) : B _)) c b := by
  unfold readPhys
  rw [B.bind_ok (run_regs c b)]
  simp only [h.offset, h.length]

theorem Phys.InApic.writePhys_eq (h : p.InApic c off n) (hl : p.leaves = []) (bytes : List Byte) {b b0 : Bus}
    (hs : speculate c b = .ok () b0) :
    writePhys p bytes c b = Apic.store off n (BitVec.ofNat 32 (leNat bytes)) c b0 := by
  rw [writePhys_part (.inr (by rw [h.offset]; rfl)), writePart, B.bind_ok hs, storePhys, B.bind_ok (run_regs c b0), hl]
  rw [B.bind_ok (run_modBus _ c b0)]
  simp only [h.offset, h.length]
  rfl

end

theorem Apic.load_refused {off n : Nat} (h : ¬(n = 4 ∧ off % 16 = 0)) (c : Cpu) (b : Bus) :
    Apic.load off n c b = .error (.refuse .apicAccessWidth) b := by
  unfold Apic.load Apic.aligned
  rw [if_neg (by simpa using h)]
  rfl

theorem Apic.store_refused {off n : Nat} (h : ¬(n = 4 ∧ off % 16 = 0)) (v : W32) (c : Cpu) (b : Bus) :
    Apic.store off n v c b = .error (.refuse .apicAccessWidth) b := by
  unfold Apic.store Apic.aligned
  rw [if_neg (by simpa using h)]
  rfl

/-- A register reads as its value but for its reserved bits, which may read as anything. -/
theorem Apic.readReg_ok {off : Nat} {c : Cpu} {b : Bus} {v : W32} (h : Apic.regValue b.apic off = some v) :
    ∃ x k, Apic.readReg off c b = .ok x { b with freeCtr := k }
      ∧ x &&& ~~~(Apic.reservedBits b.apic off) = v &&& ~~~(Apic.reservedBits b.apic off) := by
  unfold Apic.readReg
  rw [B.bind_ok (run_getBus c b)]
  simp only [h]
  by_cases hr : Apic.reservedBits b.apic off = 0#32
  · rw [if_pos hr]
    exact ⟨v, b.freeCtr, rfl, rfl⟩
  · rw [if_neg hr, B.bind_ok (run_free c b)]
    refine ⟨_, _, rfl, ?_⟩
    ext i hi
    simp only [BitVec.getElem_and, BitVec.getElem_or, BitVec.getElem_not]
    cases v[i] <;> cases (Apic.reservedBits b.apic off)[i] <;> simp

theorem Apic.load_ok {off : Nat} {c : Cpu} {b : Bus} {v mask : W32} (hoff : off % 16 = 0)
    (hv : Apic.regValue b.apic off = some v) (hr : Apic.reservedBits b.apic off = ~~~mask) :
    ∃ x k, Apic.load off 4 c b = .ok x { b with freeCtr := k } ∧ x &&& mask = v &&& mask := by
  unfold Apic.load Apic.aligned
  rw [if_pos (by simpa using hoff)]
  simpa [hr] using Apic.readReg_ok (c := c) hv

theorem Apic.store_aligned {off : Nat} (hoff : off % 16 = 0) (v : W32) : Apic.store off 4 v = Apic.writeReg off v := by
  unfold Apic.store Apic.aligned
  rw [if_pos (by simpa using hoff)]

/-! The registers (R1024). -/

/-- A field of n bits at bit k lies in its mask. -/
theorem field_and_mask {n : Nat} (x : BitVec n) (k : Nat) :
    (x.setWidth 32 <<< k) &&& ((BitVec.allOnes n).setWidth 32 <<< k) = x.setWidth 32 <<< k := by
  rw [← BitVec.shiftLeft_and_distrib, ← BitVec.setWidth_and, BitVec.and_allOnes]

theorem Apic.regValue_vectors (a : Apic) {i : Nat} (hi : i < 8) :
    Apic.regValue a (0x100 + 16 * i) = some (Apic.part a.isr i)
      ∧ Apic.regValue a (0x180 + 16 * i) = some (Apic.part a.tmr i)
      ∧ Apic.regValue a (0x200 + 16 * i) = some (Apic.part a.irr i) := by
  interval_cases i <;> exact ⟨rfl, rfl, rfl⟩

theorem Apic.reservedBits_vectors (a : Apic) {i : Nat} (hi : i < 8) {base : Nat}
    (hb : base = 0x100 ∨ base = 0x180 ∨ base = 0x200) :
    Apic.reservedBits a (base + 16 * i) = ~~~(if i = 0 then 0xFFFF0000#32 else 0xFFFFFFFF#32) := by
  obtain rfl | rfl | rfl := hb <;> interval_cases i <;> rfl

theorem Apic.writeReg_readOnly {off : Nat} (h : off % 16 = 0 ∧ ((0x100 ≤ off ∧ off < 0x280) ∨ off = 0xA0)) (v : W32)
    (c : Cpu) (b : Bus) : Apic.writeReg off v c b = .ok () b := by
  have kept : Apic.readOnly off = true := by
    simp only [Apic.readOnly, decide_eq_true_eq]
    omega
  unfold Apic.writeReg
  rw [B.bind_ok (run_getBus c b)]
  dsimp only
  iterate 16 rw [if_neg (by omega)]
  rw [if_pos kept]
  rfl

theorem Apic.writeReg_svr {v : W32} (h : bit v 8 = true) (c : Cpu) (b : Bus) :
    Apic.writeReg 0xF0 v c b = .ok () { b with apic := { b.apic with svr := v.extractLsb' 4 6 ++ 15#4 } } := by
  show EStateM.Result.ok () { b with apic := if bit v 8 then _ else _ } = _
  rw [if_pos h]

section
variable {c : Cpu} {b b0 : Bus} {p : Phys} {off : Nat}

/-- A register reads as its value `w` in the bits of `mask`, which are not reserved. -/
theorem Phys.InApic.register_reads (h : p.InApic c off 4) {v w mask : W32} (hoff : off % 16 = 0)
    (hv : Apic.regValue b.apic off = some w) (hr : Apic.reservedBits b.apic off = ~~~mask) (hm : w &&& mask = v) :
    ∃ (x : W32) (k : Nat), readPhys p c b = .ok (leBytes 4 x.toNat) { b with freeCtr := k } ∧ x &&& mask = v := by
  obtain ⟨x, k, loaded, hx⟩ := Apic.load_ok (c := c) hoff hv hr
  exact ⟨x, k, by rw [h.readPhys_eq, B.bind_ok loaded]; rfl, hx.trans hm⟩

theorem Phys.InApic.register_written (h : p.InApic c off 4) (hl : p.leaves = []) {v : W32} {a : Apic} (hoff : off % 16 = 0)
    (hs : speculate c b = .ok () b0) (hw : Apic.writeReg off v c b0 = .ok () { b0 with apic := a }) :
    writePhys p (leBytes 4 v.toNat) c b = .ok () { b0 with apic := a } := by
  have value : BitVec.ofNat 32 (leNat (leBytes 4 v.toNat)) = v := by
    rw [leNat_leBytes, Nat.mod_eq_of_lt (show v.toNat < 256 ^ 4 from v.isLt), BitVec.ofNat_toNat, BitVec.setWidth_eq]
  rw [h.writePhys_eq hl _ hs, Apic.store_aligned hoff, value, hw]

end

/-- Settles O56: the registers one by one, then what acceptance, dispensing and EOI do to the bit of a vector. -/
theorem apicRegistersAndPriorities : Obligations.ApicRegistersAndPriorities := by
  unfold Obligations.ApicRegistersAndPriorities
  refine ⟨fun c b p off n he hn hoff hl ha => ?_, fun a v hv => ?_, fun a v level hv => ?_, fun a v hv => ?_,
    fun b v hv => ?_⟩
  · have here : p.InApic c off n := ⟨he, hn, hoff, ha⟩
    refine ⟨fun h => ⟨?_, fun bytes b0 hs => ?_⟩, ?_⟩
    · rw [here.readPhys_eq, B.bind_error (Apic.load_refused h c b)]
    · rw [here.writePhys_eq hl bytes hs, Apic.store_refused h]
    rintro rfl
    refine ⟨fun v mask h => ?_, fun v a1 h b0 hs => ?_⟩
    · obtain ⟨rfl, rfl, rfl⟩ | ⟨rfl, rfl, rfl⟩ | ⟨rfl, rfl, rfl⟩ | ⟨rfl, rfl, rfl⟩ | ⟨rfl, rfl, rfl⟩ | ⟨rfl, rfl, rfl⟩ |
        ⟨i, hi, rfl, r, hr, rfl⟩ := h
      · exact here.register_reads rfl rfl rfl (field_and_mask b.apic.id 24)
      · exact here.register_reads rfl rfl rfl (by simpa using field_and_mask b.apic.tpr 0)
      · exact here.register_reads rfl rfl rfl (by simpa using field_and_mask (Apic.ppr b.apic) 0)
      · exact here.register_reads rfl rfl rfl (field_and_mask b.apic.ldr 24)
      · exact here.register_reads rfl rfl rfl BitVec.and_allOnes
      · exact here.register_reads rfl rfl rfl (by simpa using field_and_mask b.apic.svr 0)
      · obtain ⟨isr, tmr, irr⟩ := Apic.regValue_vectors b.apic hi
        obtain ⟨rfl, rfl⟩ | ⟨rfl, rfl⟩ | ⟨rfl, rfl⟩ := hr
        · exact here.register_reads (by omega) isr (Apic.reservedBits_vectors _ hi (.inl rfl)) rfl
        · exact here.register_reads (by omega) tmr (Apic.reservedBits_vectors _ hi (.inr (.inl rfl))) rfl
        · exact here.register_reads (by omega) irr (Apic.reservedBits_vectors _ hi (.inr (.inr rfl))) rfl
    · obtain ⟨b1, hs1, apic⟩ := speculate_ok c b
      cases hs.symm.trans hs1
      rw [← apic] at h
      obtain ⟨rfl, rfl⟩ | ⟨rfl, rfl⟩ | ⟨rfl, rfl⟩ | ⟨rfl, rfl⟩ | ⟨rfl, hv, rfl⟩ | ⟨hoff, hro, rfl⟩ := h
      · exact here.register_written hl rfl hs rfl
      · exact here.register_written hl rfl hs rfl
      · exact here.register_written hl rfl hs rfl
      · exact here.register_written hl rfl hs rfl
      · exact here.register_written hl rfl hs (Apic.writeReg_svr hv c b0)
      · exact here.register_written hl hoff hs (Apic.writeReg_readOnly ⟨hoff, hro⟩ v c b0)
  · obtain ⟨h0, rfl⟩ | hv := hv
    · exact Apic.ppr_eq a (by decide) (by rw [h0]; rfl)
    · exact Apic.ppr_eq a hv.lt hv.highest
  · rw [Apic.accept_vector a hv]
    refine ⟨fun k => ⟨Apic.getLsbD_setVec _ v.isLt k, ?_⟩, rfl⟩
    cases level with
    | true =>
      refine (Apic.getLsbD_setVec a.tmr v.isLt k).trans ?_
      by_cases hk : k = v.toNat <;> simp [hk]
    | false =>
      refine (Apic.getLsbD_clearVec a.tmr v.isLt k).trans ?_
      by_cases hk : k = v.toNat <;> simp [hk]
  · refine ⟨fun h => ?_, fun h => ?_⟩
    · have pending : Apic.pendingVector a = some v := (Apic.pendingVector_eq a hv).trans (if_pos h)
      refine ⟨_, by rw [Apic.dispense, pending], rfl, fun k => ⟨?_, ?_⟩⟩
      · exact Apic.getLsbD_clearVec _ v.isLt k
      · exact Apic.getLsbD_setVec _ v.isLt k
    · have pending : Apic.pendingVector a = none := (Apic.pendingVector_eq a hv).trans (if_neg (by omega))
      rw [Apic.dispense, pending]
      rfl
  · obtain ⟨isr, irr, out, mem⟩ := Apic.eoi_highest hv
    exact ⟨fun k => by rw [isr, Apic.getLsbD_clearVec _ hv.lt], irr, out, mem⟩

end Sys2Proof.Machine
end

section
namespace Sys2Proof.Machine

/-! Reading the state save map (R1121). -/

/-- `s` after the use of free values, `k` being the count of them. -/
def State.frees (s : State) (k : Nat) : State := { s with bus := { s.bus with freeCtr := k } }

/-- In `s`, however many free values have been used, `x` completes with an answer that satisfies `P`, and changes nothing but
the count of free values. -/
structure Answers {α : Type} (s : State) (x : B α) (P : α → Prop) : Prop where
  run (k : Nat) : ∃ a k', P a ∧ x s.cpu (s.frees k).bus = .ok a (s.frees k').bus

section
variable {α β : Type} {s : State} {P : α → Prop} {Q : β → Prop}

theorem Answers.pure {a : α} (h : P a) : Answers s (pure a) P := ⟨fun k => ⟨a, k, h, rfl⟩⟩

theorem Answers.free {P : W32 → Prop} (h : ∀ w, P w) : Answers s free P := ⟨fun k => ⟨_, k + 1, h _, rfl⟩⟩

theorem Answers.withRegs {f : Cpu → B β} (h : Answers s (f s.cpu) Q) : Answers s (regs >>= f) Q := ⟨h.run⟩

theorem Answers.bind {x : B α} {f : α → B β} (hx : Answers s x P) (hf : ∀ a, P a → Answers s (f a) Q) :
    Answers s (x >>= f) Q := by
  refine ⟨fun k => ?_⟩
  obtain ⟨a, k1, ha, run1⟩ := hx.run k
  obtain ⟨r, k2, hr, run2⟩ := (hf a ha).run k1
  exact ⟨r, k2, hr, (B.bind_ok run1).trans run2⟩

theorem Answers.bindEq {x : B α} {f : α → B β} {a : α} (hx : Answers s x (· = a)) (hf : Answers s (f a) Q) :
    Answers s (x >>= f) Q := .bind hx (by rintro _ rfl; exact hf)

/-- Such an access in an instruction. -/
theorem Answers.onBus_bind {x : B α} (h : Answers s x P) (k : Nat) : ∃ a k', P a ∧
    ∀ f : α → M β, (onBus x >>= f) (s.frees k) = f a (s.frees k') := by
  obtain ⟨a, k', ha, run⟩ := h.run k
  exact ⟨a, k', ha, fun f => M.bind_ok (onBus_ok (s := s.frees k) run)⟩

/-- The map lies in memory of a defined type, and the caches are coherent (log 22). -/
structure State.MapReadable (s : State) : Prop where
  coherent : incoherent s.cpu s.bus = false
  typed : s.cpu.SmmTyped
  present : ∀ a ∈ smmAddrs s.cpu 0x7E00 0x200, s.bus.absent a = false

/-- A range of offsets lies in the map. -/
abbrev InMap (off n : Nat) : Prop := 0x7E00 ≤ off ∧ off + n ≤ 0x8000

theorem typesOf_ok {c : Cpu} {l : List Nat} (h : ∀ a ∈ l, ∃ ty, memType c none a = .ok ty) (b : Bus) :
    ∃ ts, typesOf l c b = .ok ts b := by
  induction l with
  | nil => exact ⟨[], rfl⟩
  | cons a l ih =>
    obtain ⟨ty, hty⟩ := h a List.mem_cons_self
    obtain ⟨ts, hts⟩ := ih fun a ha => h a (List.mem_cons_of_mem _ ha)
    exact ⟨ty :: ts, by rw [typesOf, B.bind_ok (typeOrRefuse_ok hty b), B.bind_ok hts]; rfl⟩

theorem smmPhys_ok {c : Cpu} {b : Bus} {off n : Nat} (hc : incoherent c b = false)
    (ht : ∀ a ∈ smmAddrs c off n, ∃ ty, memType c none a = .ok ty) :
    ∃ p, smmPhys off n c b = .ok p b ∧ p.addrs = smmAddrs c off n := by
  obtain ⟨ts, hts⟩ := typesOf_ok ht b
  unfold smmPhys
  rw [B.bind_ok (run_regs c b), B.bind_ok (run_getBus c b), hc]
  exact ⟨_, B.bind_ok hts, rfl⟩

theorem Bus.accessed_frees (s : State) (k : Nat) : ∃ k', (s.frees k).bus.accessed = (s.frees k').bus := by
  unfold Bus.accessed
  split
  · exact ⟨k, rfl⟩
  · exact ⟨k + 1, rfl⟩

/-- Where something resides, what a read gives does not depend on the free values. -/
theorem readBytes_frees {s : State} {as : List Nat} (h : ∀ a ∈ as, s.bus.absent a = false) (k : Nat) :
    (s.frees k).bus.readBytes as = s.bus.readBytes as := by
  refine List.map_congr_left fun a ha => ?_
  have here : (s.frees k).bus.absent a = false := h a ha
  unfold Bus.read
  rw [here, h a ha]
  rfl

variable {off n : Nat}

theorem State.MapReadable.mapBytes (h : s.MapReadable) (hm : InMap off n) :
    Answers s (mapBytes off n) (· = s.bus.readBytes (smmAddrs s.cpu off n)) := by
  have sub := smmAddrs_subset s.cpu hm.1 hm.2
  refine ⟨fun k => ?_⟩
  obtain ⟨p, hp, ha⟩ := smmPhys_ok (b := (s.frees k).bus) h.coherent fun a ha => h.typed a (sub ha)
  obtain ⟨k', hk⟩ := Bus.accessed_frees s k
  refine ⟨_, k', readBytes_frees (fun a ha => h.present a (sub ha)) k, ?_⟩
  unfold Machine.mapBytes
  rw [B.bind_ok hp, B.bind_ok (run_getBus _ _), B.bind_ok (run_modBus _ _ _), hk, ha]
  rfl

theorem State.MapReadable.mapField (h : s.MapReadable) (hm : InMap off n) :
    Answers s (mapField off n) (· = s.smmField off n) :=
  .bindEq (h.mapBytes hm) (.pure rfl)

/-- A doubleword of the map. -/
def State.smmWord (s : State) (off : Nat) : W32 := BitVec.ofNat 32 (s.smmField off 4)

/-- The general registers in the map. -/
def State.smmGprs (s : State) : Gprs :=
  { eax := s.smmWord 0x7FD0, ecx := s.smmWord 0x7FD4, edx := s.smmWord 0x7FD8, ebx := s.smmWord 0x7FDC
    esp := s.smmWord 0x7FE0, ebp := s.smmWord 0x7FE4, esi := s.smmWord 0x7FE8, edi := s.smmWord 0x7FEC }

theorem State.MapReadable.mapGprs (h : s.MapReadable) : Answers s mapGprs (· = s.smmGprs) := by
  have word (off : Nat) (hm : InMap off 4) :
      Answers s (do return BitVec.ofNat 32 (← Machine.mapField off 4)) (· = s.smmWord off) :=
    .bindEq (h.mapField hm) (.pure rfl)
  exact .bindEq (word 0x7FD0 (by decide)) <| .bindEq (word 0x7FD4 (by decide)) <| .bindEq (word 0x7FD8 (by decide)) <|
    .bindEq (word 0x7FDC (by decide)) <| .bindEq (word 0x7FE0 (by decide)) <| .bindEq (word 0x7FE4 (by decide)) <|
    .bindEq (word 0x7FE8 (by decide)) <| .bindEq (word 0x7FEC (by decide)) <| .pure rfl

theorem State.MapReadable.mapReserved (h : s.MapReadable) {l : List (Nat × Nat)} (hl : ∀ x ∈ l, InMap x.1 x.2) :
    Answers s (mapReserved l) (· = l.flatMap fun x => s.bus.readBytes (smmAddrs s.cpu x.1 x.2)) := by
  induction l with
  | nil => exact .pure rfl
  | cons x l ih =>
    exact .bindEq (h.mapBytes (hl x List.mem_cons_self)) <|
      .bindEq (ih fun y hy => hl y (List.mem_cons_of_mem _ hy)) (.pure rfl)

/-- Images that nothing has modified pass the check. -/
theorem State.MapReadable.checkImages (h : s.MapReadable) {l : List (Nat × Nat × Nat)}
    (hl : ∀ x ∈ l, InMap x.1 x.2.1 ∧ s.smmField x.1 x.2.1 = x.2.2) : Answers s (checkImages l) fun _ => True := by
  induction l with
  | nil => exact .pure trivial
  | cons x l ih =>
    obtain ⟨inMap, same⟩ := hl x List.mem_cons_self
    refine .bindEq (h.mapField inMap) ?_
    rw [if_neg (not_not_intro same)]
    exact ih fun y hy => hl y (List.mem_cons_of_mem _ hy)

theorem readOnlyImages_inMap (v : SmmSaved) : ∀ x ∈ readOnlyImages v, InMap x.1 x.2.1 := by
  simp [readOnlyImages, InMap]

/-- EIP after RSM in `s` (R1142, R1145). -/
def State.ResumesAt (s : State) (v : SmmSaved) (eip : W32) : Prop :=
  let halt := (s.smmField 0x7F02 2).testBit 0
  let io := s.smmField 0x7F00 2
  (halt = true → eip = v.haltEip) ∧ (halt = false → io = 0 → eip = s.smmWord 0x7FF0)
    ∧ (halt = false → io = 0xFF → ∀ e, s.cpu.smm.ioRestartEip = some e → eip = e)

theorem State.MapReadable.rsmEip (h : s.MapReadable) (v : SmmSaved) :
    Answers s (rsmEip v ((s.smmField 0x7F02 2).testBit 0) (s.smmField 0x7F00 2)) (s.ResumesAt v) := by
  refine .bindEq (h.mapField (by decide)) ?_
  unfold State.ResumesAt
  cases halt : (s.smmField 0x7F02 2).testBit 0 with
  | true => exact .pure ⟨fun _ => rfl, nofun, nofun⟩
  | false =>
    by_cases io : s.smmField 0x7F00 2 = 0xFF
    · rw [if_neg Bool.false_ne_true, if_pos io]
      refine .withRegs ?_
      cases s.cpu.smm.ioRestartEip with
      | some e => exact .pure ⟨nofun, fun _ h0 => by omega, by rintro _ _ _ ⟨⟩; rfl⟩
      | none => exact .free fun _ => ⟨nofun, fun _ h0 => by omega, nofun⟩
    · rw [if_neg Bool.false_ne_true, if_neg io]
      exact .pure ⟨nofun, fun _ _ => rfl, fun _ h => absurd h io⟩

end

/-! RSM. -/

/-- What RSM does when it has read the map. -/
def rsmEnd (c : Cpu) (v : SmmSaved) (cr0 : W32) (g : Gprs) (fl eip base : W32) : M Unit := do
  if !rsmInvalid cr0 v.cr4 ∧ cr0 ≠ v.cr0 then throw (.refuse .smmMapModified)
  let n := if rsmInvalid cr0 v.cr4 then cr0Value cr0 else cr0
  modCpu fun c => c.resumed v n g fl eip
  onBus (modBus (Bus.resumed c n v.cr4))
  serialize
  if rsmInvalid cr0 v.cr4 then modCpu fun c => { c with cpl := 0#2, hid.run := .shutdown }
  else modCpu (·.leftSmm base)

theorem rsmLoad_reads {s : State} {v : SmmSaved} (h : s.MapReadable)
    (images : ∀ x ∈ readOnlyImages v, s.smmField x.1 x.2.1 = x.2.2)
    (reserved : smmReserved.flatMap (fun x => s.bus.readBytes (smmAddrs s.cpu x.1 x.2)) = v.reserved)
    (halt : (s.smmField 0x7F02 2).testBit 0 = true → v.halted = true)
    (io : s.smmField 0x7F00 2 = 0 ∨ s.smmField 0x7F00 2 = 0xFF) :
    ∃ eip k, s.ResumesAt v eip ∧ rsmLoad v s = rsmEnd s.cpu v (s.smmWord 0x7FFC) s.smmGprs (s.smmWord 0x7FF4) eip
      (s.smmWord 0x7EF8) (s.frees k) := by
  have checks : ∀ x ∈ readOnlyImages v, InMap x.1 x.2.1 ∧ s.smmField x.1 x.2.1 = x.2.2 :=
    fun x hx => ⟨readOnlyImages_inMap v x hx, images x hx⟩
  have control : ¬((s.smmField 0x7F02 2).testBit 0 && !v.halted
      || decide (s.smmField 0x7F00 2 ≠ 0 ∧ s.smmField 0x7F00 2 ≠ 0xFF)) = true := by
    simp only [Bool.or_eq_true, Bool.and_eq_true, Bool.not_eq_true', decide_eq_true_eq, not_or, not_and]
    exact ⟨fun hb => by simp [halt hb], fun h0 hf => hf (io.resolve_left h0)⟩
  obtain ⟨_, k1, -, run1⟩ := (h.checkImages checks).onBus_bind s.bus.freeCtr
  obtain ⟨_, k2, rfl, run2⟩ := (h.mapReserved smmReserved_fits).onBus_bind k1
  obtain ⟨_, k3, rfl, run3⟩ := (h.mapField (off := 0x7FFC) (n := 4) (by decide)).onBus_bind k2
  obtain ⟨_, k4, rfl, run4⟩ := (h.mapField (off := 0x7F02) (n := 2) (by decide)).onBus_bind k3
  obtain ⟨_, k5, rfl, run5⟩ := (h.mapField (off := 0x7F00) (n := 2) (by decide)).onBus_bind k4
  obtain ⟨eip, k6, heip, run6⟩ := (h.rsmEip v).onBus_bind k5
  obtain ⟨_, k7, rfl, run7⟩ := h.mapGprs.onBus_bind k6
  obtain ⟨_, k8, rfl, run8⟩ := (h.mapField (off := 0x7FF4) (n := 4) (by decide)).onBus_bind k7
  obtain ⟨_, k9, rfl, run9⟩ := (h.mapField (off := 0x7EF8) (n := 4) (by decide)).onBus_bind k8
  refine ⟨eip, k9, heip, ?_⟩
  show rsmLoad v (s.frees s.bus.freeCtr) = _
  unfold rsmLoad
  rw [M.bind_ok (run_getCpu _), run1, run2, run_ite, if_neg (not_not_intro reserved)]
  dsimp only
  rw [run3, run4, run5, run_ite, if_neg control]
  rw [run6, run7, run8, run9]
  rfl

theorem Bus.resumed_frees (s : State) (k : Nat) (c : Cpu) (cr0 cr4 : W32) :
    Bus.resumed c cr0 cr4 (s.frees k).bus = { Bus.resumed c cr0 cr4 s.bus with freeCtr := k } := by
  unfold Bus.resumed
  split <;> rfl

section
variable (s : State) (v : SmmSaved) (g : Gprs) (fl eip base : W32) (k : Nat)

/-- With the image of CR0 that entry saved, SMM is left. -/
theorem rsmEnd_leaves (c : Cpu) (hv : rsmInvalid v.cr0 v.cr4 = false) :
    rsmEnd c v v.cr0 g fl eip base (s.frees k) = .ok ()
      { cpu := (s.cpu.resumed v v.cr0 g fl eip).leftSmm base
        bus := { Bus.resumed c v.cr0 v.cr4 s.bus with stale := [], oldPg := false, freeCtr := k } } := by
  unfold rsmEnd
  rw [run_ite, if_neg (by simp)]
  simp only [hv]
  show EStateM.Result.ok () (State.mk ((s.cpu.resumed v v.cr0 g fl eip).leftSmm base)
    (Bus.resumed c v.cr0 v.cr4 (s.frees k).bus).serialized) = _
  rw [Bus.resumed_frees]
  rfl

/-- With an illegal one, the processor shuts down. -/
theorem rsmEnd_shutsDown (c : Cpu) {cr0 : W32} (hv : rsmInvalid cr0 v.cr4 = true) :
    rsmEnd c v cr0 g fl eip base (s.frees k) = .ok ()
      { cpu := { s.cpu.resumed v (cr0Value cr0) g fl eip with cpl := 0#2, hid.run := .shutdown }
        bus := { Bus.resumed c (cr0Value cr0) v.cr4 s.bus with stale := [], oldPg := false, freeCtr := k } } := by
  unfold rsmEnd
  rw [run_ite, if_neg (by simp [hv])]
  simp only [hv]
  show EStateM.Result.ok () (State.mk { s.cpu.resumed v (cr0Value cr0) g fl eip with cpl := 0#2, hid.run := .shutdown }
    (Bus.resumed c (cr0Value cr0) v.cr4 (s.frees k).bus).serialized) = _
  rw [Bus.resumed_frees]
  rfl

end

theorem rsmOp_inSmm {s : State} {v : SmmSaved} (hi : s.cpu.smm.inSmm = true) (hv : s.cpu.smm.saved = some v) :
    rsmOp s = rsmLoad v s := by
  unfold rsmOp
  rw [M.bind_ok (run_getCpu s), run_ite, if_neg (by simp [hi])]
  dsimp only
  rw [hv]

theorem rsmOp_outside {s : State} (hi : s.cpu.smm.inSmm = false) : rsmOp s = .error (.exc .ud) s := by
  unfold rsmOp
  rw [M.bind_ok (run_getCpu s), run_ite, if_pos (by simp [hi])]
  rfl

/-- Settles O54: the map is read, then RSM ends in one of two ways. -/
theorem rsmRestoresSavedState : Obligations.RsmRestoresSavedState := by
  unfold Obligations.RsmRestoresSavedState
  refine ⟨fun s v hi hv map coherent images reserved hhalt hio => ?_, fun s => ⟨?_, fun hi => ?_⟩⟩
  · have readable : s.past.MapReadable := ⟨coherent, fun a ha => (map a ha).2, fun a ha => (map a ha).1⟩
    obtain ⟨eip, k, ⟨ehalt, enext, eio⟩, loads⟩ := rsmLoad_reads readable images reserved hhalt hio
    have run : rsmOp s.past = _ := (rsmOp_inSmm (s := s.past) hi hv).trans loads
    refine ⟨eip, k, ehalt, enext, eio, fun hcr0 hvalid => exec_next (x := rsmOp) ?_,
      fun hbad => exec_next (x := rsmOp) (run.trans (rsmEnd_shutsDown s.past v _ _ _ _ k s.past.cpu hbad))⟩
    rw [show s.past.smmWord 0x7FFC = v.cr0 from hcr0] at run
    exact run.trans (rsmEnd_leaves s.past v _ _ _ _ k s.past.cpu hvalid)
  · exact exec_raises (x := raise .ud) (t := s.past) rfl rfl rfl
  · exact exec_raises (x := rsmOp) (rsmOp_outside (s := s.past) hi) rfl rfl

end Sys2Proof.Machine
end

section
namespace Sys2Proof.Machine

/-! What is known of an entry to SMM that completes. -/

theorem typesOf_eq_ok {c : Cpu} {l : List Nat} {ts : List MemType} {b b1 : Bus} (h : typesOf l c b = .ok ts b1) :
    b1 = b ∧ ∀ a ∈ l, ∃ ty, memType c none a = .ok ty := by
  induction l generalizing ts b with
  | nil => cases h; exact ⟨rfl, nofun⟩
  | cons a l ih =>
    obtain ⟨ty, b', first, rest⟩ := B.bind_eq_ok h
    obtain ⟨ts', b'', others, last⟩ := B.bind_eq_ok rest
    cases last
    cases hty : memType c none a with
    | error r =>
      cases (typeOrRefuse_error hty b).symm.trans first
    | ok ty' =>
      cases (typeOrRefuse_ok hty b).symm.trans first
      obtain ⟨rfl, typed⟩ := ih others
      exact ⟨rfl, List.forall_mem_cons.mpr ⟨⟨_, hty⟩, typed⟩⟩

/-- The bytes at offsets of the map lie in memory of a defined type. -/
def Cpu.TypedAt (c : Cpu) (off n : Nat) : Prop := ∀ a ∈ smmAddrs c off n, ∃ ty, memType c none a = .ok ty

theorem smmPhys_eq_ok {c : Cpu} {off n : Nat} {p : Phys} {b b1 : Bus} (h : smmPhys off n c b = .ok p b1) :
    incoherent c b = false ∧ b1 = b ∧ p.addrs = smmAddrs c off n ∧ c.TypedAt off n := by
  unfold smmPhys at h
  rw [B.bind_ok (run_regs c b), B.bind_ok (run_getBus c b)] at h
  cases hc : incoherent c b with
  | true =>
    rw [hc] at h
    cases h
  | false =>
    rw [hc] at h
    obtain ⟨ts, b', types, last⟩ := B.bind_eq_ok h
    obtain ⟨rfl, typed⟩ := typesOf_eq_ok types
    cases last
    exact ⟨rfl, rfl, rfl, typed⟩

theorem mapReserved_eq_ok {c : Cpu} {x : Nat × Nat} {l : List (Nat × Nat)} {r : List Byte} {b b1 : Bus}
    (h : mapReserved (x :: l) c b = .ok r b1) :
    incoherent c b = false ∧ c.TypedAt x.1 x.2 ∧ ∃ r' b', mapReserved l c b' = .ok r' b1 := by
  obtain ⟨bytes, b', first, rest⟩ := B.bind_eq_ok h
  obtain ⟨r', b'', others, last⟩ := B.bind_eq_ok rest
  cases last
  obtain ⟨p, b3, access, -⟩ := B.bind_eq_ok first
  obtain ⟨coherent, -, -, typed⟩ := smmPhys_eq_ok access
  exact ⟨coherent, typed, r', b', others⟩

theorem mapReserved_typed {c : Cpu} {l : List (Nat × Nat)} {r : List Byte} {b b1 : Bus}
    (h : mapReserved l c b = .ok r b1) : ∀ x ∈ l, c.TypedAt x.1 x.2 := by
  induction l generalizing r b with
  | nil => exact nofun
  | cons x l ih =>
    obtain ⟨-, typed, _, _, rest⟩ := mapReserved_eq_ok h
    exact List.forall_mem_cons.mpr ⟨typed, ih rest⟩

/-- The first store of a map, and the rest. -/
theorem writeMap_eq_ok {c : Cpu} {off n v : Nat} {l : List (Nat × Nat × Nat)} {b b2 : Bus}
    (h : writeMap ((off, n, v) :: l) c b = .ok () b2) :
    ∃ b1 p, speculate c b = .ok () b1 ∧ p.addrs = smmAddrs c off n ∧ c.TypedAt off n
      ∧ writeMap l c (Bus.store c p (leBytes n v) b1) = .ok () b2 := by
  obtain ⟨_, b1, ahead, h1⟩ := B.bind_eq_ok h
  obtain ⟨p, b', access, h2⟩ := B.bind_eq_ok h1
  obtain ⟨-, rfl, addrs, typed⟩ := smmPhys_eq_ok access
  rw [B.bind_ok (run_regs c b'), B.bind_ok (run_modBus _ c b')] at h2
  exact ⟨b', p, ahead, addrs, typed, h2⟩

theorem writeMap_typed {c : Cpu} {l : List (Nat × Nat × Nat)} {b b1 : Bus} (h : writeMap l c b = .ok () b1) :
    ∀ f ∈ l, c.TypedAt f.1 f.2.1 := by
  induction l generalizing b with
  | nil => exact nofun
  | cons f l ih =>
    obtain ⟨_, _, -, -, typed, rest⟩ := writeMap_eq_ok h
    exact List.forall_mem_cons.mpr ⟨typed, ih rest⟩

/-! Entry to SMM leaves the address map as it is. -/

/-- Every run of `x` that completes leaves the address map as it is. -/
structure KeepsMap {α : Type} (x : B α) : Prop where
  same (c : Cpu) (b : Bus) (r : α) (b1 : Bus) : x c b = .ok r b1 → b1.map = b.map

section
variable {α β : Type}

theorem KeepsMap.bind {x : B α} {f : α → B β} (hx : KeepsMap x) (hf : ∀ a, KeepsMap (f a)) : KeepsMap (x >>= f) := by
  refine ⟨fun c b r b2 h => ?_⟩
  obtain ⟨a, b1, first, rest⟩ := B.bind_eq_ok h
  exact ((hf a).same c b1 r b2 rest).trans (hx.same c b a b1 first)

theorem KeepsMap.pure (a : α) : KeepsMap (pure a : B α) := ⟨fun _ _ _ _ h => by cases h; rfl⟩
theorem KeepsMap.regs : KeepsMap regs := ⟨fun _ _ _ _ h => by cases h; rfl⟩
theorem KeepsMap.getBus : KeepsMap getBus := ⟨fun _ _ _ _ h => by cases h; rfl⟩
theorem KeepsMap.free : KeepsMap free := ⟨fun _ _ _ _ h => by cases h; rfl⟩
theorem KeepsMap.modBus {f : Bus → Bus} (h : ∀ b, (f b).map = b.map) : KeepsMap (modBus f) :=
  ⟨fun _ b _ _ e => by cases e; exact h b⟩
theorem KeepsMap.ite {q : Prop} [Decidable q] {x y : B α} (hx : KeepsMap x) (hy : KeepsMap y) :
    KeepsMap (if q then x else y) := by
  split <;> assumption

end

theorem keepsMap_speculateAt (la : W32) : KeepsMap (speculateAt la) := by
  refine .bind .regs fun c => .bind .getBus fun b => .bind (.modBus Bus.accessed_map) fun _ => ?_
  split
  · exact .ite (.bind (.bind .regs fun _ => .modBus fun b => Bus.setAccessedFlags_map b _ _) fun _ =>
      .modBus fun b => Bus.fill_map b _) (.pure _)
  · exact .pure _

theorem keepsMap_speculateFor (n : Nat) : KeepsMap (speculateFor n) := by
  induction n with
  | zero => exact .pure ()
  | succ n ih => exact .bind .free fun _ => .bind (keepsMap_speculateAt _) fun _ => ih

theorem keepsMap_speculate : KeepsMap speculate :=
  .bind .regs fun _ => .ite (.bind .free fun _ => keepsMap_speculateFor _) (.pure _)

theorem writeMap_map {c : Cpu} {l : List (Nat × Nat × Nat)} {b b1 : Bus} (h : writeMap l c b = .ok () b1) :
    b1.map = b.map := by
  induction l generalizing b with
  | nil => exact keepsMap_speculate.same c b () b1 h
  | cons f l ih =>
    obtain ⟨_, _, ahead, -, -, rest⟩ := writeMap_eq_ok h
    have after := ih rest
    rw [Bus.store_map] at after
    exact after.trans (keepsMap_speculate.same _ _ _ _ ahead)

/-! Without paging, and with caching prevented, nothing is walked ahead of need. -/

section
variable {c : Cpu}

theorem looks_speculateAt (h : c.cd = true) (la : W32) : Looks c (speculateAt la) := by
  refine .regs <| .bind .getBus fun b => .bind (.modBus Bus.accessed_mem Bus.accessed_map) fun _ => ?_
  split
  · next types _ =>
    have idle : walkAhead c types = false := by simp [walkAhead, h]
    rw [idle]
    exact .pure ()
  · exact .pure ()

theorem looks_speculateFor (h : c.cd = true) (n : Nat) : Looks c (speculateFor n) := by
  induction n with
  | zero => exact .pure ()
  | succ n ih => exact .bind .free fun _ => .bind (looks_speculateAt h _) fun _ => ih

theorem looks_speculate (h : c.pg = false ∨ c.cd = true) : Looks c speculate := by
  refine .regs ?_
  obtain h | h := h
  · rw [h]
    exact .pure ()
  · exact .ite (.bind .free fun _ => looks_speculateFor h _) (.pure ())

end

/-! The bytes of the map. -/

/-- The address of the byte at an offset of the map. -/
def Cpu.smmAt (c : Cpu) (off : Nat) : Nat := (c.smm.smbase + BitVec.ofNat 32 (0x8000 + off)).toNat

theorem smmAddrs_eq (c : Cpu) (off n : Nat) : smmAddrs c off n = ((List.range n).map (off + ·)).map c.smmAt := by
  rw [List.map_map]
  exact List.map_congr_left fun i _ => by simp only [Function.comp, Cpu.smmAt, Nat.add_assoc]

theorem Cpu.smmAt_inj (c : Cpu) {x y : Nat} (hx : x < 0x8000) (hy : y < 0x8000) (h : c.smmAt x = c.smmAt y) : x = y := by
  simp only [Cpu.smmAt, BitVec.toNat_add, BitVec.toNat_ofNat] at h
  omega

/-- The fields that hold values: offset, bytes. -/
def smmFields : List (Nat × Nat) := (smmMap Cpu.reset).map fun f => (f.1, f.2.1)

theorem smmMap_fields (c : Cpu) : (smmMap c).map (fun f => (f.1, f.2.1)) = smmFields := rfl

/-- The offsets of the bytes of these fields. -/
def smmOffsets : List Nat := smmFields.flatMap fun f => (List.range f.2).map (f.1 + ·)

theorem smmOffsets_nodup : smmOffsets.Nodup := by decide +kernel

theorem smmOffsets_lt : ∀ x ∈ smmOffsets, x < 0x8000 := by decide +kernel

/-- The fields and the reserved bytes make up the map. -/
theorem smmFields_cover : ∀ i < 0x200, ∃ f ∈ smmFields ++ smmReserved, f.1 ≤ 0x7E00 + i ∧ 0x7E00 + i < f.1 + f.2 := by
  decide +kernel

/-- The bytes that entry stores in a field, and where. -/
def smmCells (c : Cpu) (f : Nat × Nat × Nat) : List (Nat × Byte) := (smmAddrs c f.1 f.2.1).zip (leBytes f.2.1 f.2.2)

theorem smmCells_length (c : Cpu) (f : Nat × Nat × Nat) :
    (smmAddrs c f.1 f.2.1).length = (leBytes f.2.1 f.2.2).length := by
  simp [smmAddrs, leBytes_length]

theorem smmCells_addrs (c : Cpu) : ((smmMap c).flatMap (smmCells c)).map (·.1) = smmOffsets.map c.smmAt := by
  have cells (f : Nat × Nat × Nat) :
      (smmCells c f).map (·.1) = ((List.range f.2.1).map (f.1 + ·)).map c.smmAt := by
    rw [smmCells, List.map_fst_zip (smmCells_length c f).le, smmAddrs_eq]
  rw [List.map_flatMap, smmOffsets, ← smmMap_fields c, List.map_flatMap, List.flatMap_map]
  simp only [cells]

theorem smmCells_nodup (c : Cpu) : (((smmMap c).flatMap (smmCells c)).map (·.1)).Nodup := by
  rw [smmCells_addrs]
  exact smmOffsets_nodup.map_on fun x hx y hy => c.smmAt_inj (smmOffsets_lt x hx) (smmOffsets_lt y hy)

/-- Without walks ahead of need, entry stores the fields and nothing else. -/
theorem writeMap_wrote {c : Cpu} (hc : c.pg = false ∨ c.cd = true) {l : List (Nat × Nat × Nat)} {b b1 : Bus}
    (hw : ∀ f ∈ l, ∀ a ∈ smmAddrs c f.1 f.2.1, b.writable a = true) (h : writeMap l c b = .ok () b1) :
    Wrote (l.flatMap (smmCells c)) b b1 := by
  induction l generalizing b with
  | nil =>
    obtain ⟨mem, map⟩ := (looks_speculate hc).same b () b1 h
    exact ⟨mem, map⟩
  | cons f l ih =>
    obtain ⟨b', p, ahead, addrs, -, rest⟩ := writeMap_eq_ok h
    obtain ⟨mem, map⟩ := (looks_speculate hc).same b () b' ahead
    have writable (a : Nat) : b'.writable a = b.writable a := by unfold Bus.writable Bus.region; rw [map]
    have stored : (Bus.store c p (leBytes f.2.1 f.2.2) b').mem = b.mem.writeBytes (smmCells c f) := by
      rw [Bus.store_mem, addrs, ← mem]
      refine congrArg b'.mem.writeBytes (List.filter_eq_self.mpr fun x hx => ?_)
      rw [writable]
      exact hw f List.mem_cons_self x.1 (List.of_mem_zip hx).1
    have first : Wrote (smmCells c f) b (Bus.store c p (leBytes f.2.1 f.2.2) b') := ⟨stored, map⟩
    refine first.trans (ih (fun f hf a ha => ?_) rest)
    exact (writable a).trans (hw f (List.mem_cons_of_mem _ hf) a ha)

theorem Memory.readBytes_zip {m : Memory} {as : List Nat} {l : List Byte} (hl : as.length = l.length)
    (h : ∀ x ∈ as.zip l, m.read x.1 = x.2) : m.readBytes as = l := by
  have values : (as.zip l).map (fun x => m.read x.1) = (as.zip l).map (·.2) := List.map_congr_left h
  rw [List.map_snd_zip hl.ge] at values
  rw [Memory.readBytes, ← List.map_fst_zip hl.le, List.map_map]
  exact values

theorem Wrote.smmField {c : Cpu} {b b1 : Bus} (h : Wrote ((smmMap c).flatMap (smmCells c)) b b1) (hwf : b.mem.wf = true)
    {f : Nat × Nat × Nat} (hf : f ∈ smmMap c) : b1.mem.readBytes (smmAddrs c f.1 f.2.1) = leBytes f.2.1 f.2.2 := by
  refine Memory.readBytes_zip (smmCells_length c f) fun x hx => ?_
  rw [h.mem]
  exact Memory.read_writeBytes_mem _ hwf (smmCells_nodup c) (List.mem_flatMap.mpr ⟨f, hf, hx⟩)

/-- Each value fits into its field. -/
theorem smmMap_small (c : Cpu) : ∀ f ∈ smmMap c, f.2.2 < 256 ^ f.2.1 := by
  have halt : (if c.hid.run = .halted then 1 else 0) < 256 ^ 2 := by split <;> decide
  simp only [smmMap, List.forall_mem_cons]
  refine ⟨?_, ?_, ?_, ?_, ?_, ?_, ?_, ?_, ?_, ?_, ?_, ?_, ?_, ?_, ?_, ?_, ?_, ?_, ?_, ?_, ?_, ?_, halt, by decide, ?_, ?_, nofun⟩ <;>
    exact BitVec.isLt _

/-! The state that entry leaves. -/

/-- What entry to SMM saves outside the map (R1122), and the reserved bytes of the map. -/
def Cpu.smmSaved (c : Cpu) (reserved : List Byte) : SmmSaved :=
  { cr0 := c.ctl.cr0, cr3 := c.ctl.cr3, cr4 := c.ctl.cr4, dr6 := c.dbg.dr6, dr7 := c.dbg.dr7, segs := c.seg
    ldtrSel := c.ldtr.sel, trSel := c.tr.sel, halted := c.hid.run == .halted, haltEip := c.hid.haltEip, cpl := c.cpl
    reserved }

/-- The registers on entry to SMM (R1112, R1122, R1135). -/
def Cpu.enteredSmm (c : Cpu) (g : Gprs) (dr6 : W32) (reserved : List Byte) : Cpu :=
  { c with
    gpr := g, fl := .reset, eip := 0x8000#32, seg := .smm c.smm.smbase, cpl := 0#2
    ctl.cr0 := c.ctl.cr0 &&& 0x7FFFFFF2#32, ctl.cr4 := 0#32
    dbg.dr6 := dr6, dbg.dr7 := 0x400#32
    smm.inSmm := true, smm.smiBlocked := true, smm.nmiBlockedBySmm := true, smm.lidtDone := false
    smm.ioRestartEip := c.notes.ioEip, smm.saved := some (c.smmSaved reserved)
    hid := { c.hid with run := .running, ssShadow := false, stiShadow := false, pendingDb := none } }

/-- Entry that completes stores the map, then reads its reserved bytes. -/
theorem enterSmm_eq_ok {s t : State} (h : enterSmm s = .ok () t) :
    ∃ b1 b2 reserved g dr6 k, writeMap (smmMap s.cpu) s.cpu s.bus = .ok () b1
      ∧ mapReserved smmReserved s.cpu b1 = .ok reserved b2
      ∧ t = { cpu := s.cpu.enteredSmm g dr6 reserved
              bus := { b2 with stale := [], oldPg := false, freeCtr := k } } := by
  obtain ⟨c, s0, get, h0⟩ := M.bind_eq_ok h
  cases get
  obtain ⟨_, s1, first, h1⟩ := M.bind_eq_ok h0
  obtain ⟨b1, written, rfl⟩ := onBus_eq_ok first
  obtain ⟨reserved, s2, second, h2⟩ := M.bind_eq_ok h1
  obtain ⟨b2, kept, rfl⟩ := onBus_eq_ok second
  obtain ⟨g, s3, gprs, h3⟩ := M.bind_eq_ok h2
  cases gprs
  cases h3
  exact ⟨b1, b2, reserved, _, _, _, written, kept, rfl⟩

theorem smmTyped_of_fields {c : Cpu} (fields : ∀ f ∈ smmMap c, c.TypedAt f.1 f.2.1)
    (reserved : ∀ f ∈ smmReserved, c.TypedAt f.1 f.2) : c.SmmTyped := by
  have typed : ∀ f ∈ smmFields ++ smmReserved, c.TypedAt f.1 f.2 := by
    rw [← smmMap_fields c]
    intro f hf
    obtain hf | hf := List.mem_append.mp hf
    · obtain ⟨g, hg, rfl⟩ := List.mem_map.mp hf
      exact fields g hg
    · exact reserved f hf
  intro a ha
  obtain ⟨i, hi, rfl⟩ := List.mem_map.mp ha
  obtain ⟨f, hf, lo, hi⟩ := smmFields_cover i (List.mem_range.mp hi)
  refine typed f hf _ (List.mem_map.mpr ⟨0x7E00 + i - f.1, List.mem_range.mpr (by omega), ?_⟩)
  congr 3
  omega

/-- The registers on entry select the memory types that they selected before. -/
theorem memType_enteredSmm (c : Cpu) (g : Gprs) (dr6 : W32) (reserved : List Byte) (pa : Nat) :
    memType (c.enteredSmm g dr6 reserved) none pa = memType c none pa := by
  have cd : (c.enteredSmm g dr6 reserved).cd = c.cd := by simp [Cpu.cd, Cpu.enteredSmm, bit]
  unfold memType
  rw [cd]
  rfl

theorem incoherent_enteredSmm (c : Cpu) (g : Gprs) (dr6 : W32) (reserved : List Byte) (b : Bus) :
    incoherent (c.enteredSmm g dr6 reserved) b = incoherent c b := by
  simp [incoherent, Cpu.cd, Cpu.enteredSmm, bit]

theorem absent_of_writable {b : Bus} {a : Nat} (h : b.writable a = true) : b.absent a = false := by
  unfold Bus.writable at h
  unfold Bus.absent
  rw [Option.isNone_iff_eq_none.mp h]
  rfl

/-- Read-write memory gives the bytes that it holds, whatever else of the bus has changed. -/
theorem Bus.readBytes_writable {b b1 : Bus} {as : List Nat} (hmem : b1.mem = b.mem) (hmap : b1.map = b.map)
    (h : ∀ a ∈ as, b.writable a = true) : b1.readBytes as = b.mem.readBytes as := by
  refine List.map_congr_left fun a ha => ?_
  have here : b1.writable a = true := by
    rw [← h a ha]
    unfold Bus.writable Bus.region
    rw [hmap]
  rw [Bus.read_writable here, hmem]

/-- Where the map is read-write memory, RSM can read it right after entry, and reads the reserved bytes as entry did. -/
theorem enterSmm_readable {s t : State} (hw : ∀ a ∈ smmAddrs s.cpu 0x7E00 0x200, s.bus.writable a = true)
    (h : enterSmm s = .ok () t) :
    ∃ b1 g dr6 r, writeMap (smmMap s.cpu) s.cpu s.bus = .ok () b1
      ∧ t.cpu = s.cpu.enteredSmm g dr6 r
      ∧ (∀ off n, InMap off n → t.bus.readBytes (smmAddrs s.cpu off n) = b1.mem.readBytes (smmAddrs s.cpu off n))
      ∧ smmReserved.flatMap (fun x => t.bus.readBytes (smmAddrs t.cpu x.1 x.2)) = r
      ∧ t.MapReadable := by
  obtain ⟨b1, b2, reserved, g, dr6, k, written, kept, rfl⟩ := enterSmm_eq_ok h
  have writable : ∀ a ∈ smmAddrs s.cpu 0x7E00 0x200, b1.writable a = true := fun a ha => by
    rw [← hw a ha]
    unfold Bus.writable Bus.region
    rw [writeMap_map written]
  have bytes {b : Bus} (hmem : b.mem = b1.mem) (hmap : b.map = b1.map) (off n : Nat) (hm : InMap off n) :
      b.readBytes (smmAddrs s.cpu off n) = b1.mem.readBytes (smmAddrs s.cpu off n) :=
    Bus.readBytes_writable hmem hmap fun a ha => writable a (smmAddrs_subset s.cpu hm.1 hm.2 ha)
  have readable : (State.mk s.cpu b1).MapReadable :=
    ⟨(mapReserved_eq_ok kept).1, smmTyped_of_fields (writeMap_typed written) (mapReserved_typed kept),
      fun a ha => absent_of_writable (writable a ha)⟩
  obtain ⟨_, k', rfl, run⟩ := (readable.mapReserved smmReserved_fits).run b1.freeCtr
  cases run.symm.trans kept
  refine ⟨b1, g, dr6, _, written, rfl, bytes rfl rfl, List.flatMap_congr fun x hx => ?_, ?_, fun a ha => ?_,
    readable.present⟩
  · have inMap : InMap x.1 x.2 := smmReserved_fits x hx
    exact (bytes (b := { b1 with stale := [], oldPg := false, freeCtr := k }) rfl rfl _ _ inMap).trans
      (bytes (b := b1) rfl rfl _ _ inMap).symm
  · rw [incoherent_enteredSmm]
    exact readable.coherent
  · rw [memType_enteredSmm]
    exact readable.typed a ha

/-- RSM right after entry finds what entry stored, if no walk ahead of need can have set a flag in it. -/
theorem enterSmm_fields {s t : State} (hwf : s.bus.mem.wf = true) (hc : s.cpu.pg = false ∨ s.cpu.cd = true)
    (hw : ∀ a ∈ smmAddrs s.cpu 0x7E00 0x200, s.bus.writable a = true) (h : enterSmm s = .ok () t) :
    ∀ f ∈ smmMap s.cpu, t.smmField f.1 f.2.1 = f.2.2 := by
  obtain ⟨b1, g, dr6, r, written, ht, bytes, -⟩ := enterSmm_readable hw h
  intro f hf
  have inMap : InMap f.1 f.2.1 := smmMap_fits s.cpu f hf
  have wrote := writeMap_wrote hc (fun f hf a ha =>
    hw a (smmAddrs_subset s.cpu (smmMap_fits s.cpu f hf).1 (smmMap_fits s.cpu f hf).2 ha)) written
  have addrs : smmAddrs t.cpu f.1 f.2.1 = smmAddrs s.cpu f.1 f.2.1 := by rw [ht]; rfl
  rw [State.smmField, addrs, bytes _ _ inMap, wrote.smmField hwf hf, leNat_leBytes,
    Nat.mod_eq_of_lt (smmMap_small s.cpu f hf)]

/-- The images that a handler must not modify are among the fields that entry stores. -/
theorem readOnlyImages_subset (c : Cpu) (r : List Byte) : readOnlyImages (c.smmSaved r) ⊆ smmMap c := by
  simp [readOnlyImages, smmMap, Cpu.smmSaved]

/-- An image of CR0 and one of CR4 that are legal do not shut the processor down. -/
theorem rsmInvalid_of_legal {cr0 cr4 : W32} (h0 : Cr0Legal cr0) (h4 : Cr4Legal cr4) : rsmInvalid cr0 cr4 = false := by
  obtain ⟨-, paging, caches⟩ := h0
  have table : cr4 &&& 0xFFFFF800#32 = 0#32 := h4
  unfold rsmInvalid
  rw [table]
  cases pg : bit cr0 31 <;> cases nw : bit cr0 29 <;> simp_all [Cr0PagingProtected, Cr0CachesCoherent]

/-- Settles O55: entry leaves a map that RSM accepts, and RSM loads from it what entry stored. -/
theorem rsmUndoesSmmEntry : Obligations.RsmUndoesSmmEntry := by
  unfold Obligations.RsmUndoesSmmEntry
  intro s t legal hcr0 _ hw h hmap
  obtain ⟨⟨-, -, hcr4, -, -, -⟩, hwf⟩ := legal
  have fields : ∀ f ∈ smmMap s.cpu, t.smmField f.1 f.2.1 = f.2.2 := by
    rw [← or_assoc] at hmap
    exact hmap.elim (enterSmm_fields hwf · hw h) id
  have word {off : Nat} {x : W32} (hx : (off, 4, x.toNat) ∈ smmMap s.cpu) : t.smmWord off = x := by
    rw [State.smmWord, fields _ hx, BitVec.ofNat_toNat, BitVec.setWidth_eq]
  have halt := fields (0x7F02, 2, if s.cpu.hid.run = .halted then 1 else 0) (by simp [smmMap])
  have io : t.smmField 0x7F00 2 = 0 := fields (0x7F00, 2, 0) (by simp [smmMap])
  have gprs : t.smmGprs = s.cpu.gpr := by
    unfold State.smmGprs
    congr 1 <;> exact word (by simp [smmMap])
  have flags : t.smmWord 0x7FF4 = s.cpu.fl.toBits := word (by simp [smmMap])
  obtain ⟨_, g, dr6, r, -, entered, -, reserved, readable⟩ := enterSmm_readable hw h
  have halted : (t.smmField 0x7F02 2).testBit 0 = true → (s.cpu.smmSaved r).halted = true := by
    rw [halt]
    split
    · next found => exact fun _ => beq_iff_eq.mpr found
    · exact nofun
  obtain ⟨c, b⟩ := t
  obtain rfl : c = s.cpu.enteredSmm g dr6 r := entered
  obtain ⟨eip, k, ehalt, enext, -, leaves, -⟩ := rsmRestoresSavedState.1 _ (s.cpu.smmSaved r) rfl rfl
    (fun a ha => ⟨readable.present a ha, readable.typed a ha⟩) readable.coherent
    (fun f hf => fields f (readOnlyImages_subset _ _ hf)) reserved halted (.inl io)
  have resumes : eip = if s.cpu.hid.run = .halted then s.cpu.hid.haltEip else s.cpu.eip := by
    rw [halt] at ehalt enext
    split
    · next found => exact ehalt (by rw [if_pos found]; rfl)
    · next other => exact (enext (by rw [if_neg other]; rfl) io).trans (word (by simp [smmMap]))
  exact ⟨_, leaves (word (by simp [smmMap, Cpu.smmSaved])) (rsmInvalid_of_legal hcr0 hcr4), gprs,
    (congrArg Eflags.ofBits flags).trans (Eflags.ofBits_toBits _), resumes, rfl, rfl, rfl, rfl, rfl, rfl, rfl, rfl,
    word (by simp [smmMap]), rfl, rfl⟩

end Sys2Proof.Machine
end
